-- ==== Sys2Proof/Word.lean ====
section
/-! DEFINITION. The plainest types of the model: bytes, byte strings and sparse tables.
Multi-byte fields are little-endian lists of bytes (R3); the readers and writers of fields are in Machine/Bytes.lean. -/

namespace Sys2Proof

/-- One byte. -/
abbrev Byte := BitVec 8

/-- A string of bytes, lowest address first (R3). -/
abbrev Bytes := List Byte

/-- FP32 bits (spec 03). -/
abbrev F32 := BitVec 32

/-- A sparse table: keys strictly rising, no entry equal to the table's default. -/
abbrev Tab (α : Type) := List (Nat × α)

end Sys2Proof
end

