-- ==== Sys2Proof/Syntax.lean ====
section
/-! DEFINITION. The commands of the block: one constructor per row of spec/opcode_table.json.
The table gives no bits and no operands; the operands are what the outside supplies to the step, or which of the
machine's own pending items the step acts on (DESIGN CHOICE, notes/assumptions/2.md). -/

namespace Sys2Proof

/-- Who reads a burst (Table 07-4). -/
inductive Reader where
  /-- an attention read of a staged copy: die and copy number -/
  | attention (die copy : Nat)
  /-- an append comparison, the read of an append's partial write, or a seal, of the page with this key -/
  | append (key : Nat)
  /-- a migration or recovery source read: the move's number -/
  | move (id : Nat)
  /-- one copy of a node structure; `both` when the other copy failed too; the key names a page of its shard -/
  | structure (both : Bool) (key : Nat)
  /-- a host read through the HDM window -/
  | host
  /-- a patrol read -/
  | patrol
deriving DecidableEq, Repr

/-- The 270 commands and events of the block, in the table's order. -/
inductive Instr where
  /-- INPUT_POWER_ON (R451). The 36 V input rises above 29.0 V and the hot-swap controller turns the module on and starts soft start. -/
  | inputPowerOn (cv : Nat)
  /-- INPUT_POWER_OFF (R451). The input falls below 28.0 V, rises above 42.0 V, or is interrupted for more than 50 µs, and power is removed from the whole module. -/
  | inputPowerOff (cv : Nat) (gap : Nat)
  /-- OVERVOLTAGE_RECOVER (R451). After an overvoltage turn-off the input falls below 41.0 V and the module is turned on again. -/
  | overvoltageRecover (cv : Nat)
  /-- INPUT_OVERCURRENT (R464). The current limit has held for 5 ms or the current exceeds 20 A; the controller turns the module off and latches the fault, driving PWR_FAULT_L low. -/
  | inputOvercurrent (held : Nat) (deciamps : Nat)
  /-- SOFT_START_DONE (R463). Soft start completes, power-good asserts with every die in reset, and the Self-heal die boots. -/
  | softStartDone
  /-- PRESENCE_DETECT (R463). PRSNT_L mates and the switch port's hot-plug controller sees the module present. -/
  | presenceDetect
  /-- SURPRISE_REMOVAL (R467). The module is pulled or loses its input without a drain; it does nothing further and tier 1 is lost. -/
  | surpriseRemoval
  /-- ROM_BOOT (R489). At power-good or after a watchdog reset the ROM chooses a slot from the boot-select record, checks images, derives keys and starts the firmware or enters recovery. -/
  | romBoot
  /-- RECOVERY_IMAGE_ACCEPT (R494). In recovery the ROM accepts one image, writes slot 0, checks it, writes PREFERRED 0 with TRY and resets the module. -/
  | recoveryImageAccept (image : Bytes)
  /-- DIE_GROUP_RELEASE (R482). Every die of the previous group has reported ready, and the Self-heal die releases the next group of Table 18-4. -/
  | dieGroupRelease
  /-- DIE_READY_TIMEOUT (R482). A die of a released group has not reported ready by the step's bound; it is held in reset and treated as lost. -/
  | dieReadyTimeout (die : Nat)
  /-- BOOT_CONFIRM (R492). Every die group has been released and reported ready or been treated as lost, and the firmware writes STATE CONFIRMED. -/
  | bootConfirm
  /-- SELF_HEAL_WATCHDOG (R25). Self-heal firmware stops answering for 100,000,000 ticks and the hardware watchdog resets the whole module. -/
  | selfHealWatchdog
  /-- DIE_LOST (R25). The Self-heal die declares a die lost, puts a Yarrow die's controllers into self-refresh, asserts its reset, ends its requests with DIE_LOST and writes an event. -/
  | dieLost (die : Nat)
  /-- SELF_REFRESH_TIMEOUT (R199). A lost Yarrow die's controller has not entered self-refresh within 1,000 ticks and is reset with its die. -/
  | selfRefreshTimeout (die : Nat)
  /-- DIE_RESET_RELEASE (R26). Re-initialisation of a lost die completes, or a tripped die has cooled to 100 °C, and the Self-heal die rebases crossings and releases its reset. -/
  | dieResetRelease (die : Nat)
  /-- DIE_REPORT_READY (R530). A die reports ready after release and GLB_DIE_STATUS clears LOST and sets READY. -/
  | dieReportReady (die : Nat)
  /-- THERMAL_TRIP (R462). A die's comparator trips at 115 °C, removing its core supply; the die is treated as lost, or the module is turned off for the Self-heal die. -/
  | thermalTrip (die : Nat)
  /-- SENSOR_READ (R461). Every 1,000 ticks the Self-heal die reads every die's junction sensor over the management network. -/
  | sensorRead (temps : List Int)
  /-- POWER_CAP_PERIOD (R458). Every 10,000 ticks the Self-heal die measures input power, adjusts Vc, moves each die's thermal limit and sets each die's voltage target. -/
  | powerCapPeriod (watts : Nat)
  /-- REPLICA_LOOP_COUNT (R471). Every 1,000 ticks each die counts its replica loop's handshakes and reports its handshake rate. -/
  | replicaLoopCount (die : Nat) (count : Nat)
  /-- HEALTH_SCORE_UPDATE (R357). Every 1 s the Self-heal die computes the health score and sets or clears HEALTH_LOW. -/
  | healthScoreUpdate
  /-- MANAGEMENT_BEAT_LOSS (R269). A Campion die has received no liveness beat from the Self-heal die for 5,000 ticks and stops advancing its heartbeat count. -/
  | managementBeatLoss (die : Nat)
  /-- REGISTER_WRITE (R527). A host write to a setup register without behaviour of its own is checked, refused or logged, or takes effect whole in the register serial context. -/
  | registerWrite (offset : Nat) (value : BitVec 64) (size : Nat)
  /-- GLB_ENABLE_ARRAYS (R531). A write sets ARRAYS bits, turning on the arrays of those Yarrow dies within 1,000 ticks. -/
  | glbEnableArrays (value : BitVec 64)
  /-- GLB_SETUP_LOCK (R532). A write sets LOCK; every RWL field freezes and the Self-heal die computes the measurement-4 digest. -/
  | glbSetupLock (value : BitVec 64)
  /-- HIF_CONN_SPILL_VALID (R299). A write sets VALID in HIF_CONN_SPILL, creating the 256 MiB spill area. -/
  | hifConnSpillValid (value : BitVec 64)
  /-- RING_ENABLE (R405). The host sets ENABLE in a ring control register; the node checks the setup and enters ENABLED and reads the doorbell, or enters ERROR. -/
  | ringEnable (ring : Nat)
  /-- RING_DISABLE (R405). The host clears ENABLE; the ring enters STOPPING, or DISABLED from ERROR when nothing is outstanding. -/
  | ringDisable (ring : Nat)
  /-- RING_DRAINED (R405). Every fetched command of a STOPPING or ERROR ring has completed and been written, and the ring becomes DISABLED or stays ERROR. -/
  | ringDrained (ring : Nat)
  /-- HIF_IRQ_WRITE (R534). A write to a ring's interrupt register takes effect at its next signalling decision, sending at once if the new DELAY has passed. -/
  | hifIrqWrite (ring : Nat) (value : BitVec 64)
  /-- MEM_ENABLE (R196). A write sets a Yarrow die's MEM_ENABLE bit and its controllers start power-up, training and zero initialisation of all 8 channels. -/
  | memEnable (value : BitVec 64)
  /-- MEM_ENABLE_COMPLETE (R196). Memory enable of a die finishes; channels are marked ready or failed, refresh and patrol start and an event is written. -/
  | memEnableComplete (die : Nat) (failed : Nat)
  /-- LNK_ENABLE_SET (R266). A write sets LNK_ENABLE bits, and each such link starts training in DETECT. -/
  | lnkEnableSet (value : BitVec 64)
  /-- LNK_ENABLE_CLEAR (R280). A write clears LNK_ENABLE bits, taking those links down to DISABLED and electrical idle. -/
  | lnkEnableClear (value : BitVec 64)
  /-- LNK_ESCAPE_WAIT_WRITE (R537). A new escape wait applies to message heads that arrive after the write. -/
  | lnkEscapeWaitWrite (value : BitVec 64)
  /-- LNK_CC_TARGET_WRITE (R537). A new congestion target base or per-hop allowance applies to every connection at its next delay sample. -/
  | lnkCcTargetWrite (value : BitVec 64)
  /-- MAT_ENABLE (R538). A write sets MAT_ENABLE; match enable places copy areas and the overflow table, invalidates entries and profiles, and sets READY or FAILED. -/
  | matEnable (value : BitVec 64)
  /-- PWR_CAP_WRITE (R457). A write to PWR_CAP sets the clamped power cap for the next loop period. -/
  | pwrCapWrite (value : BitVec 64)
  /-- PWR_VMAX_WRITE (R457). A write to PWR_VMAX sets the clamped ceiling voltage for the next loop period. -/
  | pwrVmaxWrite (value : BitVec 64)
  /-- FW_STAGE (R505). The mailbox command reads an image from host memory, writes the slot that is not running and checks it. -/
  | fwStage (length : Nat)
  /-- FW_ACTIVATE (R505). The mailbox command writes PREFERRED as the staged slot with STATE TRY. -/
  | fwActivate
  /-- SVN_COMMIT (R505). The mailbox command blows SVN fuses until FUSED_SVN equals RUNNING_SVN. -/
  | svnCommit
  /-- RESTART (R505). The mailbox command resets the whole module after a completed managed removal, or gives BUSY. -/
  | restart
  /-- CNT_COMPAT_SEL_WRITE (R524). A write to a compatibility selector sets the named die's slot to count an event and restarts its value. -/
  | cntCompatSelWrite (slot : Nat) (value : BitVec 64)
  /-- CNT_COMPAT_CLEAR (R525). A write of CLEAR restarts TICKS and every compatibility value at the next update. -/
  | cntCompatClear (value : BitVec 64)
  /-- CNT_COMPAT_UPDATE (R525). Every 1,000 ticks while HOLD is clear the central reader captures the compatibility tick and slots and writes them as one update. -/
  | cntCompatUpdate
  /-- PERST_ASSERT (R415). PERST_L, a hot reset or a secondary bus reset resets the host interface only. -/
  | perstAssert
  /-- HOST_LINK_DOWN (R415). The host link leaves the active state; the host interface and rings are reset, unstarted commands discarded, and tier 2 and spill fail. -/
  | hostLinkDown
  /-- HOST_LINK_UP (R388). The host link trains; at full speed CXL protocols run, otherwise the node is a plain PCIe endpoint and logs a degraded link. -/
  | hostLinkUp (gts : Nat) (width : Nat)
  /-- HOST_LINK_ABSENT_TIMEOUT (R416). The host link has not returned for 30 s and the Self-heal die drains the node from membership. -/
  | hostLinkAbsentTimeout
  /-- NODE_DRAIN (R466). A drain the node starts by itself runs Table 17-7 without R465's checks, halting before LEAVE while LAST_REPLICA is set. -/
  | nodeDrain
  /-- HDM_DECODER_COMMIT (R392). The host commits the HDM decoder; the node accepts a 3,072 GiB window with interleave 1 or sets Error Not Committed. -/
  | hdmDecoderCommit (base : Nat) (size : Nat) (ways : Nat)
  /-- DVSEC_ENABLE (R388). The host sets Cache_Enable and Mem_Enable, which the node accepts only at full link speed. -/
  | dvsecEnable (cache : Bool) (mem : Bool)
  /-- HOST_HDM_READ (R200). A CXL.mem read of tier 1 is served, corrected or filled, and the line is recorded in the host line filter. -/
  | hostHdmRead (addr : Nat)
  /-- HOST_HDM_WRITE (R201). A host write through the window takes effect only in a load-opened run, otherwise is discarded and counted. -/
  | hostHdmWrite (addr : Nat) (data : Bytes) (keep : Bool)
  /-- HOST_BIRSP (R394). The host's BIRsp to a back-invalidation arrives; the line leaves the filter and the waiting write proceeds. -/
  | hostBirsp (line : Nat)
  /-- BACK_INVALIDATE_TIMEOUT (R396). A back-invalidation has no BIRsp after 100,000 ticks; host coherence is declared failed and CXL.mem is refused. -/
  | backInvalidateTimeout (line : Nat)
  /-- CXL_IO_READ_COMPLETE (R399). A CXL.io read by the node completes and its data is delivered to the ring, command, spill or RMA that issued it. -/
  | cxlIoReadComplete (id : Nat) (ok : Bool) (data : Bytes)
  /-- CXL_IO_READ_TIMEOUT (R400). A CXL.io read has no completion after 100,000 ticks and fails the ring, command, context or RMA that issued it. -/
  | cxlIoReadTimeout (id : Nat)
  /-- UIO_READ_COMPLETE (R154). A tier-2 UIO read completes and enters the read's serial context, staging the page or ending as an error. -/
  | uioReadComplete (id : Nat) (ok : Bool) (data : Bytes)
  /-- TIER2_READ_TIMEOUT (R154). A tier-2 read has not completed 100,000 ticks after issue; the page becomes suspect and joined requests end with TIER_READ_FAILED. -/
  | tier2ReadTimeout (id : Nat)
  /-- UIO_WRITE_COMPLETE (R398). All UIO write completions of a tier-2 run have arrived, or one reports an error or timeout, settling the move. -/
  | uioWriteComplete (move : Nat) (ok : Bool)
  /-- TIER2_PATH_CHANGE (R173). The tier-2 path goes down or returns; requests needing tier 2 end, or paused tier-2 work resumes. -/
  | tier2PathChange (up : Bool)
  /-- MAILBOX_COMMAND (R391). A CXL memory device mailbox command is executed, or answered Unsupported. -/
  | mailboxCommand (opcode : Nat) (payload : Bytes)
  /-- SPDM_GET_VERSION (R500). GET_VERSION resets that transport's SPDM state and reports version 1.2. -/
  | spdmGetVersion (mctp : Bool)
  /-- SPDM_GET_CAPABILITIES (R498). The responder reports its SPDM capabilities. -/
  | spdmGetCapabilities (mctp : Bool)
  /-- SPDM_NEGOTIATE_ALGORITHMS (R498). The responder selects ECDSA P-256 and SHA-256, or answers ERROR. -/
  | spdmNegotiateAlgorithms (mctp : Bool) (asym : Nat) (hash : Nat) (meas : Nat)
  /-- SPDM_GET_DIGESTS (R498). The responder returns the digest of certificate slot 0. -/
  | spdmGetDigests (mctp : Bool)
  /-- SPDM_GET_CERTIFICATE (R498). The responder returns the slot 0 chain. -/
  | spdmGetCertificate (mctp : Bool) (slot : Nat) (offset : Nat) (length : Nat)
  /-- SPDM_CHALLENGE (R498). The responder signs a challenge response with the Alias key. -/
  | spdmChallenge (mctp : Bool) (slot : Nat) (nonce : Bytes)
  /-- SPDM_GET_MEASUREMENTS (R499). The responder reports the measurement blocks as they stand when it processes the request. -/
  | spdmGetMeasurements (mctp : Bool) (index : Nat) (signed : Bool) (nonce : Bytes)
  /-- SPDM_UNSUPPORTED (R498). An SPDM request outside Table 19-7 is answered with ERROR UnsupportedRequest. -/
  | spdmUnsupported (mctp : Bool) (code : Nat)
  /-- I3C_ENTDAA (R501). The bus owner assigns the Self-heal die's dynamic I3C address. -/
  | i3cEntdaa (addr : Nat)
  /-- MCTP_SET_ENDPOINT_ID (R501). The bus owner assigns an EID, after which the endpoint answers PLDM and SPDM. -/
  | mctpSetEndpointId (eid : Nat)
  /-- PLDM_SET_EVENT_RECEIVER (R502). PLDM names the receiver of platform event messages. -/
  | pldmSetEventReceiver (eid : Nat)
  /-- PLDM_SENSOR_UPDATE (R502). A sensor updates at its period and, on crossing a threshold, a PlatformEventMessage is sent. -/
  | pldmSensorUpdate (sensor : Nat) (value : Nat)
  /-- PLDM_REQUEST_UPDATE (R506). A PLDM firmware update starts, or is refused while FW_STAGE runs. -/
  | pldmRequestUpdate
  /-- PLDM_FIRMWARE_DATA (R503). Image data pulled with RequestFirmwareData arrives and is written to the slot that is not running. -/
  | pldmFirmwareData (offset : Nat) (data : Bytes)
  /-- PLDM_VERIFY_COMPLETE (R503). The pulled image is checked under the image checks at VerifyComplete. -/
  | pldmVerifyComplete
  /-- PLDM_ACTIVATE_FIRMWARE (R503). ActivateFirmware has the effect of FW_ACTIVATE. -/
  | pldmActivateFirmware
  /-- DOORBELL_SNOOP (R407). A host snoop of a held doorbell line is answered RspIHitSE, the line is dropped and a re-read is issued. -/
  | doorbellSnoop (ring : Nat)
  /-- DOORBELL_READ (R408). A doorbell record read arrives; the Clover die checks it and acts on new producer and consumer indices, or records a doorbell error. -/
  | doorbellRead (ring : Nat) (record : Bytes)
  /-- DESCRIPTOR_FETCH (R410). The node fetches command descriptors while the completion ring has room and advances CMD_HEAD. -/
  | descriptorFetch
  /-- COMMAND_START (R411). A fetched command starts in ring order, after any FENCE is satisfied, and is checked under the common order. -/
  | commandStart (ring : Nat)
  /-- COMPLETION_WRITE (R443). A command's completion entry is written with its phase bit into the slot reserved at fetch. -/
  | completionWrite (ring : Nat) (index : Nat)
  /-- INTERRUPT_DELAY_EXPIRY (R413). DELAY ticks pass since the first unsignalled entry of a ring and the MSI-X message is sent. -/
  | interruptDelayExpiry (ring : Nat)
  /-- EVENT_RECORD_WRITE (R414). An event entering the event serial context is written to the event ring, or lost and counted when there is no room. -/
  | eventRecordWrite
  /-- COUNTED_EVENT_FLUSH (R446). Once per 1 ms per die a counted event code writes a record covering its occurrences. -/
  | countedEventFlush (code : Nat) (die : Nat)
  /-- GRANULE_CONFIG (R424). The command checks the named rank-1 granules and changes their kind one at a time. -/
  | granuleConfig (ring : Nat) (index : Nat)
  /-- GRANULE_KIND_CHANGE_DONE (R183). Rewriting a granule for its new kind finishes and the granule returns to allocation scrubbed. -/
  | granuleKindChangeDone (slice : Nat)
  /-- TIER2_EXTENTS (R425). The command replaces the tier-2 extent list after reading each new extent. -/
  | tier2Extents (ring : Nat) (index : Nat)
  /-- COMPOSITION_BIND (R22). The command binds slices to a composition, or restarts a bound composition with a new binding. -/
  | compositionBind (ring : Nat) (index : Nat)
  /-- COMPOSITION_RESTART_DONE (R379). The last running request of a restarting composition ends; slots are freed, the new binding applied, fences cleared and the generation advanced. -/
  | compositionRestartDone (comp : Nat)
  /-- COMPOSITION_FENCE (R378). The command fences a node out of one composition. -/
  | compositionFence (ring : Nat) (index : Nat)
  /-- FD_SETUP_DOMAIN (R426). FD_SETUP mode 0 records a domain's witness set, threshold and budget. -/
  | fdSetupDomain (ring : Nat) (index : Nat)
  /-- FD_SETUP_WITNESS_SET (R426). FD_SETUP mode 1 proposes a WITNESS_SET change on a live witness. -/
  | fdSetupWitnessSet (ring : Nat) (index : Nat)
  /-- MEMBERSHIP_ENTER (R427). The command sends JOIN and completes on admission or after 10 s. -/
  | membershipEnter (ring : Nat) (index : Nat)
  /-- MEMBERSHIP_EXPEL (R427). The command on a witness proposes EXPEL_FORCED of a member. -/
  | membershipExpel (ring : Nat) (index : Nat)
  /-- ENTER_TIMEOUT (R427). ENTER has not been admitted after 1,000,000,000 ticks; it completes with DEADLINE_EXPIRED and stops JOIN. -/
  | enterTimeout
  /-- MANAGED_REMOVAL (R465). The command starts the drain of Table 17-7, or completes with BUSY. -/
  | managedRemoval (ring : Nat) (index : Nat)
  /-- DRAIN_STEP_BOUND (R465). A drain step reaches its bound; the drain goes on, ending still-running work with DEADLINE_EXPIRED. -/
  | drainStepBound
  /-- DRAIN_COMPLETE (R465). Running work has ended and LEAVE has been applied, and the drain completes. -/
  | drainComplete
  /-- ROUTE_TABLE (R428). The command writes routing entries on every Campion die. -/
  | routeTable (ring : Nat) (index : Nat)
  /-- SCHED_CONFIG (R322). The command writes subscriber, port service or policer records. -/
  | schedConfig (ring : Nat) (index : Nat)
  /-- MASK_PROFILE (R229). The command writes a mask profile and link assignments on both Teasel dies. -/
  | maskProfile (ring : Nat) (index : Nat)
  /-- TABLE_EDIT (R429). The command applies classification and prefix edit records in order until one fails. -/
  | tableEdit (ring : Nat) (index : Nat)
  /-- HOLE_REPAIR (R242). After an insertion uses a run's last hole the table manager carries a hole into it from the nearest donor run. -/
  | holeRepair (die : Nat) (partition : Nat)
  /-- PREFIX_LOOKUP (R238). The command answers each chain hash from the prefix index, confirmation and overflow table. -/
  | prefixLookup (ring : Nat) (index : Nat)
  /-- PREFIX_COPY_SCAN (R251). While a Teasel die is lost, a scan of its authoritative copies ends and answers the lookups that waited for it. -/
  | prefixCopyScan (die : Nat)
  /-- CNT_CONFIG (R509). The command sets a counter's event and threshold, or clears it. -/
  | cntConfig (ring : Nat) (index : Nat)
  /-- CNT_SNAPSHOT (R515). The command captures every counter at a target tick without stopping them. -/
  | cntSnapshot (ring : Nat) (index : Nat)
  /-- CNT_FREEZE (R515). CNT_SNAPSHOT with FREEZE stops every counter at the target tick and writes the values. -/
  | cntFreeze (ring : Nat) (index : Nat)
  /-- CNT_UNFREEZE (R515). CNT_SNAPSHOT with UNFREEZE writes the frozen values and resumes counting. -/
  | cntUnfreeze (ring : Nat) (index : Nat)
  /-- SNAPSHOT_CAPTURE (R516). A die captures its counters at the first tick at or after the target, or on late receipt. -/
  | snapshotCapture (die : Nat)
  /-- DERIVED_WINDOW_END (R521). A derived unit's window ends and its top-down or bandwidth record is updated. -/
  | derivedWindowEnd (unit : Nat)
  /-- QUEUE_SAMPLE (R335). A queue is sampled at its 1,024th enqueue or 1,000 ticks after the last sample. -/
  | queueSample (queue : Nat)
  /-- OBJ_CREATE (R430). The command on the home completes the record and sends SHARD_UPDATE to every node it names. -/
  | objCreate (ring : Nat) (index : Nat)
  /-- OBJ_RECORD (R431). The command applies an allowed change to an object record as one change. -/
  | objRecord (ring : Nat) (index : Nat)
  /-- RECORD_NODE_TIMEOUT (R430). A named node has not answered OK within 100,000,000 ticks and is treated as withdrawn. -/
  | recordNodeTimeout (object : Nat) (node : Nat)
  /-- OBJ_DELETE (R432). The command deletes the object on this node and, on the home, its record. -/
  | objDelete (ring : Nat) (index : Nat)
  /-- OBJ_FORK (R433). The command forks a child from a parent on the shards this node holds. -/
  | objFork (ring : Nat) (index : Nat)
  /-- FORK_PAGE_READY (R56). A seal or recovery the fork waited for ends, and the fork shares, copies or fails for that page. -/
  | forkPageReady (ring : Nat) (index : Nat)
  /-- FORK_COPY_DONE (R225). The boundary page copy completes; the child's header is written and its entry becomes GROWING. -/
  | forkCopyDone (ring : Nat) (index : Nat) (key : Nat)
  /-- PLACE (R156). The command writes an object's placement policy and prefetch depth. -/
  | place (ring : Nat) (index : Nat)
  /-- SEAL_FLUSH (R53). The command waits for every full page of the object to seal. -/
  | sealFlush (ring : Nat) (index : Nat)
  /-- SHADOW_START (R434). The command on the home records a shadow for a shard and advances its epoch. -/
  | shadowStart (ring : Nat) (index : Nat)
  /-- LOAD_OPEN (R435). The command allocates a run for a sealed image, growing image or area. -/
  | loadOpen (ring : Nat) (index : Nat)
  /-- LOAD_CLOSE_COMMIT (R436). The command checks a loaded image and installs it as the page's entry. -/
  | loadCloseCommit (ring : Nat) (index : Nat)
  /-- LOAD_CLOSE_DISCARD (R436). The command frees a load-opened run. -/
  | loadCloseDiscard (ring : Nat) (index : Nat)
  /-- PAGE_INSPECT (R38). The command writes a page table entry and optionally the expanded or stored image. -/
  | pageInspect (ring : Nat) (index : Nat)
  /-- OBJ_INSPECT (R432). The command writes the record header, shard records and layer lengths the node holds. -/
  | objInspect (ring : Nat) (index : Nat)
  /-- BANKOP_JOB (R211). The command checks a bank-op job list and queues it on the slices it touches. -/
  | bankopJob (ring : Nat) (index : Nat)
  /-- LOCAL_RESERVE (R437). LOCAL_ATTENTION KIND 0 reserves an admission slot locally. -/
  | localReserve (ring : Nat) (index : Nat)
  /-- LOCAL_REQUEST (R437). LOCAL_ATTENTION KIND 1 runs an attention request and writes its parts to host memory. -/
  | localRequest (ring : Nat) (index : Nat)
  /-- LOCAL_RELEASE (R437). LOCAL_ATTENTION KIND 2 releases an admission slot locally. -/
  | localRelease (ring : Nat) (index : Nat)
  /-- MDOM_CREATE (R438). The command creates a memory domain with its key. -/
  | mdomCreate (ring : Nat) (index : Nat)
  /-- MDOM_REKEY (R304). The command changes a domain's key in the domain's serial context. -/
  | mdomRekey (ring : Nat) (index : Nat)
  /-- MDOM_DELETE (R438). The command revokes every registration of a domain and deletes it. -/
  | mdomDelete (ring : Nat) (index : Nat)
  /-- REG_CREATE (R305). The command creates a registration in a domain. -/
  | regCreate (ring : Nat) (index : Nat)
  /-- REG_REVOKE (R306). The command moves a registration to DRAINING. -/
  | regRevoke (ring : Nat) (index : Nat)
  /-- REGISTRATION_DRAINED (R306). The last operation past its check finishes and the registration becomes INVALID with its revoke completion posted. -/
  | registrationDrained (reg : Nat)
  /-- TRIG_ARM (R439). The command arms a trigger counter for a tenant. -/
  | trigArm (ring : Nat) (index : Nat)
  /-- TRIG_DISARM (R439). The command disarms a counter and frees its work requests. -/
  | trigDisarm (ring : Nat) (index : Nat)
  /-- WORK_POST (R313). The command posts a work request to an armed counter. -/
  | workPost (ring : Nat) (index : Nat)
  /-- CONN_CLOSE (R439). The command closes every open connection of a tenant to a peer. -/
  | connClose (ring : Nat) (index : Nat)
  /-- LINK_SIGNAL_DETECTED (R266). A link in DETECT receives signal from its partner and enters EQUALISE. -/
  | linkSignalDetected (link : Nat)
  /-- LINK_NO_SIGNAL_EVENT (R266). A link in DETECT has had no signal for 10,000,000 ticks and writes an event while it keeps waiting. -/
  | linkNoSignalEvent (link : Nat)
  /-- LINK_EQUALISE_DONE (R266). Equalisation completes and the link enters ALIGN. -/
  | linkEqualiseDone (link : Nat)
  /-- LINK_ALIGN_LOCK (R266). Codeword, superframe and flit alignment are found and the link enters IDENTIFY. -/
  | linkAlignLock (link : Nat)
  /-- IDENTIFY_RECEIVED (R267). The partner's IDENTIFY is checked; after two heartbeats the link becomes ACTIVE, or it stays in IDENTIFY with an event. -/
  | identifyReceived (link : Nat) (payload : Bytes)
  /-- IDENTIFY_SEND (R266). A link in IDENTIFY sends IDENTIFY every 100 ticks. -/
  | identifySend (link : Nat)
  /-- LINK_TRAINING_TIMEOUT (R266). A training step overruns its bound and the link returns to DETECT, counting a training failure. -/
  | linkTrainingTimeout (link : Nat)
  /-- LINK_RETRAIN (R268). An ACTIVE link meets a retrain trigger and runs EQUALISE, ALIGN and IDENTIFY again. -/
  | linkRetrain (link : Nat) (trigger : Nat)
  /-- RETRAIN_REQUEST (R268). A RETRAIN_REQUEST control flit is received and the link retrains. -/
  | retrainRequest (link : Nat)
  /-- LINK_LOSS_OF_SIGNAL (R268). A link loses signal and goes down within 100 ticks, then to DETECT. -/
  | linkLossOfSignal (link : Nat)
  /-- CABLE_PRESENT (R253). CBL_PRESENT_L falls; the node reads the cable's identification and powers an active cable or refuses the connector's links. -/
  | cablePresent (connector : Nat) (type : Nat) (length : Nat) (power : Nat)
  /-- HEARTBEAT_ADVANCE (R269). Every 1,000 ticks a link end adds 1 to its heartbeat count. -/
  | heartbeatAdvance (link : Nat)
  /-- HEARTBEAT_CHECK (R270). Every 1,000 ticks a receiver checks the partner's count; the 16th consecutive miss takes the link down. -/
  | heartbeatCheck (link : Nat)
  /-- FLIT_RECEIVE (R263). A flit arrives; it is checked, accepted in sequence with credit and ACK updates, or discarded with NAK. -/
  | flitReceive (link : Nat) (flit : Bytes) (bad : Bool)
  /-- NAK_RESEND_TIMEOUT (R263). The flit asked for has not arrived 100 ticks after a NAK; NAK is sent again and the 8th starts a retrain. -/
  | nakResendTimeout (link : Nat)
  /-- FLIT_SLOT (R324). A link port fills a flit slot with a replay, idle, control or the next flit of the chosen candidate. -/
  | flitSlot (link : Nat)
  /-- HOST_PORT_SCHEDULE (R329). The host port chooses the next transfer when the CXL controller has room. -/
  | hostPortSchedule
  /-- MESSAGE_HEAD_ROUTE (R276). A message head arrives and is delivered locally, sent on a chosen output link, waits, or is discarded. -/
  | messageHeadRoute (head : Nat)
  /-- HEAD_REEVALUATE (R277). A waiting head re-evaluates its choices at a credit return or a change of link state or membership. -/
  | headReevaluate (head : Nat)
  /-- ESCAPE_WAIT_EXPIRY (R277). A head has waited LNK_ESCAPE_WAIT and is sent on VC4 over its escape link. -/
  | escapeWaitExpiry (head : Nat)
  /-- ABORT_FLIT (R281). A flit with EOM and ABORT ends a message, which is discarded and the abort forwarded. -/
  | abortFlit (link : Nat) (vc : Nat)
  /-- MESSAGE_RECEIVE (R272). A whole message reaches its destination and is checked for framing, transport, fencing and epoch. -/
  | messageReceive (link : Nat) (vc : Nat)
  /-- MESSAGE_CLASSIFY (R235). A VC2 or VC3 message is searched on a Teasel die and dropped, policed, queued or refused by its action. -/
  | messageClassify (die : Nat)
  /-- CONNECT (R287). A responder receives CONNECT and replies with an existing or new context, BUSY or FIELD_INVALID. -/
  | connect (msg : Nat)
  /-- CONNECT_REPLY (R286). An initiator's CONNECTING context becomes OPEN or enters QUARANTINE. -/
  | connectReply (msg : Nat)
  /-- CONNECT_RESEND (R286). Every 10,000 ticks an unanswered CONNECT is sent again, and after the 8th the context enters QUARANTINE. -/
  | connectResend (conn : Nat)
  /-- CLOSE (R290). CLOSE received moves the context to CLOSING; CLOSE_REPLY follows once own messages are acknowledged. -/
  | close (msg : Nat)
  /-- CLOSE_REPLY (R289). CLOSE_REPLY received moves the closer's context to QUARANTINE. -/
  | closeReply (msg : Nat)
  /-- CONNECTION_IDLE_CLOSE (R290). A connection idle for 60 s, or an unused responder context after 1 s, sends CLOSE. -/
  | connectionIdleClose (conn : Nat)
  /-- QUARANTINE_EXPIRY (R289). 10 ms after entering QUARANTINE a context becomes CLOSED. -/
  | quarantineExpiry (conn : Nat)
  /-- TRANSPORT_ACK (R303). An ACK frees acknowledged messages, takes a delay sample and updates SRTT and the window. -/
  | transportAck (msg : Nat)
  /-- TRANSPORT_NAK (R296). A NAK GAP resends at once and cuts the window; a NAK NOT_READY schedules a resend. -/
  | transportNak (msg : Nat)
  /-- NOT_READY_RETRY (R296). RETRY_TICKS after a NOT_READY NAK the sender resends the message. -/
  | notReadyRetry (conn : Nat) (seq : Nat)
  /-- ACK_DELAY_EXPIRY (R294). 50 ticks after an unacknowledged acceptance, or after 8 such, the receiver sends an ACK. -/
  | ackDelayExpiry (conn : Nat)
  /-- GAP_TIMEOUT (R296). EXPECTED has not arrived 1,000 ticks after a later acceptance and NAK GAP is sent. -/
  | gapTimeout (conn : Nat)
  /-- RTO_EXPIRY (R294). The retransmission timer expires; the oldest message is resent, RTO doubles and the window drops to 4,096 bytes. -/
  | rtoExpiry (conn : Nat)
  /-- CONTACT_LOST (R294). 16 consecutive expiries or 1 s without acknowledgement progress declares contact lost. -/
  | contactLost (conn : Nat)
  /-- CONTEXT_FETCH_DONE (R299). A spilled connection context arrives from host memory, is CRC-checked and its waiting messages proceed. -/
  | contextFetchDone (conn : Nat) (crcOk : Bool)
  /-- ATTN_RESERVE (R100). The node checks an ATTN_RESERVE and reserves contexts, context store and credits, replying with the slot. -/
  | attnReserve (msg : Nat)
  /-- ATTN_RELEASE (R99). The node frees the slot once any running request has handed its last part, and replies. -/
  | attnRelease (msg : Nat)
  /-- ATTN_RESERVE_REPLY (R97). A node acting as requester receives the reply to its reservation or release. -/
  | attnReserveReply (msg : Nat)
  /-- SLOT_LEASE_EXPIRY (R98). LEASE ticks pass without a renewing request and the guard starts. -/
  | slotLeaseExpiry (slot : Nat)
  /-- SLOT_GUARD_EXPIRY (R98). The guard ends with no renewing request; the slot is freed and its generation advanced. -/
  | slotGuardExpiry (slot : Nat)
  /-- ATTN_REQUEST (R104). The node checks an ATTN_REQUEST and admits it as query contexts on each die of its range. -/
  | attnRequest (msg : Nat)
  /-- PAGE_RESOLVE (R116). The page walker resolves the next page of a context once room allows and queues its read. -/
  | pageResolve (slot : Nat) (die : Nat) (head : Nat)
  /-- PAGE_READ_ISSUE (R150). The fetch engine issues a page read to LPDDR6 or tier 2 when its queues have room. -/
  | pageReadIssue (die : Nat) (copy : Nat)
  /-- PAGE_STAGED (R148). A page read completes and passes the expander checks, and the page is marked ready in the page buffer. -/
  | pageStaged (die : Nat) (copy : Nat)
  /-- PAGE_READ_FAIL (R122). A staged copy fails its CRC, meets an uncorrectable burst or a tier-2 error; joined requests end and the page becomes suspect. -/
  | pageReadFail (die : Nat) (copy : Nat) (cause : Nat)
  /-- ARRAY_PASS_END (R117). An array pass over a staged page ends its phase and hands page partials to the merge unit. -/
  | arrayPassEnd (die : Nat) (copy : Nat) (slot : Nat) (head : Nat)
  /-- TREE_NODE_EMIT (R119). Every page group beneath a tree node is folded; the merge unit emits its partial and the result sender builds the part. -/
  | treeNodeEmit (slot : Nat) (part : Nat)
  /-- PART_HANDOFF (R123). A part handed to a Campion die enters the request's serial context and is sent if the request has not ended. -/
  | partHandoff (slot : Nat) (part : Nat)
  /-- REQUEST_DEADLINE (R123). A request's deadline is processed first; it ends with DEADLINE_EXPIRED and error parts are sent. -/
  | requestDeadline (slot : Nat)
  /-- REQUEST_ERROR (R123). A die's error is processed first; the request ends with that status and error parts are sent. -/
  | requestError (slot : Nat) (die : Nat) (status : Nat)
  /-- ATTN_PARTIAL (R316). A part arrives with a trigger tag, is stored in the accumulator and increments its counter, or is discarded. -/
  | attnPartial (msg : Nat)
  /-- APPEND (R127). The tail owner checks an APPEND, writes or matches the tokens and forwards it to the mirror. -/
  | append (msg : Nat)
  /-- APPEND_MIRROR_COPY (R131). A mirror checks a MIRROR_COPY append, writes it or repairs its tail, and acknowledges. -/
  | appendMirrorCopy (msg : Nat)
  /-- APPEND_ACK (R129). The mirror's APPEND_ACK arrives and the owner acknowledges the requester, or reports and resends. -/
  | appendAck (msg : Nat)
  /-- MIRROR_COPY_RESEND (R129). Every 100,000 ticks a MIRROR_COPY without a good acknowledgement is sent again. -/
  | mirrorCopyResend (ack : Nat)
  /-- APPEND_DEADLINE (R130). A held append reaches its deadline before its write starts and ends with DEADLINE_EXPIRED. -/
  | appendDeadline (held : Nat)
  /-- HELD_APPEND_RELEASE (R50). A recovery, handover or seal-queue wait ends and held appends resume or end. -/
  | heldAppendRelease (held : Nat)
  /-- SEAL_COMPLETE (R53). The compressor finishes a seal; the sealed image is written and the entry switches to SEALED. -/
  | sealComplete (die : Nat)
  /-- RMA_WRITE (R309). The target checks an RMA_WRITE, writes its bytes and answers when asked or on failure. -/
  | rmaWrite (msg : Nat)
  /-- RMA_READ (R309). The target checks an RMA_READ and returns the data or a failure. -/
  | rmaRead (msg : Nat)
  /-- RMA_RESP (R310). The issuer matches an RMA_RESP to its operation and completes it. -/
  | rmaResp (msg : Nat)
  /-- WORK_REQUEST_COMPLETE (R315). A work request completes or fails, incrementing its DONE_TAG counter or writing an event; the counter leaves FIRING when all have completed. -/
  | workRequestComplete (work : Nat) (status : Nat)
  /-- STATUS_REPORT_SEND (R346). Every 100 ms, or at once on a change, a member sends STATUS_REPORT to its domain's witnesses. -/
  | statusReportSend
  /-- STATUS_REPORT (R351). A witness records a member's report and neighbour set and acts on HEALTH_LOW, LEAVING or LAST_REPLICA. -/
  | statusReport (msg : Nat)
  /-- SUSPECT_SEND (R352). A link to a neighbour leaves ACTIVE or reaches ACTIVE, or 100 ms pass, and SUSPECT is sent or retracted. -/
  | suspectSend (node : Nat)
  /-- SUSPECT (R353). A witness records or retracts a suspicion report and finds the member suspected or not. -/
  | suspect (msg : Nat)
  /-- SUSPECT_LAPSE (R353). A suspicion report stands for 200 ms without repeat and lapses. -/
  | suspectLapse (domain : Nat) (subject : Nat) (reporter : Nat)
  /-- REPORT_SILENCE_TIMEOUT (R353). A member with no neighbour set has sent no report for 500 ms and is suspected. -/
  | reportSilenceTimeout (domain : Nat) (subject : Nat)
  /-- PROPOSE_DELAY_EXPIRY (R354). Witness k's delay after finding a change warranted passes with no update, and it sends PROPOSE. -/
  | proposeDelayExpiry (domain : Nat)
  /-- PROPOSE (R355). A witness grants at most one change per epoch and answers with VOTE. -/
  | propose (msg : Nat)
  /-- VOTE (R355). A proposer or witness counts votes; at a majority it applies and sends MEMBER_UPDATE, or floods it once applied by a majority. -/
  | vote (msg : Nat)
  /-- PROPOSAL_ABANDON (R356). A proposer lacks a majority 1 ms after PROPOSE, abandons it and schedules a new proposal. -/
  | proposalAbandon (domain : Nat)
  /-- GRANT_LEASE_EXPIRY (R356). A grant's lease and guard pass with no update, allowing another grant at that epoch. -/
  | grantLeaseExpiry (domain : Nat)
  /-- MEMBER_UPDATE (R348). A member applies the next membership update in epoch order and forwards it, or pulls missing ones. -/
  | memberUpdate (msg : Nat)
  /-- MEMBER_PULL (R350). A member answers with held updates, or forwards the pull to a witness who answers with a snapshot. -/
  | memberPull (msg : Nat)
  /-- JOIN (R355). A witness finds ADMIT, or EXPEL_SUSPECT for a still-LIVE node, warranted by a JOIN. -/
  | join (msg : Nat)
  /-- JOIN_SEND (R363). Every 100 ms until admitted a node sends JOIN to its domain's witnesses. -/
  | joinSend
  /-- FROZEN_DOMAIN_EVENT (R345). Every 1 s while a domain is frozen, a witness writes an event. -/
  | frozenDomainEvent (domain : Nat)
  /-- LAST_REPLICA_SUSPECT_EVENT (R357). Every 1 s a witness writes an event for a suspected member that set LAST_REPLICA. -/
  | lastReplicaSuspectEvent (domain : Nat) (subject : Nat)
  /-- STRAGGLER_GOSSIP_SEND (R381). Every 100 ms a node sends its service indices to 4 nodes of each composition. -/
  | stragglerGossipSend (comp : Nat)
  /-- STRAGGLER_GOSSIP (R382). A node takes received indices, recomputes the composition median and sets or clears PREFER_MIRROR. -/
  | stragglerGossip (msg : Nat)
  /-- HOME_QUERY (R548). The home answers with the object record, or another node answers NO_SUCH_OBJECT naming the home. -/
  | homeQuery (msg : Nat)
  /-- HOME_REPLY (R374). A node that asked the home receives the record and acts on it. -/
  | homeReply (msg : Nat)
  /-- SHARD_UPDATE (R366). A replica applies a newer shard record and answers SHARD_ACK. -/
  | shardUpdate (msg : Nat)
  /-- SHARD_ACK (R366). The home receives an acknowledgement of a record change or role message. -/
  | shardAck (msg : Nat)
  /-- HOME_RECORD_CHANGE (R369). The home rewrites shard records for a lost or withdrawn replica, writes the home mirror and sends SHARD_UPDATE. -/
  | homeRecordChange (object : Nat)
  /-- SHARD_WITHDRAW (R369). The home processes a replica's withdrawal, or a SWAP exchange of primary and mirror. -/
  | shardWithdraw (msg : Nat)
  /-- TAIL_OFFER (R372). The home records a handover and forwards the offer, or the receiver compares lengths and answers TAIL_ACCEPT. -/
  | tailOffer (msg : Nat)
  /-- TAIL_ACCEPT (R372). The home moves tail ownership to the receiver, or clears the handover. -/
  | tailAccept (msg : Nat)
  /-- HANDOVER_TIMEOUT (R373). No accept is processed 10 ms after the offer and the home reverts ownership to the offerer. -/
  | handoverTimeout (object : Nat) (shard : Nat)
  /-- PAGE_FETCH (R548). A replica answers a page fetch with the page's image or a failing status. -/
  | pageFetch (msg : Nat)
  /-- PAGE_IMAGE (R49). A received page image is checked and installed for recovery or shadowing, or the attempt fails. -/
  | pageImage (msg : Nat)
  /-- SHADOW_COMPARE (R377). The shadow's parts for a forwarded request are compared with the primary's and the match count advanced or reset. -/
  | shadowCompare (object : Nat) (shard : Nat) (request : Nat)
  /-- SHADOW_DIGEST (R375). The shadow re-reads each copy, compares CRC values and answers OK or PAGE_CRC_MISMATCH. -/
  | shadowDigest (msg : Nat)
  /-- SHADOW_READY (R375). The home promotes the shadow to mirror, or clears it when FAILED. -/
  | shadowReady (msg : Nat)
  /-- RECOVERY_ATTEMPT (R49). A suspect page is re-read in place and checked, then fetched from the other replica if needed. -/
  | recoveryAttempt (key : Nat)
  /-- PAGE_FETCH_TIMEOUT (R49). No PAGE_IMAGE has arrived 1 s after PAGE_FETCH and the attempt fails. -/
  | pageFetchTimeout (key : Nat)
  /-- RECOVERY_RETRY (R49). 1 s after a failed attempt, or on a new replica, the node starts another recovery attempt. -/
  | recoveryRetry (key : Nat)
  /-- MIGRATION_MOVE (R163). The tier manager starts the next page move in priority order. -/
  | migrationMove (die : Nat)
  /-- MIGRATION_COMPLETE (R62). A moved image verifies at its destination and the entry switches, or the move is abandoned. -/
  | migrationComplete (move : Nat)
  /-- TIER2_WRITE_RETRY (R165). 1 s after a failed tier-2 write the node retries the move. -/
  | tier2WriteRetry (key : Nat)
  /-- PLACEMENT_SHORTFALL (R159). A move waits for tier-1 room for more than 1 s and a placement-shortfall event is written. -/
  | placementShortfall (move : Nat)
  /-- PREFETCH_READ_ISSUE (R172). The fetch engine issues a queued prefetch read while demand and outstanding limits allow. -/
  | prefetchReadIssue (die : Nat)
  /-- PREFETCH_COPY_ARRIVE (R168). A prefetch copy arrives, is verified and recorded, or staged into tier 0. -/
  | prefetchCopyArrive (copy : Nat)
  /-- FREED_RUN_SCRUB (R223). The scrubber finishes zeroing a freed run and it becomes scrubbed. -/
  | freedRunScrub (frame : Nat)
  /-- RUN_REFERENCE_DROP (R52). The last reference on a run that left its entry is dropped and the run becomes freed. -/
  | runReferenceDrop (frame : Nat)
  /-- ROW_OP_START (R214). A slice with a free bank starts the next row operation by class order. -/
  | rowOpStart (slice : Nat)
  /-- ROW_OP_COMPLETE (R213). A row operation completes on all four sub-channels, releasing waiting reads, writes and refreshes. -/
  | rowOpComplete (slice : Nat) (bank : Nat)
  /-- BANKOP_JOB_COMPLETE (R216). Every row operation of a job has completed and its completion entry is written. -/
  | bankopJobComplete (job : Nat)
  /-- MEMORY_READ_COMPLETE (R180). A burst read is decoded; data is delivered, corrected and written back, or uncorrectable with the fixed fill. -/
  | memoryReadComplete (burst : Nat) (error : Bytes) (reader : Reader)
  /-- PARTIAL_BURST_WRITE (R546). A write covering part of a checked burst reads, merges and rewrites it, or writes nothing if uncorrectable. -/
  | partialBurstWrite (addr : Nat) (data : Bytes) (host : Bool)
  /-- REFRESH_DUE (R190). A per-bank refresh falls due and is issued, postponed, or forced at 2 owed. -/
  | refreshDue (bank : Nat)
  /-- REFRESH_MANAGEMENT_REQUEST (R193). A device requests refresh management and the command is issued before the bank's next activate. -/
  | refreshManagementRequest (bank : Nat)
  /-- DEVICE_TEMP_READ (R191). Every 1 ms the controller reads device temperature and sets the refresh multiplier and bank-op limit. -/
  | deviceTempRead (device : Nat) (celsius : Int)
  /-- IMPEDANCE_RECAL (R198). Every 500 ms the controller recalibrates impedance. -/
  | impedanceRecal (channel : Nat)
  /-- DQ_TRACKING (R198). Every 100 µs or on a 2 °C change the controller tracks DQ timing, holding one channel idle. -/
  | dqTracking (channel : Nat) (celsius : Int)
  /-- PATROL_READ (R194). Every 2,000 ticks a sub-channel's patrol reads and checks one burst. -/
  | patrolRead (sub : Nat)
  /-- MATCH_SCRUB (R248). Every 10 ticks a Teasel scrubber compares one entry with its copy and rewrites it on a difference. -/
  | matchScrub (die : Nat)
  /-- SELF_REFRESH_EXIT (R199). After a lost Yarrow die's reset is released, its controllers finish retraining and leave self-refresh, and the channels' READY bits are set again, or FAILED for a faulty channel. -/
  | selfRefreshExit (die : Nat) (failed : Nat)
  /-- MATCH_ENABLE_DONE (R538). Match enable finishes placing the copy areas and overflow table and invalidating entries and profiles, then sets READY or FAILED in MAT_STATUS. -/
  | matchEnableDone
  /-- SHADOW_COMPARISON_DEADLINE (R377). A forwarded request's deadline passes at the primary with a shadow part still missing; the comparison counts as a mismatch, the match count resets and an event is written. -/
  | shadowComparisonDeadline (object : Nat) (shard : Nat) (request : Nat)
deriving DecidableEq, Repr

end Sys2Proof
end

