-- ==== Sys2Proof/Decode.lean ====
section
/-! DEFINITION. Words to commands. No row of the table gives bits, so no word spells a command. -/

namespace Sys2Proof

/-- The command that a word spells by the table's bits: none, since no row gives any (spec/opcode_table.json). -/
def decodeTableWord (_nbits _w : Nat) : Option Instr := none

end Sys2Proof
end

