-- ==== Sys2Proof/Config.lean ====
section
/-! DEFINITION. What one implementation fixes, and the free values of the spec.
Every constant declared without a body is free: nothing in Lean can evaluate it, and a statement about it holds for
every value (DESIGN CHOICE, notes/assumptions/3.md). A free value is applied to a plain counter of State (`draws`) or to the
operands it depends on. -/

namespace Sys2Proof.Config

/-- The value a slot's 16-bit generation starts from after reset (R98: drawn at random), by draw. -/
opaque slotGeneration : Nat → BitVec 16

/-- The value a connection context's 32-bit generation starts from after reset (R289: drawn at random), by draw. -/
opaque connGeneration : Nat → BitVec 32

/-- The severity of an event code for which the spec gives none (R445, Table 16-5). -/
opaque eventSeverity : Nat → Nat

/-- Which of the free gaps a run is placed in (R47: a legal placement is required, the choice is open), by draw. -/
opaque gapChoice : Nat → Nat

/-- The member a node picks where the spec says only that it picks one, or picks at random, by draw. -/
opaque pick : Nat → Nat

/-- The per-signature secret of an ECDSA signature (R496, R498), by draw. -/
opaque ecdsaNonce : Nat → Nat

/-- Nonce bytes the responder places in an SPDM response (R498), by draw. -/
opaque spdmNonce : Nat → List (BitVec 8)

/-- The DER encoding of the Alias certificate (R496) of a public key, firmware measurement and SVN. -/
opaque aliasCertificate : List (BitVec 8) → List (BitVec 8) → Nat → List (BitVec 8)

/-- The SHA-256 of the boot ROM (R499 block 1). -/
opaque romDigest : List (BitVec 8)

/-- The FAIL_OFFSET of a failure found in a buffer or in an object's state, for which the spec names no field
(R443), by opcode and status. -/
opaque failOffset : Nat → Nat → Nat

/-- The code of the event record that R129 has a tail owner write when its mirror refuses a copy; Table 16-5 names
none. -/
opaque mirrorRefusedCode : Nat

/-- Whether a tail owner on another node finds every layer at the length at which OBJ_RECORD closes its shard (R431);
the spec gives no message by which the home learns it, by draw. -/
opaque remoteTailCloses : Nat → Bool

/-- A layer length in a TAIL_OFFER that a home mirror resends after it has taken over (R374), when it does not hold the
shard; the spec does not say where it has the lengths from, by draw. -/
opaque offerLength : Nat → BitVec 32

/-- What a counter of an event whose occurrences the model does not carry out one by one gains in a tick (bursts of
the node's own accesses, hub transfers, corrected symbols, waits on row operations), by draw of ticks, die and code. -/
opaque unseen : Nat → Nat → Nat → Nat

/-- Ages that a sample of an engine queue records: the model keeps no stamp of an engine's entries, by tick and
queue. -/
opaque queueAge : Nat → Nat → Nat

/-- The Campion die on which a trigger counter counts its firings, for which the spec gives none. -/
opaque triggerDie : Nat → Nat

/-- The fault code of an INTERNAL_FAULT event (R442), by draw. -/
opaque faultCode : Nat → BitVec 32

/-- The number of dies of the package (R12). -/
def dies : Nat := 32

/-- The Self-heal die (Table 01-1). -/
def selfHeal : Nat := 31

/-- The host die, Clover (Table 01-1). -/
def clover : Nat := 30

/-- The node as a whole, in an event's DIE field (Table 16-4). -/
def noDie : Nat := 0xFF

/-- The stepping of the modelled module: B (GLB_ID, Table 21-2), so bit 1 of a STEPPING_MASK. -/
def stepping : Nat := 1

/-- STEPPING of GLB_ID and the Revision ID (Table 21-2, Table 14-2): 0x01 stepping A, 0x02 stepping B. -/
def steppingCode : Nat := stepping + 1

/-- Which hub a die sends a transfer over (R14): the spec says only that it follows from the destination die and bits
13:12 of the transfer's address. A hub that is lost leaves the choice to the others. -/
opaque hubChoice : Nat → Nat → Nat

/-- Whether a hub holds a transfer of a piece of work when the hub is lost (R25), by draw and piece of work: the model
carries a transfer out whole, so it does not say which are on their way. -/
opaque hubHolds : Nat → Nat → Bool

end Sys2Proof.Config
end

