-- ==== Sys2Proof/Machine/Bytes.lean ====
section
/-! DEFINITION. Little-endian fields of byte strings (R3), bit fields, the CRC-32C of R43, and lists of checks. -/

namespace Sys2Proof

/-- The number a little-endian byte string holds. -/
def leNat : Bytes → Nat
  | [] => 0
  | b :: bs => b.toNat + 256 * leNat bs

/-- A number as `n` little-endian bytes; what does not fit is dropped. -/
def toLe : Nat → Nat → Bytes
  | 0, _ => []
  | n + 1, v => BitVec.ofNat 8 v :: toLe n (v / 256)

/-- `len` bytes from `off` on. -/
def cut (b : Bytes) (off len : Nat) : Bytes := (b.drop off).take len

/-- The little-endian field of `len` bytes at `off`; bytes past the end read as absent. -/
def fld (b : Bytes) (off len : Nat) : Nat := leNat (cut b off len)

/-- Overwrite bytes from `off` on. -/
def setAt (b : Bytes) (off : Nat) (v : Bytes) : Bytes := b.take off ++ v ++ b.drop (off + v.length)

/-- `n` zero bytes. -/
def zeros (n : Nat) : Bytes := List.replicate n 0

/-- Pad with zeros, or cut, to exactly `n` bytes. -/
def padTo (n : Nat) (b : Bytes) : Bytes := b.take n ++ zeros (n - b.length)

/-- Every byte is zero. -/
def allZero (b : Bytes) : Bool := b.all (· == 0)

/-- The bits of a number from `lo` on, `len` of them. -/
def bitsOf (v lo len : Nat) : Nat := v / 2 ^ lo % 2 ^ len

/-- One bit of a number. -/
def bitOf (v i : Nat) : Bool := v / 2 ^ i % 2 == 1

/-- A truth value as a number. -/
def b2n (b : Bool) : Nat := if b then 1 else 0

/-- The indices below `n` whose bit is set. -/
def bitIdx (n v : Nat) : List Nat := (List.range n).filter (bitOf v)

/-- The number with the given bits set. -/
def ofBits (l : List Nat) : Nat := l.foldl (fun a i => a + 2 ^ i) 0

/-- One bit of the CRC-32C register (R43: Castagnoli polynomial, reflected). -/
def crcBit (c : Nat) : Nat := if c % 2 = 1 then (c / 2) ^^^ 0x82F63B78 else c / 2

/-- One byte into the CRC-32C register. -/
def crcByte (c : Nat) (b : Byte) : Nat :=
  crcBit (crcBit (crcBit (crcBit (crcBit (crcBit (crcBit (crcBit (c ^^^ b.toNat))))))))

/-- CRC-32C of a byte string (R43). -/
def crc32c (b : Bytes) : Nat := (b.foldl crcByte 0xFFFFFFFF) ^^^ 0xFFFFFFFF

/-- The first check of a list that fails: each entry is a condition that must hold and what its failure gives. -/
def firstFail {α : Type} : List (Bool × α) → Option α
  | [] => none
  | (ok, e) :: t => if ok then firstFail t else some e

/-- Modulo 2^32. -/
def m32 (n : Nat) : Nat := n % 4294967296

/-- The distance from `b` up to `a`, modulo 2^32. -/
def dist32 (a b : Nat) : Nat := (a + 4294967296 - b % 4294967296) % 4294967296

/-- Replace the entries of a list that meet a condition. -/
def modWhere {α : Type} (p : α → Bool) (f : α → α) (l : List α) : List α := l.map fun x => if p x then f x else x

/-- Remove the entries of a list that meet a condition. -/
def dropWhere {α : Type} (p : α → Bool) (l : List α) : List α := l.filter fun x => !p x

/-- Set position `i` of a list. -/
def setIdx {α : Type} (l : List α) (i : Nat) (v : α) : List α := l.set i v

/-- The integer a two's-complement field of `w` bits holds. -/
def sext (w v : Nat) : Int := if 2 ^ w ≤ 2 * (v % 2 ^ w) then (v % 2 ^ w : Int) - 2 ^ w else (v % 2 ^ w : Int)

end Sys2Proof
end

