-- ==== Sys2Proof/Machine/State.lean ====
section
/-! DEFINITION. The state of the block: everything the spec gives the machine, as plain data, and State.reset.
Each structure's default values are the values right after power-good (R529); where the spec gives none the value is
named in the assumption log. Groups follow the chapters of the spec. -/

namespace Sys2Proof.Machine

/-! ### Power, thermal, dies and boot (spec 01, 17, 18, 19) -/

/-- The hot-swap controller's state (R451, R463, R464). -/
inductive PowerState where
  /-- no power to the module -/
  | off
  /-- soft start is ramping the internal bus -/
  | softStart
  /-- power-good has asserted -/
  | on
deriving DecidableEq, Repr

/-- The hot-swap controller, the power cap loop and the thermal control. -/
structure Power where
  /-- R451, R463: the hot-swap controller's state -/
  state : PowerState := .on
  /-- R451: the module is off after an overvoltage -/
  overvolt : Bool := false
  /-- R464: the latched fault -/
  latched : Bool := false
  /-- R463: PRSNT_L is mated -/
  present : Bool := true
  /-- Table 21-19 PWR_CAP, watts -/
  cap : Nat := 400
  /-- Table 21-19 PWR_VMAX, millivolts -/
  vmax : Nat := 850
  /-- R458: the cap voltage Vc, millivolts; no reset value given (DESIGN CHOICE, notes/assumptions/10.md) -/
  vc : Nat := 600
  /-- Table 21-19 PWR_STATUS: Vc of the last loop period -/
  statusVc : Nat := 0
  /-- Table 21-19 PWR_STATUS: P of the last loop period -/
  statusInput : Nat := 0
  /-- Table 21-19 PWR_STATUS: CAP_BLOCKED of the last loop period -/
  statusBlocked : Bool := false
  /-- R459: an episode of the cap exceeded at the voltage floor is in progress -/
  blocked : Bool := false
  /-- R461: each die's thermal limit, millivolts -/
  limit : Tab Nat := []
  /-- R461: dies whose limit is below Vc -/
  limited : Tab Bool := []
  /-- R456, R458: each die's regulator target, millivolts -/
  target : Tab Nat := []
  /-- R461: each die's junction temperature, °C, as last read -/
  temp : Tab Int := []
  /-- R462: each die's thermal trip latch -/
  tripped : Tab Bool := []
  /-- R458, R461: the ticks of the last loop period and of the last read of the sensors -/
  periodAt : Nat := 0
  sensorAt : Nat := 0
  /-- R471: each die's replica loop count over the last 1,000 ticks -/
  handshakes : Tab Nat := []
  /-- R471: the tick of each die's last report -/
  handshakesAt : Tab Nat := []
deriving DecidableEq, Repr

/-- A die's state (R25, R26, R482, R530). -/
inductive DieState where
  /-- held in reset since power-good -/
  | inReset
  /-- reset released, not yet reported ready -/
  | released
  /-- reported ready -/
  | ready
  /-- declared lost and held in reset -/
  | lost
deriving DecidableEq, Repr

/-- The dies and the order of their release. -/
structure Dies where
  /-- each die's state -/
  st : Tab DieState := []
  /-- Table 18-4: the step of the release order that runs (1 is the boot; 7 when all groups are done) -/
  step : Nat := 1
  /-- R472: the tick at which the running step of the release order started -/
  stepAt : Nat := 0
  /-- R26: the tick at which a die was declared lost, or its reset was released again -/
  lostAt : Tab Nat := []
  /-- Table 22-2: dies that did not report ready at their step, held in reset until the next power-good -/
  held : Tab Bool := []
  /-- R269: Campion dies that receive no liveness beat -/
  beatLost : Tab Bool := []
  /-- R480: dies whose streams have been rebased since the counters were last read -/
  rebased : Tab Bool := []
  /-- R450: die losses counted by the Self-heal die -/
  losses : Nat := 0
deriving DecidableEq, Repr

/-- Table 19-6 MODE. -/
inductive BootMode where
  | rom | firmware | recovery | fallback
deriving DecidableEq, Repr

/-- What survives a loss of power: fuses and flash (R484, R485, R488). -/
structure Nonvolatile where
  /-- Table 19-1 UDS -/
  uds : Bytes := zeros 32
  /-- Table 19-1 KEY_HASH0 -/
  keyHash0 : Bytes := zeros 32
  /-- Table 19-1 KEY_HASH1 -/
  keyHash1 : Bytes := zeros 32
  /-- Table 19-1 REVOKE0 -/
  revoke0 : Bool := false
  /-- Table 19-1 REVOKE1 -/
  revoke1 : Bool := false
  /-- Table 19-1: the number of blown SVN fuses, FUSED_SVN -/
  fusedSvn : Nat := 0
  /-- Table 19-2: boot-select record, copy 0 -/
  boot0 : Bytes := []
  /-- Table 19-2: boot-select record, copy 1 -/
  boot1 : Bytes := []
  /-- Table 19-2: the certificate store -/
  certStore : Bytes := []
  /-- Table 19-2: image slot 0, header and body -/
  image0 : Bytes := []
  /-- Table 19-2: image slot 1, header and body -/
  image1 : Bytes := []
  /-- Table 19-2: firmware data and logs -/
  fwData : Bytes := []
  /-- R507, Table 19-12: the FRU EEPROM's OEM multirecord, with I3C_PID and DEVICEID_DIGEST as written at manufacture
  (zeros, notes/assumptions/5.md); neither the node nor the chassis writes the EEPROM -/
  fru : Bytes := toLe 3 0x1F8A ++ toLe 1 1 ++ toLe 2 400 ++ toLe 2 150 ++ toLe 2 3000 ++ toLe 2 4000 ++ toLe 2 55 ++
    toLe 1 35 ++ toLe 1 2 ++ zeros 6 ++ zeros 2 ++ zeros 32
deriving DecidableEq, Repr

/-- The Self-heal die's boot and identity (R489 to R496). -/
structure Boot where
  /-- Table 19-6 MODE -/
  mode : BootMode := .rom
  /-- Table 19-6: SEC_BOOT_STATUS as the ROM set it -/
  status : Nat := 0
  /-- Table 19-6 RUNNING_SLOT -/
  slot : Nat := 0
  /-- Table 19-6 RUNNING_SVN -/
  svn : Nat := 0
  /-- R491: the watchdog is armed -/
  watchdog : Bool := false
  /-- R484: the ROM has closed the read path of UDS -/
  udsClosed : Bool := false
  /-- R495: the firmware measurement M -/
  measurement : Bytes := []
  /-- R496: the Alias private key the firmware holds -/
  aliasKey : Nat := 0
  /-- R496: the Alias certificate -/
  aliasCert : Bytes := []
  /-- R496: the ROM's signature of the Alias certificate with the DeviceID key -/
  aliasSig : Bytes := []
  /-- R492: the firmware has written STATE CONFIRMED in this boot -/
  confirmed : Bool := false
deriving DecidableEq, Repr

/-- One transport's SPDM responder state (R498, R500). -/
structure Spdm where
  /-- GET_VERSION has been answered -/
  version : Bool := false
  /-- GET_CAPABILITIES has been answered -/
  capabilities : Bool := false
  /-- NEGOTIATE_ALGORITHMS has selected the algorithms -/
  algorithms : Bool := false
  /-- the transcript of requests and responses -/
  transcript : Bytes := []
  /-- the last response sent: its code and its content -/
  response : Nat × Bytes := (0, [])
deriving DecidableEq, Repr

/-- What the PLDM firmware update is doing (R503, R506). -/
inductive PldmUpdate where
  | idle | download | verified
deriving DecidableEq, Repr

/-- Host mailbox, attestation and sideband (R498 to R506). -/
structure Security where
  /-- Table 21-20 SEC_MBOX_ADDR bits 63:6 -/
  addr : Nat := 0
  /-- Table 19-11 BUSY -/
  busy : Bool := false
  /-- Table 19-11 STATUS -/
  status : Nat := 0
  /-- Table 19-11 DETAIL -/
  detail : Nat := 0
  /-- R505: length of the running FW_STAGE -/
  stageLen : Nat := 0
  /-- R505: bytes of the running FW_STAGE that have arrived -/
  stageBuf : Bytes := []
  /-- R505: the slot that is not running holds an image that staging found valid -/
  staged : Bool := false
  /-- R503, R506: the PLDM update in progress -/
  update : PldmUpdate := .idle
  /-- R503: the last PLDM response code (0 success, 0x81 ALREADY_IN_UPDATE_MODE) -/
  pldmResponse : Nat := 0
  /-- R503: bytes pulled by the PLDM update -/
  pldmBuf : Bytes := []
  /-- R499, R532: SPDM measurement block 4 -/
  lockDigest : Bytes := zeros 32
  /-- R500: the DOE transport -/
  doe : Spdm := {}
  /-- R500: the MCTP transport -/
  mctp : Spdm := {}
  /-- R501: dynamic I3C address -/
  i3c : Option Nat := none
  /-- R501: MCTP endpoint ID -/
  eid : Option Nat := none
  /-- R502: receiver of platform events -/
  receiver : Option Nat := none
  /-- R502: sensor readings -/
  sensor : Tab Nat := []
  /-- R502: sensors' threshold states (Table 19-9: 0 normal, 1 warning, 2 critical) -/
  sensorState : Tab Nat := []
  /-- R501, R502: platform event messages sent: sensor, reading, threshold state -/
  platformEvents : List (Nat × Nat × Nat) := []
deriving DecidableEq, Repr
/-! ### Events, registers, rings and the host link (spec 14, 16, 21) -/

/-- An event record before it is written (Table 16-4). -/
structure Event where
  code : Nat
  die : Nat
  seq : Nat
  tick : Nat
  count : Nat
  tenant : Nat
  status : Nat
  eflags : Nat
  data : Bytes
deriving DecidableEq, Repr

/-- A counted code on one die (R446). -/
structure Counted where
  /-- occurrences since the last record -/
  count : Nat := 0
  /-- the tick of the last record; none before the first -/
  last : Option Nat := none
  /-- the latest occurrence's TENANT, STATUS, EFLAGS and DATA -/
  tenant : Nat := 0
  status : Nat := 0
  eflags : Nat := 0
  data : Bytes := []
deriving DecidableEq, Repr

/-- A record of the CXL event log (Table 16-6). -/
structure CxlRecord where
  /-- 0 General Media, 1 DRAM, 2 Memory Module -/
  kind : Nat
  dpa : Nat
  /-- General Media: memory event type (0 media ECC error, 1 invalid address) -/
  type : Nat
  /-- General Media: transaction type (0 host read, 1 patrol, 2 internal) -/
  transaction : Nat
  /-- DRAM: channel, rank, bank, row; Memory Module: the temperature, score or health status -/
  detail : List Nat
deriving DecidableEq, Repr

/-- The event serial context and the error counters (R414, R445 to R450). -/
structure Events where
  /-- R445: SEQUENCE of the next record -/
  seq : Nat := 0
  /-- R414: records that have entered the serial context and are not written -/
  queue : List Event := []
  /-- R414: records lost and not yet reported -/
  lost : Nat := 0
  /-- R446: counted codes, by code · 256 + die -/
  counted : Tab Counted := []
  /-- R447: episodes in progress: kind, tenant of the subject (0 none), subject -/
  episodes : List (Nat × Nat × Nat) := []
  /-- R449: CXL failure log -/
  failureLog : List CxlRecord := []
  /-- R449: CXL warning log -/
  warningLog : List CxlRecord := []
  /-- R449: overflow counts of the failure and the warning log -/
  failureOverflow : Nat := 0
  warningOverflow : Nat := 0
  /-- R391: event interrupt policy: vectors of the warning and the failure log; none when off -/
  policyWarning : Option Nat := none
  policyFailure : Option Nat := none
deriving DecidableEq, Repr

/-- Setup registers that no other group holds (Table 21-1). -/
structure Regs where
  /-- Table 21-4 GLB_ENABLE ARRAYS -/
  arrays : Nat := 0
  /-- Table 21-5 GLB_SETUP_LOCK LOCK -/
  lock : Bool := false
  /-- Table 21-7 HIF_CONN_SPILL BASE, as the register's value without VALID -/
  spillBase : Nat := 0
  /-- Table 21-7 HIF_CONN_SPILL VALID -/
  spillValid : Bool := false
  /-- Table 21-13 MEM_ENABLE DIES -/
  memEnable : Nat := 0
  /-- Table 21-15 FABRIC_ID -/
  fabricId : Nat := 0
  /-- Table 21-15 NODE_ID -/
  nodeId : Nat := 0
  /-- Table 21-16 LNK_ENABLE LINKS -/
  links : Nat := 0
  /-- Table 21-17 LNK_ESCAPE_WAIT WAIT -/
  escapeWait : Nat := 100
  /-- Table 21-17 LNK_CC_TARGET PER_HOP -/
  ccPerHop : Nat := 30
  /-- Table 21-17 LNK_CC_TARGET BASE -/
  ccBase : Nat := 800
  /-- Table 21-18 MAT_PARTITION OVERFLOW_LOG2 -/
  overflowLog2 : Nat := 18
  /-- Table 21-18 MAT_PARTITION HOLE_SPACING -/
  holeSpacing : Nat := 1
  /-- Table 21-18 MAT_PARTITION CLASS_BLOCKS -/
  classBlocks : Nat := 16
  /-- Table 21-18 MAT_ENABLE ENABLE -/
  matEnable : Bool := false
deriving DecidableEq, Repr

/-- Table 14-4. -/
inductive RingState where
  | disabled | enabled | stopping | error
deriving DecidableEq, Repr

/-- Where a fetched command stands (R410 to R412). -/
inductive CmdPhase where
  /-- its descriptor is being read -/
  | fetching
  /-- its descriptor is in the Clover die, not started -/
  | waiting
  /-- started; its host buffer is being read -/
  | reading
  /-- started; its buffer is in -/
  | ready
  /-- its work runs in the node -/
  | running
  /-- it has its outcome; its completion entry is to be written -/
  | done
deriving DecidableEq, Repr

/-- A command from its fetch to its completion entry. -/
structure Cmd where
  /-- its index on the command ring -/
  index : Nat
  phase : CmdPhase := .fetching
  /-- the 64-byte descriptor -/
  desc : Bytes := []
  /-- bytes read from the buffer it names -/
  buf : Bytes := []
  status : Nat := 0
  failOffset : Nat := 0xFFFF
  failIndex : Nat := 0xFFFFFFFF
  result : Nat := 0
  /-- result data to be written to host memory before the entry (R399): address and bytes -/
  data : List (Nat × Bytes) := []
  /-- the tick at which it started -/
  startedAt : Nat := 0
  /-- Table 15-18: the pages whose seals a SEAL_FLUSH waits for -/
  keys : List Nat := []
deriving DecidableEq, Repr

/-- A ring pair, or the event ring (ring 64) (R401 to R414, Table 21-8). -/
structure Ring where
  /-- HIF_CMD_BASE or HIF_EVT_BASE -/
  base : Nat := 0
  /-- HIF_CPL_BASE -/
  cplBase : Nat := 0
  /-- HIF_DB_ADDR -/
  dbAddr : Nat := 0
  /-- HIF_RING_CTRL ENABLE -/
  enable : Bool := false
  /-- HIF_RING_STATUS STATE -/
  state : RingState := .disabled
  /-- HIF_RING_STATUS CAUSE -/
  cause : Nat := 0
  /-- HIF_IRQ COUNT -/
  irqCount : Nat := 1
  /-- HIF_IRQ DELAY -/
  irqDelay : Nat := 0
  /-- HIF_IRQ VECTOR -/
  irqVector : Nat := 0
  /-- CMD_HEAD (R402) -/
  head : Nat := 0
  /-- the last accepted CMD_TAIL -/
  tail : Nat := 0
  /-- the node's completion producer index, or the event producer index -/
  prod : Nat := 0
  /-- the last accepted CPL_HEAD or EVT_HEAD -/
  cons : Nat := 0
  /-- R408: event writes are stopped by a doorbell error -/
  stopped : Bool := false
  /-- R407: the doorbell line is held in the Shared state -/
  lineHeld : Bool := false
  /-- R407: a read of the doorbell line is outstanding -/
  reread : Bool := false
  /-- R413: entries written and not signalled -/
  unsignalled : Nat := 0
  /-- R413: the tick of the first unsignalled entry -/
  firstAt : Nat := 0
  /-- the model's own: resets of the host interface so far; the index of a command on its ring is era · 2^32 + CMD index -/
  era : Nat := 0
  /-- R410, R411: commands fetched and not completed, in ring order; those of earlier eras run without a completion (R415) -/
  cmds : List Cmd := []
deriving DecidableEq, Repr

/-- What a CXL.io read by the node is for (R399). -/
inductive IoPurpose where
  /-- the descriptor at an index of a ring -/
  | descriptor (ring index : Nat)
  /-- bytes of a command's buffer -/
  | command (ring index : Nat)
  /-- a spilled connection context -/
  | spill (conn : Nat)
  /-- the data of an RMA read or of an RMA operation's source -/
  | rma (op : Nat)
  /-- FW_STAGE's image -/
  | stage
deriving DecidableEq, Repr

/-- A read of a descriptor of a ring. -/
def IoPurpose.descriptorOf (p : IoPurpose) (ring : Nat) : Bool :=
  match p with
  | .descriptor r _ => r == ring
  | .command _ _ => false
  | .spill _ => false
  | .rma _ => false
  | .stage => false

/-- A CXL.io read outstanding (R400). -/
structure IoRead where
  id : Nat
  purpose : IoPurpose
  addr : Nat
  len : Nat
  at_ : Nat
deriving DecidableEq, Repr

/-- A transfer of the host port (R329): its service, and what it carries. -/
inductive HostXfer where
  /-- posted CXL.io write -/
  | write (addr : Nat) (data : Bytes)
  /-- CXL.io read request -/
  | read (id addr len : Nat)
  /-- MSI-X message -/
  | msi (vector : Nat)
  /-- UIO read request -/
  | uioRead (id addr len : Nat)
  /-- UIO write, with its move -/
  | uioWrite (move addr : Nat) (data : Bytes)
  /-- CXL.mem read response: 64 bytes, or an error -/
  | memData (addr : Nat) (data : Bytes) (err : Bool)
  /-- back-invalidation BISnpInv of a line -/
  | bisnp (line : Nat)
  /-- RdShared of a doorbell line -/
  | rdShared (addr : Nat)
  /-- RspIHitSE of a doorbell line -/
  | rspIHitSE (addr : Nat)
  /-- write-back of a connection context, whose layout is not part of the node's interface (R300) -/
  | context (addr conn : Nat)
  /-- mailbox response: return code and payload -/
  | mailbox (code : Nat) (payload : Bytes)
deriving DecidableEq, Repr

/-- A transfer waiting at the host port (R319, R321). -/
structure HostWait where
  service : Nat
  subscriber : Nat
  stamp : Nat
  xfer : HostXfer
  /-- R295: an RMA_WRITE's connection; 1,048,576 none -/
  conn : Nat := 1048576
deriving DecidableEq, Repr

/-- The host link's training (R388). -/
inductive HostLink where
  | down
  /-- below 64 GT/s or ×4: a plain PCIe endpoint -/
  | plain
  | full
deriving DecidableEq, Repr

/-- A write to tier 1 that waits: for the host's back-invalidations (R395), for a row operation (R221), or behind an
earlier write to the same run (R40). -/
structure WaitWrite where
  addr : Nat
  data : Bytes
  /-- lines whose BIRsp it waits for -/
  lines : List Nat
  /-- it is the host's, not the node's -/
  host : Bool := false
deriving DecidableEq, Repr

/-- The host interface (spec 14). -/
structure Hif where
  /-- R388: the link's training -/
  link : HostLink := .down
  /-- R388: speed in GT/s and width -/
  gts : Nat := 0
  width : Nat := 0
  /-- R416: the tick at which the link last left full service -/
  downAt : Nat := 0
  /-- R388: Cache_Enable and Mem_Enable -/
  cacheEn : Bool := false
  memEn : Bool := false
  /-- R392: committed, base, Error Not Committed -/
  committed : Bool := false
  base : Nat := 0
  notCommitted : Bool := false
  /-- R396: host coherence has failed -/
  cohFailed : Bool := false
  /-- R394: host line filters, oldest line first, by Yarrow die -/
  filter : Tab (List Nat) := []
  /-- R395, R396: back-invalidations outstanding: line and tick sent -/
  backInv : List (Nat × Nat) := []
  /-- R221, R395: writes waiting, oldest first -/
  waiting : List WaitWrite := []
  /-- R219, R394, R395: host reads waiting, oldest first: the address, and the line whose back-invalidation it waits for, or
  none in its channel's queue -/
  hostReads : List (Nat × Option Nat) := []
  /-- the rings; 64 is the event ring -/
  rings : Tab Ring := []
  /-- R410: the ring the next fetch round starts at -/
  rr : Nat := 0
  /-- R400: CXL.io reads outstanding -/
  reads : List IoRead := []
  /-- number of the next read -/
  nextRead : Nat := 0
  /-- R413: MSI-X vectors not masked, and pending -/
  unmasked : Tab Bool := []
  msixPending : Tab Bool := []
  /-- R329: transfers waiting at the host port, oldest first -/
  queue : List HostWait := []
  /-- the last transfer the host port sent -/
  pin : Option HostXfer := none
deriving DecidableEq, Repr
/-! ### Links, routing, scheduling and transport (spec 10, 11, 12) -/

/-- R266. -/
inductive LinkState where
  | disabled | detect | equalise | align | identify | active
deriving DecidableEq, Repr

/-- What the partner declared in IDENTIFY (Table 10-9). -/
structure Partner where
  link : Nat
  domain : Nat
  node : Nat
  fabric : Nat
  epoch : Nat
  buffers : List Nat
  kind : Nat
deriving DecidableEq, Repr

/-- One end of a fabric link (R259 to R270). -/
structure Link where
  state : LinkState := .disabled
  /-- R268: the running training is a retrain -/
  retrain : Bool := false
  /-- Table 10-8: the tick at which the running step started -/
  stepAt : Nat := 0
  /-- Table 10-8: the no-signal event of this DETECT has been written -/
  told : Bool := false
  /-- R268, Table 10-10: the trigger row that asks for a retrain, 0 for none -/
  retrainDue : Nat := 0
  /-- R268: uncorrectable codewords in a row, and the ticks of those of the last 1,000,000 -/
  badRun : Nat := 0
  badAt : List Nat := []
  /-- R258: the positions in their superframes of the next flit to come and of the next one to go -/
  rxPos : Nat := 0
  txPos : Nat := 0
  /-- R268: equaliser settings of the last ACTIVE period are kept -/
  settings : Bool := false
  /-- R267: the refused partner's IDENTIFY, whose change the link waits for -/
  refused : Option Bytes := none
  partner : Option Partner := none
  /-- R266 step 4: heartbeat changes seen in IDENTIFY, and the tick of the first -/
  hbSeen : Nat := 0
  hbFirst : Nat := 0
  /-- the tick of the last IDENTIFY sent -/
  identAt : Option Nat := none
  /-- training failures and retrains (R450) -/
  failures : Nat := 0
  retrains : Nat := 0
  /-- R262: SEQ of the next data flit -/
  txSeq : Nat := 0
  /-- R262: the replay buffer: sequence number and flit without its header's fresh fields -/
  replay : List (Nat × Bytes) := []
  /-- R263: buffered flits still to be sent again, by sequence number -/
  resend : List Nat := []
  /-- R265: SENT_v, modulo 4,096, by VC -/
  sent : Tab Nat := []
  /-- R265: the partner's credit limit, by VC -/
  limit : Tab Nat := []
  /-- Table 10-5: flits sent since IDENTIFY, for CREDIT_VC -/
  flits : Nat := 0
  /-- R269: own heartbeat count, and the tick it last advanced -/
  hb : Nat := 0
  hbAt : Nat := 0
  /-- control flits waiting to be sent: their payloads -/
  ctrl : List Bytes := []
  /-- R263: ACK_SEQ -/
  ackSeq : Nat := 0xFFF
  /-- R263: discarding until the flit ACK_SEQ + 1 arrives -/
  discarding : Bool := false
  /-- R263: NAK goes into the next header -/
  nak : Bool := false
  /-- R263: NAKs sent for one SEQ, and the tick of the last -/
  nakCount : Nat := 0
  nakAt : Nat := 0
  /-- R265: own credit limit granted, by VC -/
  granted : Tab Nat := []
  /-- R234: freed flits whose credit the die withholds, by VC -/
  withheld : Tab Nat := []
  /-- R270: the partner's count in the newest header, at the last check, and the miss run -/
  rxHb : Nat := 0
  checkedHb : Nat := 0
  misses : Nat := 0
  checkAt : Nat := 0
  /-- counts of discards on this input link (R272, R278, R281): framing, unroutable, aborted, protocol -/
  framing : Nat := 0
  unroutable : Nat := 0
  aborted : Nat := 0
  protocol : Nat := 0
  /-- R235: unclassified messages that arrived on this port -/
  unclassified : Nat := 0
  /-- the last flit this end sent on its lane -/
  lane : Bytes := []
deriving DecidableEq, Repr

/-- A link cable connector (R253). -/
structure Cable where
  present : Bool := false
  type : Nat := 0
  length : Nat := 0
  power : Nat := 0
  /-- P3V3_CBL is on -/
  powered : Bool := false
  /-- the cable's links are refused -/
  refused : Bool := false
deriving DecidableEq, Repr

/-- Where a message in the router stands (R276 to R281). -/
inductive MsgRoute where
  /-- its head is not routed yet -/
  | arrived
  /-- it ends at this node -/
  | here
  /-- it goes out on a link and VC -/
  | out (link vc : Nat)
  /-- its head waits for a choice (R277) -/
  | waiting
  /-- it is discarded flit by flit -/
  | discard
deriving DecidableEq, Repr

/-- A message in the router: one arriving on a link, or one of the node's own. -/
structure FMsg where
  id : Nat
  /-- the link it arrives on; none for the node's own -/
  inLink : Option Nat
  /-- the VC it arrives on, or is sent on -/
  vc : Nat
  /-- the data of its flits so far -/
  chunks : List Bytes
  /-- its EOM has arrived -/
  eom : Bool
  /-- it ended with ABORT (R281) -/
  aborted : Bool := false
  /-- it failed its framing check (R272) -/
  misframed : Bool := false
  /-- its discard has been counted (R281) -/
  counted : Bool := false
  route : MsgRoute := .arrived
  /-- the routing entry in force when its head arrived (R274) -/
  entry : Nat := 0
  /-- flits already sent on the output link -/
  sent : Nat := 0
  /-- flits of it already freed from the receive buffer -/
  freed : Nat := 0
  service : Nat
  subscriber : Nat
  /-- enqueue stamp, and arrival of its head (R277, R335) -/
  stamp : Nat
  /-- the WAIT in force when its head arrived (R537) -/
  wait : Nat
  /-- the arrival of its head, for the samples of its receive buffer -/
  headAt : Nat := 0
  /-- its last flit's arrival -/
  lastAt : Nat := 0
  /-- the connection and SEQ of a DATA message of the node's own, for its TX_TICK -/
  conn : Option (Nat × Nat) := none
deriving DecidableEq, Repr

/-- A subscriber record of a port (Table 12-2). -/
structure SubRec where
  weight : Nat := 1
  composition : Nat := 0xFF
  rate : Nat := 0
  burst : Nat := 0
deriving DecidableEq, Repr

/-- A token bucket, in hundredths of a byte (R323). -/
structure Bucket where
  tokens : Int := 0
  at_ : Nat := 0
deriving DecidableEq, Repr

/-- A policer (R331 to R334). -/
structure Policer where
  enable : Bool := false
  rate : Nat := 0
  burst : Nat := 0
  bucket : Bucket := {}
  passed : Nat := 0
  passedBytes : Nat := 0
  dropped : Nat := 0
  droppedBytes : Nat := 0
deriving DecidableEq, Repr

/-- A queue's sampling state and its latest sample (R335, R336). -/
structure Sample where
  /-- enqueues since the last sample -/
  enq : Nat := 0
  /-- the tick of the last sample -/
  at_ : Nat := 0
  /-- the largest age dequeued since the last sample -/
  maxAge : Nat := 0
  /-- the latest sample: depth in entries, in flits or bytes, head age, largest age -/
  entries : Nat := 0
  size : Nat := 0
  headAge : Nat := 0
  largest : Nat := 0
deriving DecidableEq, Repr

/-- Links, routing tables, ports and policers. -/
structure Fabric where
  links : Tab Link := []
  /-- R253: the four link cable connectors -/
  cables : Tab Cable := []
  /-- R273: the group table and the member table -/
  group : Tab Nat := []
  member : Tab Nat := []
  /-- messages in the router, oldest first -/
  msgs : List FMsg := []
  nextMsg : Nat := 0
  /-- R322: subscriber records by port · 2,048 + subscriber -/
  subs : Tab SubRec := []
  /-- R322: port service weights by port · 8 + service; 0 stands for the default -/
  weights : Tab Nat := []
  /-- R328: shapers by port · 2,048 + subscriber -/
  shapers : Tab Bucket := []
  /-- R327: guarantee buckets by port · 64 + composition -/
  guarantees : Tab Bucket := []
  /-- R326: DRR deficits in bytes of charged size: of services by port · 8 + service, of subscribers by (port · 8 + service) · 2,048 + subscriber -/
  serviceDeficit : Tab Int := []
  subDeficit : Tab Int := []
  /-- R325: whose turn it is: services by port, subscribers by port · 8 + service -/
  serviceTurn : Tab Nat := []
  subTurn : Tab Nat := []
  /-- R331: policers -/
  policers : Tab Policer := []
  /-- R335: queues' samples -/
  samples : Tab Sample := []
  /-- R278, R281: messages of the node's own that were discarded -/
  ownDiscards : Nat := 0
  /-- R235, R339: messages for this node discarded: escaped without room -/
  escapedDropped : Nat := 0
deriving DecidableEq, Repr

/-- Table 11-4. -/
inductive ConnState where
  | closed | connecting | open_ | closing | quarantine
deriving DecidableEq, Repr

/-- What a message of the node's own is part of, so that its acknowledgement or its loss has an effect. -/
inductive TxOp where
  | none
  /-- a SEND or MERGE_FORWARD of a posted work request (R314) -/
  | work (w : Nat)
  /-- an attention request of this node's own on behalf of something that waits for its answer -/
  | pull (domain : Nat)
deriving DecidableEq, Repr

/-- A DATA message of the node's own, waiting or unacknowledged (R294). -/
structure TxMsg where
  seq : Nat := 0
  /-- its body -/
  body : Bytes
  vc : Nat
  service : Nat
  subscriber : Nat
  fence : Bool := false
  op : TxOp := .none
  /-- it has been sent again -/
  resent : Bool := false
  /-- the tick it was last sent; expiries counted for it -/
  sentAt : Nat := 0
  /-- R296: the tick at which NOT_READY lets it be sent again -/
  retryAt : Option Nat := none
  /-- R296: the last resend made for a GAP NAK that asked for it -/
  gapAt : Option Nat := none
deriving DecidableEq, Repr

/-- A connection context (R286 to R303). -/
structure Conn where
  state : ConnState := .closed
  /-- how often the generation has advanced since reset (R289) -/
  gens : Nat := 0
  tenant : Nat := 0
  peer : Nat := 0
  peerConn : Nat := 0
  peerGen : Nat := 0
  initiator : Bool := false
  /-- CONNECT's or CLOSE's REQUEST_ID, sends and last send (R286) -/
  requestId : Nat := 0
  sends : Nat := 0
  sendAt : Nat := 0
  /-- the tick at which the state was entered (R289, R290) -/
  enteredAt : Nat := 0
  /-- the last DATA in either direction, and whether any was received (R290) -/
  dataAt : Nat := 0
  gotData : Bool := false
  /-- R290: CONN_CLOSE wants it closed; CLOSE has been sent; a CLOSE was received and its REQUEST_ID -/
  wantClose : Bool := false
  closeSent : Bool := false
  closeGot : Option Nat := none
  /-- R292: EXPECTED and the map of accepted numbers above it -/
  expected : Nat := 0
  map : Nat := 0
  /-- R294: acceptances not acknowledged, the first one's tick, and what an ACK echoes -/
  unacked : Nat := 0
  firstAt : Nat := 0
  echoTick : Nat := 0
  echoHops : Nat := 0
  /-- R296: the numbers accepted above EXPECTED and the ticks of their acceptance, earliest first; the last GAP NAK's tick -/
  above : List (Nat × Nat) := []
  gapNakAt : Option Nat := none
  /-- next SEQ to send; messages unacknowledged, oldest first; messages waiting -/
  nextSeq : Nat := 0
  sent : List TxMsg := []
  queue : List TxMsg := []
  /-- R302, R303 -/
  window : Nat := 65536
  srtt8 : Nat := 0
  rttvar8 : Nat := 0
  sampled : Bool := false
  /-- R294: expiries of the oldest message; the tick its timer runs from; the last acknowledgement progress -/
  expiries : Nat := 0
  timerAt : Nat := 0
  progressAt : Nat := 0
  lastCut : Nat := 0
  cutMade : Bool := false
deriving DecidableEq, Repr

/-- A whole message for this node that waits for something (R299, R312). -/
structure Held where
  /-- the whole message, route header first -/
  bytes : Bytes
  vc : Nat
  /-- the connection it names -/
  conn : Nat
  /-- the classification action, 0 for VC1 -/
  action : Nat
  /-- the link it arrived on -/
  inLink : Nat
  at_ : Nat
  /-- R349: it is to be answered with EPOCH_STALE -/
  stale : Bool := false
deriving DecidableEq, Repr

/-- A message that waits for its node's work on it (R235): in the queue of its service. -/
structure Inb where
  id : Nat
  bytes : Bytes
  vc : Nat
  conn : Nat
  action : Nat
  inLink : Nat
  /-- the tick of its last flit's arrival (R105) -/
  at_ : Nat
  /-- R349, R378: it is to be answered with EPOCH_STALE -/
  stale : Bool := false
deriving DecidableEq, Repr

/-- The transport (spec 11). -/
structure Transport where
  conns : Tab Conn := []
  /-- R299: contexts cached on each home die, least recently used first, by die -/
  cache : Tab (List Nat) := []
  /-- contexts in the spill area -/
  spilled : Tab Bool := []
  /-- R299: contexts being fetched -/
  fetching : List Nat := []
  /-- R299, R312: messages waiting, by home die -/
  waiting : List Held := []
  /-- messages past transport and classification, waiting for their work -/
  inbox : List Inb := []
  nextIn : Nat := 0
  /-- R234: search queues by Campion die: messages waiting for classification -/
  search : List Held := []
  /-- R292: duplicates and out-of-window messages; R284: discards; R286: stray replies; R298: late discards -/
  duplicates : Nat := 0
  beyond : Nat := 0
  stray : Nat := 0
  strayReplies : Nat := 0
  late : Nat := 0
  /-- R301: messages for unreachable contexts -/
  unreachable : Nat := 0
  /-- R349: fenced messages discarded -/
  fenced : Nat := 0
deriving DecidableEq, Repr

/-- A memory domain (R304). -/
structure Mdom where
  tenant : Nat
  key : Nat
  /-- R306: the commands that wait for its deletion: ring and index -/
  deleting : List (Nat × Nat) := []
deriving DecidableEq, Repr

/-- Table 11-7. -/
inductive RegState where
  | valid | draining
deriving DecidableEq, Repr

/-- A registration (R305, R306). -/
structure Registration where
  state : RegState := .valid
  domain : Nat
  base : Nat
  length : Nat
  read : Bool
  write : Bool
  /-- the target is TIER1, else HOST -/
  tier1 : Bool
  target : Nat
  /-- operations past their check that have not finished -/
  running : Nat := 0
  /-- the revoke commands that wait: ring and index -/
  revoking : List (Nat × Nat) := []
deriving DecidableEq, Repr

/-- Table 11-11. -/
inductive TrigState where
  | idle | armed | firing | fired
deriving DecidableEq, Repr

/-- A trigger counter (R311). -/
structure Trigger where
  state : TrigState := .idle
  tenant : Nat := 0
  value : Nat := 0
  threshold : Nat := 0
  repeat_ : Bool := false
  /-- posted work requests, in posting order -/
  list : List Nat := []
  /-- R316: lengths of the stored parts, in order -/
  lengths : List Nat := []
  /-- the tick at which it fired (R318) -/
  firedAt : Nat := 0
deriving DecidableEq, Repr

/-- A posted work request (R313). -/
structure Work where
  /-- the 64-byte record of Table 11-12 -/
  record : Bytes
  /-- fired and not completed -/
  fired : Bool := false
  /-- completed in this firing -/
  done : Bool := false
  /-- R314: messages it sent that are not acknowledged -/
  unacked : Nat := 0
  /-- the status it has come to and that is still to be processed (R315) -/
  outcome : Option Nat := none
deriving DecidableEq, Repr

/-- An RMA operation at either end. -/
structure RmaOp where
  id : Nat
  /-- the connection it came or went on -/
  conn : Nat
  /-- its registration at the target; the work request at the issuer -/
  reg : Nat
  /-- the message body -/
  body : Bytes
  sub : Nat
  /-- this node issued it -/
  issued : Bool
deriving DecidableEq, Repr

/-- Memory domains, registrations, triggers and work (spec 11). -/
structure Rma where
  domains : Tab Mdom := []
  regs : Tab Registration := []
  triggers : Tab Trigger := []
  work : Tab Work := []
  ops : List RmaOp := []
  nextOp : Nat := 0
  /-- R310: stray RMA_RESP; R316: discarded parts -/
  stray : Nat := 0
  discarded : Nat := 0
  /-- R312: increments in IDLE and in FIRED -/
  idleCount : Nat := 0
  excess : Nat := 0
deriving DecidableEq, Repr
/-! ### Objects, pages, runs, recovery and tiers (spec 02, 05, 06) -/

/-- Table 02-4 STATE. -/
inductive PageState where
  | absent | growing | sealed | suspectSealed | suspectGrowing | shared
deriving DecidableEq, Repr

/-- A page table entry (Table 02-4). -/
structure Entry where
  frame : Nat := 0
  count : Nat := 0
  tier : Nat := 0
  state : PageState := .absent
  refs : Nat := 0
  owner : Nat := 0
deriving DecidableEq, Repr

/-- What a frame run is used for (R47, R51, R160, R168, R435). -/
inductive RunUse where
  /-- it is the run of an entry, or was and still has readers -/
  | image (key : Nat)
  /-- the seal reservation of a growing page -/
  | reserve (key : Nat)
  /-- a prefetch copy -/
  | copy (id : Nat)
  /-- the destination of a move -/
  | move (id : Nat)
  /-- opened by a load command, for a page -/
  | load (key : Nat)
  /-- the page that held it is gone; it holds that page's bytes -/
  | freed
deriving DecidableEq, Repr

/-- A frame run that is not scrubbed and free (R37, R52). -/
structure Run where
  count : Nat
  tenant : Nat
  use : RunUse
  /-- references of readers -/
  refs : Nat := 0
  /-- it has left its entry and waits for its last reader -/
  left : Bool := false
  /-- its scrub is running or done in part -/
  scrubbing : Bool := false
deriving DecidableEq, Repr

/-- A shard record (Table 13-6). -/
structure Shard where
  first : Nat := 0
  last : Nat := 0
  isOpen : Bool := false
  primary : Option Nat := none
  mirror : Option Nat := none
  shadow : Option Nat := none
  fromMirror : Bool := false
  epoch : Nat := 0
  tail : Option Nat := none
  handover : Option Nat := none
  /-- 0 PAIRED, 1 SINGLE, 2 LOST -/
  state : Nat := 0
deriving DecidableEq, Repr

/-- An object on this node: its geometry, its policy and the shard records the node holds (R30, R156, R366). -/
structure Obj where
  format : Nat
  tCode : Nat
  hkv : Nat
  dCode : Nat
  layers : Nat
  composition : Nat
  home : Nat := 0
  homeMirror : Option Nat := none
  recordEpoch : Nat := 0
  /-- Table 06-3 -/
  policy : Nat := 1
  depth : Nat := 4
  /-- R163: arrival order of its PLACE -/
  placeSeq : Nat := 0
  /-- R156, Table 16-8 kind 2: the runtime has set the prefetch depth with PLACE -/
  depthSet : Bool := false
  /-- R159: the placement-complete event is still to be written -/
  placing : Bool := false
  /-- the shard records held, by shard number -/
  shards : Tab Shard := []
  /-- R24: the slice that each page group of a layer was placed on, by layer · 16,384 + page group -/
  groups : Tab Nat := []
  /-- Table 13-10: shards whose tail this node is handing over, and whether TAIL_OFFER has been sent -/
  offering : List (Nat × Bool) := []
  /-- Table 17-7 step 2: offers that have ended with the tail still here: shard and tick -/
  reverts : List (Nat × Nat) := []
deriving DecidableEq, Repr

/-- A suspect page's recovery (R49, R50). -/
structure Recovery where
  /-- an attempt runs -/
  active : Bool := true
  /-- the in-place check has failed and PAGE_FETCH is out, with its REQUEST_ID -/
  fetching : Option Nat := none
  /-- the tick of the PAGE_FETCH, or of the failed attempt -/
  at_ : Nat := 0
  /-- R131: the mirror copies its tail page from the owner -/
  copyBack : Bool := false
  /-- the received image is being written to its new run in tier 2 -/
  installing : Bool := false
  /-- the node that was asked; the PAGE_FETCH has ended with its connection (R286, R291) -/
  asked : Nat := 0
  expired : Bool := false
deriving DecidableEq, Repr

/-- A seal that runs or waits on a Yarrow die (R53, R145). -/
structure Seal where
  key : Nat
  /-- the tick of the last token's append -/
  at_ : Nat
deriving DecidableEq, Repr

/-- A page move (R62, R163). -/
structure Move where
  id : Nat
  key : Nat
  /-- Table 06-4 -/
  priority : Nat
  /-- destination tier and run, once allocated -/
  dst : Option (Nat × Nat × Nat) := none
  /-- UIO writes of the run not yet completed -/
  writes : Nat := 0
  /-- the tick since which it waits for tier-1 room -/
  waitAt : Option Nat := none
  /-- R159: the shortfall event has been written -/
  told : Bool := false
  /-- R165: the tick of a tier-2 write error, after which it waits -/
  failedAt : Option Nat := none
  /-- the image lies in the destination run -/
  arrived : Bool := false
  /-- it writes a recovered image (R49), or scrubs a freed tier-2 run (R153) -/
  recovery : Bool := false
  scrub : Bool := false
deriving DecidableEq, Repr

/-- A queued prefetch (R167). -/
structure Prefetch where
  tenantObject : Nat
  key : Nat
  /-- tier 0 staging, else tier 2 to tier 1 -/
  stage : Bool
  /-- distance in layers -/
  near : Nat
  issued : Bool := false
deriving DecidableEq, Repr

/-- A prefetch copy (R168). -/
structure Copy where
  id : Nat
  key : Nat
  /-- the frame and tier it was copied from -/
  srcFrame : Nat
  srcTier : Nat
  /-- its run's first frame -/
  frame : Nat
  count : Nat
  /-- the queued prefetch it was read for: it goes back to the queue when the path is lost (R173) -/
  asked : Prefetch
  /-- its bytes have arrived; they are verified -/
  arrived : Bool := false
  ready : Bool := false
deriving DecidableEq, Repr

/-- What a UIO read of tier 2 is for. -/
inductive UioUse where
  /-- a staged copy -/
  | staged (die copy : Nat)
  /-- a summary block: its request's number and slot, die, KV head, page index (R118) -/
  | summary (serial slot die head page : Nat)
  /-- a prefetch copy -/
  | copy (id : Nat)
  /-- the source of a move -/
  | move (id : Nat)
  /-- the in-place check of a recovery (R49) -/
  | recovery (key : Nat)
  /-- a page asked for with PAGE_FETCH: the record header asked with, the page's key after R58, and the asking node -/
  | fetch (header : Bytes) (key node : Nat)
  /-- PAGE_INSPECT's page: ring and index -/
  | inspect (ring index : Nat)
  /-- the first 64 bytes of an extent: ring, index and extent (R152) -/
  | extent (ring index k : Nat)
  /-- a sealed page that goes to a shadow: shadowing and page key -/
  | shadow (shadowing key : Nat)
  /-- the sealed page a held append is compared with (R128) -/
  | append (held : Nat)
  /-- the tier-2 boundary page of a fork: ring, index and the child's key (R57) -/
  | fork (ring index key : Nat)
  /-- the header of a page that a prefix lookup confirms: ring, index and page key (R239) -/
  | header (ring index page : Nat)
deriving DecidableEq, Repr

/-- A UIO read outstanding to tier 2 (R154). -/
structure UioRead where
  id : Nat
  use : UioUse
  /-- the run it reads and holds a reference on (R398); 0 none -/
  run : Nat := 0
  /-- memory reads of at most 4,096 bytes it takes (R397) -/
  parts : Nat
  at_ : Nat
deriving DecidableEq, Repr

/-- A fork in progress (R56, R57). -/
structure Fork where
  ring : Nat
  index : Nat
  parent : Nat
  child : Nat
  length : Nat
  /-- boundary pages whose copy runs: the child's keys -/
  copies : List Nat := []
  shared : Nat := 0
  /-- sealed images read from tier 2, by the child's key -/
  images : Tab Bytes := []
  /-- the status of a tier-2 read that failed -/
  failed : Option Nat := none
deriving DecidableEq, Repr

/-- Objects, the page table, the frame allocator and the movers. -/
structure Objects where
  /-- object records held, by tenant · 2^32 + object -/
  objs : Tab Obj := []
  /-- R61, R158: deleted owners whose runs remain, as they were: geometry, last policy, page groups -/
  orphans : Tab Obj := []
  /-- R38: the page table, by page key -/
  pages : Tab Entry := []
  /-- frame runs not scrubbed and free, by tier · 2^36 + first frame -/
  runs : Tab Run := []
  /-- R155: the transit reserve's granule index of each bound slice, and the prefetch area's -/
  transit : Tab Nat := []
  prefetchArea : Tab (List Nat) := []
  /-- R49: recoveries by page key -/
  recoveries : Tab Recovery := []
  /-- R145: seals by Yarrow die, oldest first -/
  seals : Tab (List Seal) := []
  /-- R163: moves waiting or in progress -/
  moves : List Move := []
  nextMove : Nat := 0
  placeSeq : Nat := 0
  /-- R168: prefetch copies, oldest first -/
  copies : List Copy := []
  nextCopy : Nat := 0
  /-- R166: last triggering layer by die and object: die · 2^48 + tenant · 2^32 + object; 0 none, layer + 1 -/
  lastLayer : Tab Nat := []
  /-- R167: queued prefetches by die -/
  prefetch : Tab (List Prefetch) := []
  /-- R154: UIO reads outstanding -/
  uioReads : List UioRead := []
  nextUio : Nat := 0
  /-- R151: the tier-2 window: base and length of each extent, in bytes -/
  extents : List (Nat × Nat) := []
  /-- CRC32C of the images the node has written to tier 2, by page key (DEDUCED, notes/assumptions/42.md) -/
  crcs : Tab Nat := []
  /-- R173: the tier-2 path is up -/
  pathUp : Bool := false
  /-- R436: load-opened runs: key, first frame of the run, kind of image (true growing), reservation frame -/
  loads : List (Nat × Nat × Bool × Nat) := []
  forks : List Fork := []
deriving DecidableEq, Repr
/-! ### Attention and appends (spec 03, 04) -/

/-- Where the answer to a piece of work goes: a connection and subscriber, or a local command's ring and index. -/
structure Back where
  conn : Nat
  sub : Nat := 1
  cmd : Option (Nat × Nat) := none
deriving DecidableEq, Repr

/-- What a slot reserves on one die: the slice that holds the contexts, blocks of context store per context, part
credits per context (R94, R112, R113). -/
structure Hold where
  die : Nat
  slice : Nat
  blocks : Nat
  credits : Nat
deriving DecidableEq, Repr

/-- An admission slot (R94 to R99). A slot that reserves nothing is FREE; one with a request is RUNNING or SENDING, any
other RESERVED (Table 04-8). -/
structure Slot where
  reserved : Bool := false
  /-- advances of its generation since reset (R98) -/
  gens : Nat := 0
  tenant : Nat := 0
  object : Nat := 0
  kvFirst : Nat := 0
  kvCount : Nat := 0
  queryTokens : Nat := 0
  group : Nat := 0
  first : Nat := 0
  last : Nat := 0
  bounded : Bool := false
  lease : Nat := 0
  /-- lease start, and guard start when the guard runs -/
  leaseAt : Nat := 0
  guardAt : Option Nat := none
  /-- the requester's node, and the connection it reserved on; a local slot has none -/
  requester : Nat := 0
  local_ : Bool := false
  composition : Nat := 0
  /-- what it reserves on the dies of its range -/
  holds : List Hold := []
  /-- dies whose contexts a loss has freed (Table 04-8) -/
  lostDies : List Nat := []
  /-- releases that wait for the running request: where each reply goes, and its REQUEST_ID -/
  releasing : List (Back × Nat) := []
deriving DecidableEq, Repr

/-- A partial (R73): m, l, covered tokens, bound, o, flags. -/
structure Partial where
  m : F32
  l : F32
  count : Nat
  bound : F32
  o : List F32
  flags : Nat
deriving DecidableEq, Repr

/-- A part of a request: a KV head and a tree node on a die, or a bounded part (R108). -/
structure Part where
  die : Nat
  head : Nat
  level : Nat
  index : Nat
  /-- the rows' partials once its tree node is emitted -/
  rows : Option (List Partial) := none
  handed : Bool := false
deriving DecidableEq, Repr

/-- A page resolved for a context (R116): its key after indirection, run, snapshot and progress. -/
structure Resolved where
  key : Nat
  /-- page index in the request's object -/
  page : Nat
  /-- tier · 2^36 + first frame of the run it holds a reference on -/
  run : Nat
  valid : Nat
  /-- the staged copy it joined -/
  copy : Option Nat := none
  /-- R118: it was SUSPECT when its summary was to be read -/
  waited : Bool := false
  /-- its score phase has run on an array; its value phase has run -/
  scored : Bool := false
  finished : Bool := false
deriving DecidableEq, Repr

/-- A query context: one KV head of a request on one die (R112, R114). -/
structure Ctx where
  die : Nat
  head : Nat
  /-- pages still to resolve, in order (R116, R118) -/
  todo : List Nat
  resolved : List Resolved := []
  /-- page partials by page: rows -/
  partials : Tab (List Partial) := []
  /-- bounded mode: pages' bounds per row by page (R87), and whether formed -/
  bounds : Tab (List F32) := []
  boundsDone : Bool := false
  /-- bounded mode: running fold of processed pages, by row -/
  fold : List Partial := []
  /-- bounded mode: the die has stopped, with these pages left unprocessed (R89) -/
  stopped : Option (List Nat) := none
  /-- R50: the key of the SUSPECT page it waits for -/
  waits : Option Nat := none
deriving DecidableEq, Repr

/-- A request that runs on a slot (R104 to R109). -/
structure Request where
  /-- the model's own: its number since reset, which tells late reads of an ended request (R124) -/
  serial : Nat
  /-- the message body -/
  body : Bytes
  back : Back
  arrived : Nat
  deadline : Nat
  epoch : Nat
  composition : Nat
  ctxs : List Ctx
  parts : List Part
  /-- the worst status of the parts handed over so far, for a local job's completion (R90, R437) -/
  worst : Nat := 0
  /-- pages of its range on the node -/
  pages : Nat := 0
deriving DecidableEq, Repr

/-- A staged copy in a page buffer (R120, R121). -/
structure Staged where
  id : Nat
  die : Nat
  slice : Nat
  key : Nat
  /-- growing copies: the snapshot; sealed: T -/
  valid : Nat
  growing : Bool
  run : Nat
  /-- read issued; ready -/
  issued : Bool := false
  /-- R150: read from a tier-2 run by UIO (otherwise tier 1) -/
  uio : Bool := false
  ready : Bool := false
  /-- the stored image as read -/
  image : Bytes := []
  /-- the expanded raw payload -/
  raw : Bytes := []
  /-- contexts joined: slot, KV head -/
  joined : List (Nat × Nat) := []
  /-- staged ahead by tier-0 prefetch, with its layer distance -/
  ahead : Option Nat := none
  /-- its bytes carry an uncorrectable burst (R122) -/
  bad : Bool := false
  /-- its tier-2 read has failed or timed out (R173) -/
  tierFail : Bool := false
  /-- room it takes in the page buffer (R116) -/
  size : Nat := 0
  /-- bands of 16 rows whose contexts have finished with it (R117) -/
  bands : Nat := 0
deriving DecidableEq, Repr

/-- An append held before its write (R130), or a MIRROR_COPY held (R341). -/
structure HeldAppend where
  id : Nat
  /-- the whole message -/
  bytes : Bytes
  conn : Nat
  action : Nat
  arrived : Nat
  key : Nat
  die : Nat
  /-- why: 0 recovery, 1 handover, 2 seal queue, 3 a tier-2 read for its comparison, 4 a shadow's copy (Table 13-11) -/
  why : Nat
  mirror : Bool
  /-- R131: the tail page has been copied back for it -/
  copied : Bool := false
deriving DecidableEq, Repr

/-- An append written and waiting for its mirror (R129). -/
structure AckWait where
  id : Nat
  /-- the requester's message, connection and subscriber -/
  bytes : Bytes
  conn : Nat
  sub : Nat
  status : Nat
  flags : Nat
  mirror : Nat
  tenantObject : Nat
  shard : Nat
  /-- the tick of the last MIRROR_COPY, and whether a bad status asked for the repeat -/
  sentAt : Nat
  refused : Bool := false
deriving DecidableEq, Repr

/-- What a merging or requesting node's own reservations hold (R376). -/
structure OwnSlot where
  node : Nat
  requestId : Nat
  /-- object and shard it serves -/
  object : Nat
  shard : Nat
  handle : Option Nat := none
  /-- the own slot whose shape it was reserved with -/
  shape : Slot := {}
deriving DecidableEq, Repr

/-- Attention and append state. -/
structure Attn where
  slots : Tab Slot := []
  requests : Tab Request := []
  nextRequest : Nat := 0
  staged : List Staged := []
  nextStaged : Nat := 0
  held : List HeldAppend := []
  nextHeld : Nat := 0
  acks : List AckWait := []
  nextAck : Nat := 0
  own : List OwnSlot := []
  /-- R124: pages discarded on arrival -/
  late : Nat := 0
  /-- R380: service indices of the last 1,024 requests by composition, newest first, in 1/16 tick per page -/
  services : Tab (List Nat) := []
deriving DecidableEq, Repr
/-! ### Membership, home records and compositions (spec 13) -/

/-- A member in the view (R347). -/
structure Member where
  live : Bool
  probation : Bool := false
  admission : Nat := 0
  domain : Nat
  endpoint : Bool := false
deriving DecidableEq, Repr

/-- A change that creates an epoch (Table 13-2, Table 13-3). -/
structure Change where
  change : Nat
  subject : Nat
  epoch : Nat
  flags : Nat := 0
  /-- LIST: node, flags, VALUE -/
  list : List (Nat × Nat × Nat) := []
deriving DecidableEq, Repr

/-- A witness's knowledge of one member of its domain (R351). -/
structure Report where
  at_ : Nat
  epoch : Nat
  health : Nat
  flags : Nat
  neighbours : List Nat
deriving DecidableEq, Repr

/-- A proposal this witness has made (R354, R356). -/
structure Proposal where
  change : Change
  at_ : Nat
  /-- witnesses that applied; those that granted are in the domain's votes -/
  applied : List Nat := []
  committed : Bool := false
  flooded : Bool := false
deriving DecidableEq, Repr

/-- A failure domain as this node sees it (R344, R347, R350, R354 to R360). -/
structure Domain where
  epoch : Nat := 0
  /-- R350: updates applied: message body and tick, newest first -/
  recent : List (Bytes × Nat) := []
  /-- the witness set: node and declared domain, in order; empty when not set up -/
  witnesses : List (Nat × Nat) := []
  /-- R358: the expulsion threshold of the domain's record -/
  threshold : Nat := 300
  /-- R359: the budget, and ticks of expulsions counted -/
  budget : Nat := 2
  expulsions : List Nat := []
  /-- R353: suspicion reports: subject, reporter, tick -/
  suspicions : List (Nat × Nat × Nat) := []
  reports : Tab Report := []
  /-- R356: the grant: change and tick -/
  grant : Option (Change × Nat) := none
  proposal : Option Proposal := none
  /-- R354: the changes found warranted, oldest first: since which tick, not before which tick -/
  warranted : List (Change × Nat × Nat) := []
  /-- Table 13-3: members whose JOIN arrived since the last change that concerned them -/
  joins : List Nat := []
  /-- R347: snapshot entries gathered: epoch and members so far -/
  snapshot : Option (Nat × List (Nat × Nat × Nat)) := none
  /-- R345: last frozen event, and whether a witness's declaration was found wrong -/
  frozenAt : Option Nat := none
  disagree : List Nat := []
  /-- R357: last event per suspected LAST_REPLICA member -/
  lastReplicaAt : Tab Nat := []
  /-- votes seen at the next epoch: voter, change, subject -/
  votes : List (Nat × Nat × Nat) := []
deriving DecidableEq, Repr

/-- A home's work on one object (R366 to R377): what the record itself does not hold. -/
structure HomeRec where
  /-- the record header fields are in the node's object; here all shards -/
  tenant : Nat
  object : Nat
  format : Nat
  tCode : Nat
  hkv : Nat
  dCode : Nat
  layers : Nat
  composition : Nat
  home : Nat
  mirror : Option Nat
  epoch : Nat
  shards : List Shard
  /-- this node is the home, not the home mirror -/
  isHome : Bool
  /-- R366 step 2: shards whose SHARD_UPDATEs wait for the home mirror's SHARD_ACK, with the nodes to tell -/
  waiting : List (Nat × List Nat) := []
  /-- R366: SHARD_UPDATEs without SHARD_ACK: node, shard -/
  unacked : List (Nat × Nat) := []
  /-- R373: handovers: shard, offerer, epoch, start; guards: shard, revert tick -/
  handovers : List (Nat × Nat × Nat × Nat) := []
  guards : List (Nat × Nat) := []
  /-- the lengths of an offer in progress, by shard -/
  offers : Tab Bytes := []
  /-- the command that created it and waits for all acknowledgements: ring, index -/
  creating : Option (Nat × Nat) := none
  /-- shadow commands: shard, SAMPLE, MATCHES, and the ring and index while the command waits -/
  shadowing : List (Nat × Nat × Nat × Option (Nat × Nat)) := []
  /-- R430: the tick of the last SHARD_UPDATEs, and the first status other than OK -/
  sentAt : Nat := 0
  badStatus : Nat := 0
deriving DecidableEq, Repr

/-- A forwarded request whose parts are compared (R376, R377). -/
structure Compared where
  /-- the tag of the forwarded request; the own slot while its request runs; the tick at which a missing part counts -/
  request : Nat
  slot : Option Nat
  until_ : Nat
  /-- own parts and the shadow's, by part number -/
  own : Tab Bytes := []
  theirs : Tab Bytes := []
  total : Nat := 0
deriving DecidableEq, Repr

/-- The primary's or source's side of a shadowing (R375 to R377). -/
structure Shadowing where
  shadow : Nat
  sample : Nat
  matchesWanted : Nat
  /-- source: page keys still to send -/
  toSend : List Nat := []
  seen : Nat := 0
  matched : Nat := 0
  mismatches : Nat := 0
  compared : List Compared := []
  /-- step 6 of Table 13-11: the tags of the SHADOW_DIGESTs that are not answered; empty once SHADOW_READY is sent -/
  digest : Option (List Nat) := none
  /-- R376: appends sent to the shadow and not acknowledged: layer and first position -/
  unacked : List (Nat × Nat) := []
deriving DecidableEq, Repr

/-- A message that asked a home and waits for HOME_REPLY (R374). -/
structure HomeAsk where
  requestId : Nat
  tenantObject : Nat
  node : Nat
deriving DecidableEq, Repr

/-- A composition on this node (R378 to R382). -/
structure Composition where
  id : Nat := 0
  tenant : Nat := 0
  slices : List Nat := []
  groupRun : Nat := 1
  generation : Nat := 0
  /-- nodes fenced out -/
  fences : List Nat := []
  prefetch : Nat := 0
  staging : Nat := 0
  share : Nat := 0
  /-- a restart that waits for running requests: the new binding and its command -/
  restarting : Option (List Nat × Bytes × Nat × Nat) := none
  /-- R381: indices received: node, index, tick, newest first -/
  indices : List (Nat × Nat × Nat) := []
  rotation : Nat := 0
  preferMirror : Bool := false
  /-- R381: the tick of the last STRAGGLER_GOSSIP -/
  gossipAt : Nat := 0
deriving DecidableEq, Repr

/-- Table 17-7. -/
structure Drain where
  /-- 0 not draining; 1 to 5 the step of Table 17-7; 6 drained -/
  step : Nat := 0
  startAt : Nat := 0
  /-- started by the node itself (R466) -/
  own : Bool := false
  command : Option (Nat × Nat) := none
deriving DecidableEq, Repr

/-- Membership, health, homes and compositions. -/
structure Members where
  /-- R343: own failure domain, 0 until set -/
  domain : Nat := 0
  /-- R358: expulsion threshold -/
  threshold : Nat := 300
  view : Tab Member := []
  domains : Tab Domain := []
  /-- R347: own membership flags -/
  everLive : Bool := false
  /-- why it last stopped being LIVE: the CHANGE, 0 never -/
  leftBy : Nat := 0
  score : Nat := 1000
  healthLow : Bool := false
  lastReport : Option Nat := none
  /-- the report last sent, to tell a change of its fields -/
  reportBody : Bytes := []
  joinAt : Option Nat := none
  joining : Bool := false
  /-- R352: neighbours suspected: node, last sent; not yet sent at once -/
  suspected : Tab Nat := []
  /-- R357: ticks of health inputs: corrected, uncorrectable, retrains, scrub, shadow, die losses -/
  corrected : List Nat := []
  uncorrectable : List Nat := []
  retrains : List Nat := []
  scrubs : List Nat := []
  shadows : List Nat := []
  dieLosses : List Nat := []
  drain : Drain := {}
  /-- R357: the tick of the last health score -/
  scoreAt : Nat := 0
  /-- R427: MEMBERSHIP ENTER waiting, oldest first: ring, index, start -/
  entering : List (Nat × Nat × Nat) := []
  /-- R368: home records held, by tenant · 2^32 + object -/
  homes : Tab HomeRec := []
  /-- R375: shadowings as primary or source, by (tenant · 2^32 + object) · 256 + shard -/
  shadowings : Tab Shadowing := []
  asks : List HomeAsk := []
  compositions : Tab Composition := []
  /-- management messages sent on VC0 -/
  nextAsk : Nat := 0
deriving DecidableEq, Repr
/-! ### LPDDR6, bank-side units, associative match and counters (spec 07, 08, 09, 20) -/

/-- A granule change of GRANULE_CONFIG that runs on a slice (R183, R424). -/
structure GranuleChange where
  ring : Nat
  index : Nat
  /-- to bank-op, else to checked -/
  toBankOp : Bool
  /-- granule indices still to change, and granules named -/
  todo : List Nat
  named : Nat
  /-- the rows of the first of them have been filled with zeros -/
  filled : Bool := false
deriving DecidableEq, Repr

/-- LPDDR6 controllers and devices. Channels are numbered 8 · die + channel, sub-channels 2 · channel + sub-channel,
devices 2 · sub-channel + rank, banks 16 · device + bank. -/
structure Lpddr where
  /-- R196: memory enables that run, by die: the tick of the write plus one -/
  running : Tab Nat := []
  /-- Table 21-14: DONE, READY and FAILED by die -/
  done : Tab Bool := []
  readyCh : Tab Nat := []
  failedCh : Tab Nat := []
  /-- R199: controllers commanded into self-refresh: tick plus one, by die; and dies that reached it -/
  entering : Tab Nat := []
  selfRefresh : Tab Bool := []
  /-- R182: bank-op granules, by slice · 48 + index -/
  bankOp : Tab Bool := []
  /-- R183, R424: granule changes that run, by slice -/
  changing : Tab GranuleChange := []
  /-- R180: errors of the stored 36 bytes of a burst, by burst number: what was stored XOR what reads -/
  errors : Tab Bytes := []
  /-- R189: retired frames -/
  retired : Tab Bool := []
  /-- R189: the patrol sweeps of a sub-channel that have ended; and of a burst, the last sweep that corrected it and how many
  consecutive ones did, by burst number -/
  sweeps : Tab Nat := []
  patrolHits : Tab (Nat × Nat) := []
  /-- R194: the patrol's next burst by sub-channel, and the tick of its last read -/
  patrolAt : Tab Nat := []
  patrolTick : Tab Nat := []
  /-- R190, R193: refreshes owed by bank; management requests by bank -/
  owed : Tab Nat := []
  management : Tab Bool := []
  /-- R190: the rotation over the 16 banks of a rank of a sub-channel, by device: the bank whose turn it is, and the time of the
  last refresh command in 640ths of a tick -/
  refreshNext : Tab Nat := []
  refreshAt : Tab Nat := []
  /-- R191: temperature by device, °C, and the tick of its report -/
  temp : Tab Int := []
  tempAt : Tab Nat := []
  /-- R198: ticks of the last impedance calibration and DQ tracking, and the temperature at that tracking, by channel -/
  impedanceAt : Tab Nat := []
  trackAt : Tab Nat := []
  trackTemp : Tab Int := []
  /-- R201, R546: host writes that changed nothing -/
  hostDiscarded : Nat := 0
deriving DecidableEq, Repr

/-- What a bank-op job is for (R214). -/
inductive JobUse where
  /-- the copy of a fork's boundary page: the child's key -/
  | fork (key : Nat)
  /-- a runtime job: ring and index of its command -/
  | command (ring index : Nat)
  /-- the scrub of a freed run: its first frame and its frames -/
  | scrub (frame count : Nat)
  /-- the rows of a granule that becomes a bank-op granule: slice and granule index (R183) -/
  | granule (slice index : Nat)
deriving DecidableEq, Repr

/-- One row operation of a job (R207): its number in the job, code, destination, sources, pattern. -/
structure RowOp where
  n : Nat
  op : Nat
  dst : Nat
  a : Nat
  b : Nat
  pattern : Nat
deriving DecidableEq, Repr

/-- A bank-op job that is queued or runs (R209 to R216). Its entries are kept as they stand in the list (Table 08-3). -/
structure Job where
  id : Nat
  use : JobUse
  tenant : Nat
  entries : List Bytes
  /-- Table 08-2 JOB_TAG; 0 for the node's own jobs -/
  tag : Nat := 0
  /-- row operations started and completed, by their number in the job -/
  started : Tab Bool := []
  completed : Tab Bool := []
  pauses : Nat := 0
  /-- numbers of row operations held for a refresh that have counted their pause -/
  held : List Nat := []
  /-- runs referenced (R212) -/
  runs : List Nat := []
deriving DecidableEq, Repr

/-- Bank-side units. -/
structure RowOps where
  jobs : List Job := []
  nextJob : Nat := 0
  /-- row operations that run, by slice · 16 + bank: job and row operation -/
  running : Tab (Nat × RowOp) := []
deriving DecidableEq, Repr

/-- A match entry (R227): VALUE, CARE, ACTION, and the PRIORITY the table manager keeps. -/
structure MEntry where
  value : Nat
  care : Nat
  action : Nat
  prio : Nat
deriving DecidableEq, Repr

/-- A TABLE_EDIT command that waits for a hole (R242), or a lookup that waits for a scan (R251). -/
structure Lookup where
  ring : Nat
  index : Nat
  /-- the next key, hits so far, and result bytes so far -/
  next : Nat
  hits : Nat
  out : Bytes
  /-- the scan that serves it has begun -/
  scanning : Bool := false
  /-- the tier-2 page whose header its next key waits for (R239) -/
  asks : Option Nat := none
deriving DecidableEq, Repr

/-- The Teasel dies and the table managers. -/
structure Match where
  /-- Table 21-18 READY and FAILED; the tick of the enable -/
  ready : Bool := false
  failed : Bool := false
  startAt : Option Nat := none
  /-- R538: the slices whose node granules hold the two copy areas and overflow tables -/
  areas : List Nat := []
  /-- R227: valid entries by (die − 28) · 262,144 + index -/
  entries : Tab MEntry := []
  /-- R229: profiles 1 to 63 and the links' assignments -/
  profiles : Tab Nat := []
  assigned : Tab Nat := []
  /-- R248: the scrubber's next index, and the tick of its last compare, by die -/
  scrubNext : Tab Nat := []
  scrubAt : Tab Nat := []
  /-- R242: runs that used up their last hole, by die · 2 + partition, oldest first (first index of the run) -/
  repairs : Tab (List Nat) := []
  /-- R242: TABLE_EDIT commands that wait for a repair: ring, index, records applied -/
  edits : List (Nat × Nat × Nat) := []
  /-- R240: records in the overflow table -/
  overflow : Nat := 0
  /-- R251: lookups that wait for a scan -/
  lookups : List Lookup := []
deriving DecidableEq, Repr

/-- One counter (R508, R511). -/
structure Counter where
  event : Nat := 0
  thr : Bool := false
  threshold : Nat := 0
  value : Nat := 0
  /-- increments of the running tick -/
  tick : Nat := 0
  /-- R518: a discontinuity since the last snapshot -/
  disc : Bool := false
deriving DecidableEq, Repr

/-- A derived unit (R521, R522). -/
structure Derived where
  event : Nat := 0
  window : Nat := 0
  startAt : Nat := 0
  windows : Nat := 0
  /-- counts of the running window and of the last one: the seven of Table 20-5, or bytes and units -/
  cur : List Nat := []
  last : List Nat := []
  most : Nat := 0
deriving DecidableEq, Repr

/-- A CNT_SNAPSHOT that runs (R515 to R517). -/
structure Snapshot where
  ring : Nat
  index : Nat
  mode : Nat
  target : Nat
  /-- dies that were out of reset, and the die records captured -/
  mask : Nat
  got : Tab Bytes := []
deriving DecidableEq, Repr

/-- The counters (spec 20). -/
structure Counters where
  /-- by die · 64 + counter -/
  c : Tab Counter := []
  frozen : Bool := false
  snap : Option Snapshot := none
  derived : Tab Derived := []
  /-- Table 20-9 -/
  enable : Bool := false
  hold : Bool := false
  clear : Bool := false
  /-- Table 20-10, by slot -/
  sel : Tab Nat := []
  /-- the compatibility slots and the tick counter as they count -/
  slots : Tab Counter := []
  ticks : Nat := 0
  /-- Tables 20-8 and 20-11: the registers as last updated, and the tick of that update -/
  regTicks : Nat := 0
  regVals : Tab Nat := []
  updatedAt : Nat := 0
deriving DecidableEq, Repr
/-! ### The whole -/

/-- Everything inside the module but its tier-1 bytes, its nonvolatile parts and the command queue. -/
structure Dev where
  /-- R472: the Self-heal die's tick count -/
  now : Nat := 0
  /-- the model's own: draws of free values so far (DESIGN CHOICE, notes/assumptions/3.md) -/
  draws : Nat := 0
  /-- the model's own: the draw made at the last reset for generations (R98, R289) -/
  bootDraw : Nat := 0
  power : Power := {}
  dies : Dies := {}
  boot : Boot := {}
  sec : Security := {}
  evt : Events := {}
  regs : Regs := {}
  hif : Hif := {}
  fab : Fabric := {}
  tr : Transport := {}
  rma : Rma := {}
  obj : Objects := {}
  attn : Attn := {}
  mbr : Members := {}
  lp : Lpddr := {}
  row : RowOps := {}
  mat : Match := {}
  cnt : Counters := {}
deriving DecidableEq, Repr

/-- Tier-1 memory: (address, byte), in canonical form; an address not listed reads as zero (R196 step 5). -/
abbrev Memory := List Host.Cell

/-- The state of the block and the commands that wait, first in, first out. -/
structure State where
  nv : Nonvolatile := {}
  dev : Dev := {}
  mem : Memory := []
  pending : List Instr := []
deriving DecidableEq, Repr

/-- Right after power-good: every die in reset, the ROM not yet run, nothing waiting (R463, R529). -/
def State.reset : State := {}

/-- Why a command faults. -/
inductive Fault where
  /-- An access through the HDM window, a burst or a frame outside the 3,072 GiB of tier 1, which the spec says does
  not exist (R176, R392). Raised by HOST_HDM_READ, HOST_HDM_WRITE, PARTIAL_BURST_WRITE and MEMORY_READ_COMPLETE.
  Safe: the model stops where the hardware has no such address. -/
  | noSuchAddress
deriving DecidableEq, Repr

/-- Why a command is refused. -/
inductive Refusal where
  /-- The command has no meaning yet. Raised only by arms of exec. Safe: the model stops. -/
  | notModelled (mnemonic : String)
deriving DecidableEq, Repr

end Sys2Proof.Machine
end

