-- ==== Sys2Proof/Machine/Tab.lean ====
section
/-! DEFINITION. Sparse tables: a list of (key, value) pairs with keys strictly rising. A table with a default holds
no entry equal to it, so equal tables are equal data. Memory is such a table of bytes (Host.Cell) whose default is
zero. -/

namespace Sys2Proof

/-- The entry listed at a key, if any. -/
def tfind {α : Type} : Tab α → Nat → Option α
  | [], _ => none
  | (k', v) :: t, k => if k = k' then some v else if k < k' then none else tfind t k

/-- The value at a key: the listed one, or the table's default. -/
def tget {α : Type} (d : α) (t : Tab α) (k : Nat) : α := (tfind t k).getD d

/-- List a value at a key, in key order. -/
def tins {α : Type} : Tab α → Nat → α → Tab α
  | [], k, v => [(k, v)]
  | (k', v') :: t, k, v =>
    if k = k' then (k, v) :: t else if k < k' then (k, v) :: (k', v') :: t else (k', v') :: tins t k v

/-- Remove the entry at a key. -/
def tdel {α : Type} : Tab α → Nat → Tab α
  | [], _ => []
  | (k', v') :: t, k =>
    if k = k' then t else if k < k' then (k', v') :: t else (k', v') :: tdel t k

/-- Give a key a value; the default is not listed. -/
def tput {α : Type} [DecidableEq α] (d : α) (t : Tab α) (k : Nat) (v : α) : Tab α :=
  if v = d then tdel t k else tins t k v

/-- Change the value at a key. -/
def tmod {α : Type} [DecidableEq α] (d : α) (t : Tab α) (k : Nat) (f : α → α) : Tab α :=
  tput d t k (f (tget d t k))

/-- Change the entry at a key, where one is listed. -/
def tupd {α : Type} (t : Tab α) (k : Nat) (f : α → α) : Tab α :=
  t.map fun p => if p.1 = k then (p.1, f p.2) else p

/-- Every key of the list is above a bound. -/
def tabove {α : Type} (k : Nat) (t : Tab α) : Bool := t.all fun p => decide (k < p.1)

/-- Keys strictly rising. -/
def tsorted {α : Type} : Tab α → Bool
  | [] => true
  | (k, _) :: t => tabove k t && tsorted t

/-- The canonical form of a table with a default: keys strictly rising, no entry equal to the default. -/
def tcanon {α : Type} [DecidableEq α] (d : α) (t : Tab α) : Bool :=
  tsorted t && t.all fun p => decide (p.2 ≠ d)

end Sys2Proof
end

