-- ==== Sys2Proof/Machine/Ops.lean ====
section
/-! DEFINITION. The shared operations every family is written over: how a meaning acts on the state, tier-1 memory,
dies, timers, draws of free values, and the event serial context (R414, R445 to R450). -/

namespace Sys2Proof.Machine

/-- The outcome of one command. -/
abbrev Out := Host.Outcome State Fault Refusal

/-- What a command that writes tier 1 acts on. -/
structure Chip where
  dev : Dev
  mem : Memory
deriving DecidableEq, Repr

/-- What a command that writes fuses or flash acts on. -/
structure Root where
  nv : Nonvolatile
  dev : Dev
deriving DecidableEq, Repr

/-- Power-good has asserted (R29: nothing runs without power). -/
def Dev.on (d : Dev) : Bool := d.power.state == .on

/-- A command whose effect lies in the block's registers, tables and queues; without power it does nothing. -/
def State.act (s : State) (f : Dev → Dev) : Out :=
  .next (if s.dev.on then { s with dev := f s.dev } else s)

/-- A command that may also write tier 1. -/
def State.actMem (s : State) (f : Chip → Chip) : Out :=
  .next (if s.dev.on then { s with dev := (f ⟨s.dev, s.mem⟩).dev, mem := (f ⟨s.dev, s.mem⟩).mem } else s)

/-- A command that may also write fuses or flash. -/
def State.actNv (s : State) (f : Root → Root) : Out :=
  .next (if s.dev.on then { s with nv := (f ⟨s.nv, s.dev⟩).nv, dev := (f ⟨s.nv, s.dev⟩).dev } else s)

/-- A command that reads tier 1 and writes none of it. -/
def State.actRead (s : State) (f : Chip → Dev) : Out :=
  .next (if s.dev.on then { s with dev := f ⟨s.dev, s.mem⟩ } else s)

/-- A command of the hot-swap controller, which acts without power too (R451). -/
def State.actPower (s : State) (f : Power → Power) : Out :=
  .next { s with dev := { s.dev with power := f s.dev.power } }

/-- The module after a reset of the whole: as at power-good, but for what survives it (R529, R544). The draw counter
goes on, so that draws after the reset are fresh. -/
def freshDev (d : Dev) : Dev :=
  { power := { state := .on, present := d.power.present, overvolt := d.power.overvolt, latched := d.power.latched },
    draws := d.draws + 1, bootDraw := d.draws }

/-- A module without power: nothing runs and nothing is kept but the hot-swap controller's own state (R29, R467). -/
def deadDev (d : Dev) : Dev := { freshDev d with power := { (freshDev d).power with state := .off } }

/-! ### Groups of the state -/

def Dev.onPower (d : Dev) (f : Power → Power) : Dev := { d with power := f d.power }
def Dev.onDies (d : Dev) (f : Dies → Dies) : Dev := { d with dies := f d.dies }
def Dev.onBoot (d : Dev) (f : Boot → Boot) : Dev := { d with boot := f d.boot }
def Dev.onSec (d : Dev) (f : Security → Security) : Dev := { d with sec := f d.sec }
def Dev.onEvt (d : Dev) (f : Events → Events) : Dev := { d with evt := f d.evt }
def Dev.onRegs (d : Dev) (f : Regs → Regs) : Dev := { d with regs := f d.regs }
def Dev.onHif (d : Dev) (f : Hif → Hif) : Dev := { d with hif := f d.hif }
def Dev.onFab (d : Dev) (f : Fabric → Fabric) : Dev := { d with fab := f d.fab }
def Dev.onTr (d : Dev) (f : Transport → Transport) : Dev := { d with tr := f d.tr }
def Dev.onRma (d : Dev) (f : Rma → Rma) : Dev := { d with rma := f d.rma }
def Dev.onObj (d : Dev) (f : Objects → Objects) : Dev := { d with obj := f d.obj }
def Dev.onAttn (d : Dev) (f : Attn → Attn) : Dev := { d with attn := f d.attn }
def Dev.onMbr (d : Dev) (f : Members → Members) : Dev := { d with mbr := f d.mbr }
def Dev.onLp (d : Dev) (f : Lpddr → Lpddr) : Dev := { d with lp := f d.lp }
def Dev.onRow (d : Dev) (f : RowOps → RowOps) : Dev := { d with row := f d.row }
def Dev.onMat (d : Dev) (f : Match → Match) : Dev := { d with mat := f d.mat }
def Dev.onCnt (d : Dev) (f : Counters → Counters) : Dev := { d with cnt := f d.cnt }
def Root.onDev (r : Root) (f : Dev → Dev) : Root := { r with dev := f r.dev }
def Chip.onDev (c : Chip) (f : Dev → Dev) : Chip := { c with dev := f c.dev }

/-! ### Tier-1 bytes -/

/-- One byte of tier 1. -/
def memByte (m : Memory) (a : Nat) : Byte := tget 0 m a

/-- `n` bytes of tier 1 from an address on. -/
def memRead (m : Memory) (a n : Nat) : Bytes := (List.range n).map fun i => memByte m (a + i)

/-- Write one byte. -/
def memPut (m : Memory) (a : Nat) (b : Byte) : Memory := tput 0 m a b

/-- Write bytes in ascending address. -/
def memWrite (m : Memory) (a : Nat) : Bytes → Memory
  | [] => m
  | b :: bs => memWrite (memPut m a b) (a + 1) bs

/-- The canonical form: addresses strictly rising, no byte listed that an unlisted address reads as. -/
def Memory.wf (m : Memory) : Bool := tcanon (0 : Byte) m

/-! ### Dies -/

/-- A die is running: released and reported ready (R482, R530). -/
def Dev.ready (d : Dev) (die : Nat) : Bool := tget .inReset d.dies.st die == .ready

/-- A die is held in reset after a loss (R25). -/
def Dev.lost (d : Dev) (die : Nat) : Bool := tget .inReset d.dies.st die == .lost

/-- The Self-heal firmware runs (R489). -/
def Dev.firmware (d : Dev) : Bool := d.boot.mode == .firmware || d.boot.mode == .fallback

/-- Set a die's state. -/
def Dev.setDie (d : Dev) (die : Nat) (st : DieState) : Dev :=
  d.onDies fun x => { x with st := tput .inReset x.st die st }

/-- The Yarrow die of a slice (R21). -/
def dieOfSlice (n : Nat) : Nat := n / 4

/-- The Campion die of a link (Table 01-1). -/
def dieOfLink (n : Nat) : Nat := 16 + n / 4

/-- A connection context. -/
def Dev.conn (d : Dev) (i : Nat) : Conn := tget {} d.tr.conns i

/-- Change a connection context. -/
def Dev.onConn (d : Dev) (i : Nat) (f : Conn → Conn) : Dev := d.onTr fun x => { x with conns := tmod {} x.conns i f }

/-! ### Timers -/

/-- A timer of `n` ticks started at tick `t` has expired (R473). -/
def Dev.due (d : Dev) (t n : Nat) : Bool := decide (t + n ≤ d.now)

/-- Draw a free value: the draw's number, and the device with the counter advanced. -/
def Dev.draw (d : Dev) : Nat × Dev := (d.draws, { d with draws := d.draws + 1 })

/-! ### Conditional effects -/

/-- Act only when a condition holds; otherwise the command changes nothing (DESIGN CHOICE, notes/assumptions/2.md). -/
def Dev.when (d : Dev) (c : Bool) (f : Dev → Dev) : Dev := if c then f d else d

/-- The same for a command that may write tier 1. -/
def Chip.when (k : Chip) (c : Bool) (f : Chip → Chip) : Chip := if c then f k else k

/-! ### Events -/

/-- The codes that Table 16-5 marks as counted. -/
def countedCodes : List Nat := [0x0101, 0x0106, 0x0305, 0x0501, 0x0503]

/-- A record enters the event serial context (R445). -/
def pushEvent (d : Dev) (code die count tenant status eflags : Nat) (data : Bytes) : Dev :=
  d.onEvt fun e =>
    { e with
      queue := e.queue ++ [{ code := code, die := die, seq := 0, tick := d.now, count := count, tenant := tenant,
                             status := status, eflags := eflags, data := data }] }

/-- Key of a counted code on a die. -/
def countedKey (code die : Nat) : Nat := code * 256 + die

/-- Something happens that an event code reports (R446): one record per occurrence, or for a counted code at most one
record per die every 100,000 ticks. -/
def logFull (d : Dev) (code die tenant status eflags : Nat) (data : Bytes) : Dev :=
  if countedCodes.contains code then
    let c := tget ({} : Counted) d.evt.counted (countedKey code die)
    let free := match c.last with
      | none => true
      | some t => d.due t 100000
    if free then
      let d := pushEvent d code die (c.count + 1) tenant status eflags data
      d.onEvt fun e => { e with counted := tput {} e.counted (countedKey code die) { last := some d.now } }
    else
      let c := { c with count := c.count + 1, tenant := tenant, status := status, eflags := eflags, data := data }
      d.onEvt fun e => { e with counted := tput {} e.counted (countedKey code die) c }
  else pushEvent d code die 1 tenant status eflags data

/-- An event of the node or a die without tenant or status. -/
def logEv (d : Dev) (code die : Nat) (data : Bytes) : Dev := logFull d code die 0 0 0 data

/-- R447: an episode of a blocked decision starts; nothing while it lasts. -/
def blockStart (d : Dev) (kind subject tenant : Nat) : Dev :=
  if d.evt.episodes.contains (kind, tenant, subject) then d
  else
    (logFull d 0x0308 Config.noDie tenant 0 0 (toLe 1 kind ++ toLe 4 subject)).onEvt fun e =>
      { e with episodes := e.episodes ++ [(kind, tenant, subject)] }

/-- R447: the episode ends. -/
def blockEnd (d : Dev) (kind subject tenant : Nat) : Dev :=
  d.onEvt fun e => { e with episodes := dropWhere (· == (kind, tenant, subject)) e.episodes }

/-- R449: a CXL failure log record; a full log counts it instead. -/
def cxlFailure (d : Dev) (r : CxlRecord) : Dev :=
  d.onEvt fun e =>
    if e.failureLog.length < 256 then { e with failureLog := e.failureLog ++ [r] }
    else { e with failureOverflow := e.failureOverflow + 1 }

/-- R449: a CXL warning log record. -/
def cxlWarning (d : Dev) (r : CxlRecord) : Dev :=
  d.onEvt fun e =>
    if e.warningLog.length < 256 then { e with warningLog := e.warningLog ++ [r] }
    else { e with warningOverflow := e.warningOverflow + 1 }

/-- A 48-bit counter advances by one (R450, R508). -/
def inc48 (n : Nat) : Nat := (n + 1) % 281474976710656

/-- A counter advances modulo 2^48 (R508). -/
def ctrAdd (k : Nat) (c : Counter) : Counter := { c with value := (c.value + k) % 281474976710656 }

/-- The counters of a die stand still: they are frozen, or a running FREEZE has captured the die; a running UNFREEZE that
has captured it lets it count again (R515). -/
def frozenOn (d : Dev) (die : Nat) : Bool :=
  match d.cnt.snap with
  | some s => if (tfind s.got die).isSome && s.mode != 0 then s.mode == 1 else d.cnt.frozen
  | none => d.cnt.frozen

/-- A fixed counter of a die advances (R513); counters do not count while they are frozen (R515). -/
def fixedCount (d : Dev) (die n k : Nat) : Dev :=
  if frozenOn d die then d else d.onCnt fun x => { x with c := tmod {} x.c (die * 64 + n) (ctrAdd k) }

/-- An increment of a C or Q event reaches a counter that counts it (R511). -/
def ctrEvent (k : Nat) (c : Counter) : Counter := if c.thr then { c with tick := c.tick + k } else ctrAdd k c

/-- A sampled value reaches a counter that counts it (R511). -/
def ctrSample (v : Nat) (c : Counter) : Counter :=
  if c.thr then ctrAdd (if c.threshold < v then 1 else 0) c else ctrAdd v c

/-- Apply a change to every programmable counter and compatibility slot that counts an event of a die. -/
def ctrEach (d : Dev) (die event : Nat) (f : Counter → Counter) : Dev :=
  if frozenOn d die then d
  else d.onCnt fun x =>
    { x with
      c := x.c.map fun p => if p.1 / 64 == die && decide (p.1 % 64 < 16) && p.2.event == event then (p.1, f p.2) else p
      slots := x.slots.map fun p =>
        if x.enable && bitsOf (tget 0 x.sel p.1) 16 5 == die && p.2.event == event then (p.1, f p.2) else p }

/-- `k` more of a C or Q event on a die (Table 20-1). -/
def count (d : Dev) (die event k : Nat) : Dev := ctrEach d die event (ctrEvent k)

/-! ### The package network (R14, R25) -/

/-- The hubs that take transfers: a lost hub leaves every new transfer to the others (Table 01-4). -/
def hubsUp (d : Dev) : List Nat := ((List.range 4).map (· + 24)).filter d.ready

/-- The one hub a transfer crosses: the sender's choice from the destination die and bits 13:12 of its address (R14). -/
def hubOf (d : Dev) (dest addr : Nat) : Option Nat :=
  let up := hubsUp d
  if up.isEmpty then none else up[Config.hubChoice dest (bitsOf addr 12 2) % up.length]?

/-- A transfer of `n` bytes to a die crosses its hub, which counts it and its bytes (Table 20-1). -/
def hubXfer (d : Dev) (dest addr n : Nat) : Dev :=
  match hubOf d dest addr with
  | some h => count (count d h 0x2000 1) h 0x2010 n
  | none => d

/-- `n` bytes from an address on go to a die: one transfer for each 4 KiB of addresses they touch (DESIGN CHOICE,
notes/assumptions/96.md). -/
def hubMove (d : Dev) (dest addr n : Nat) : Dev :=
  (List.range ((addr % 4096 + n + 4095) / 4096)).foldl (fun d i =>
    let lo := max addr (addr / 4096 * 4096 + 4096 * i)
    hubXfer d dest lo (min (addr + n) (addr / 4096 * 4096 + 4096 * (i + 1)) - lo)) d

/-- A sampled value of an S event on a die. -/
def countSample (d : Dev) (die event v : Nat) : Dev := ctrEach d die event (ctrSample v)

/-- A lane event of a link: its block's code without the lane (Table 20-1). -/
def laneCount (d : Dev) (link event k : Nat) : Dev := count d (dieOfLink link) (event + link % 4) k

/-- An event of a policer reaches the counters that name it (Table 20-1, scheduling 16 to 19). -/
def countPolicer (d : Dev) (p event k : Nat) : Dev :=
  let die := 16 + p % 8
  if frozenOn d die then d
  else d.onCnt fun x =>
    { x with
      c := x.c.map fun q =>
        if q.1 / 64 == die && decide (q.1 % 64 < 16) && q.2.event / 16 == (0x1C00 + 0x10 * event) / 16 &&
            q.2.threshold % 16384 == p then (q.1, ctrAdd k q.2) else q }

/-- A bandwidth unit counts bytes (R522). -/
def bandwidth (d : Dev) (event bytes : Nat) : Dev :=
  if frozenOn d Config.selfHeal then d
  else d.onCnt fun x =>
    { x with derived := x.derived.map fun p =>
        if p.2.event == event then
          (p.1, { p.2 with cur := [p.2.cur.headD 0 + bytes, (p.2.cur.drop 1).headD 0 + 1] })
        else p }

/-- The status codes of Table 16-1, in its order. -/
def statusCodes : List Nat :=
  [0x00, 0x01, 0x02, 0x10, 0x11, 0x12, 0x20, 0x21, 0x22, 0x23, 0x24, 0x30, 0x31, 0x32, 0x40, 0x42, 0x43, 0x50, 0x51,
   0x52, 0x60]

/-- R450: work ended with a status on a die. -/
def countEnded (d : Dev) (status die : Nat) : Dev := fixedCount d die (18 + statusCodes.idxOf status) 1

/-- R450: a discard of a class on a die: 0 policed, 1 unclassified, 2 fenced, 3 protocol, 4 late. -/
def countDiscard (d : Dev) (cls die : Nat) : Dev := fixedCount d die (39 + cls) 1

/-- A late event is discarded: counted, and recorded with LATE_DISCARD set (R123, R154, R298, R373). -/
def lateDiscard (d : Dev) (kind die tenant status : Nat) : Dev :=
  logFull (countDiscard d 4 die) 0x0501 die tenant status 1 (toLe 1 kind)

/-! ### Queue samples (R335) -/

/-- Queue numbers: (port, service) queues 0 to 263, link VC buffers from 264, engine queues from 512, search queues from
1,024, waiting areas from 1,040. -/
def portQueue (port service : Nat) : Nat := port * 8 + service
def vcQueue (link vc : Nat) : Nat := 264 + link * 5 + vc
def engineQueue (die engine : Nat) : Nat := 512 + die * 8 + engine
def searchQueue (die : Nat) : Nat := 1024 + die
def waitQueue (die : Nat) : Nat := 1040 + die

/-- An entry enters a queue. -/
def sampleEnq (d : Dev) (q : Nat) : Dev :=
  d.onFab fun x => { x with samples := tmod {} x.samples q fun p => { p with enq := p.enq + 1 } }

/-- An entry of an age leaves a queue. -/
def sampleDeq (d : Dev) (q age : Nat) : Dev :=
  d.onFab fun x => { x with samples := tmod {} x.samples q fun p => { p with maxAge := max p.maxAge age } }

/-- A page key's fields (Table 02-3). -/
def mkKey (tenant object layer page : Nat) : Nat := tenant * 2 ^ 58 + object * 2 ^ 26 + layer * 2 ^ 18 + page
def keyTenant (k : Nat) : Nat := bitsOf k 58 16
def keyObject (k : Nat) : Nat := bitsOf k 26 32
def keyLayer (k : Nat) : Nat := bitsOf k 18 8
def keyPage (k : Nat) : Nat := bitsOf k 0 18
/-- The object a page key names, as the object table numbers it. -/
def keyObj (k : Nat) : Nat := keyTenant k * 2 ^ 32 + keyObject k
/-- The number of an object in the object table. -/
def mkObj (tenant object : Nat) : Nat := tenant * 2 ^ 32 + object
def objTenant (o : Nat) : Nat := o / 2 ^ 32
def objId (o : Nat) : Nat := o % 2 ^ 32
/-- A page key on the wire (R35). -/
def keyBytes (k : Nat) : Bytes := toLe 12 k

/-! ### Status codes (Table 16-1) -/

namespace St
def ok : Nat := 0x00
def okSkipped : Nat := 0x01
def okDuplicate : Nat := 0x02
def lengthInvalid : Nat := 0x10
def fieldInvalid : Nat := 0x11
def formatUnsupported : Nat := 0x12
def noSuchObject : Nat := 0x20
def noSuchPage : Nat := 0x21
def pageCrcMismatch : Nat := 0x22
def uncorrectable : Nat := 0x23
def tierReadFailed : Nat := 0x24
def keyMismatch : Nat := 0x30
def regionRevoked : Nat := 0x31
def tenantMismatch : Nat := 0x32
def busy : Nat := 0x40
def deadlineExpired : Nat := 0x42
def appendConflict : Nat := 0x43
def epochStale : Nat := 0x50
def notOwner : Nat := 0x51
def dieLost : Nat := 0x52
def internal : Nat := 0x60
end St

end Sys2Proof.Machine
end

