-- ==== Sys2Proof/Machine/HostOps.lean ====
section
/-! DEFINITION. Shared operations of the host interface: the host port's queue, CXL.io reads and posted writes,
rings, doorbell reads, commands and their completion, MSI-X (spec 14, 16). -/

namespace Sys2Proof.Machine

/-- Put a transfer in a service's queue of the host port (Table 12-1). -/
def hostPutSub (d : Dev) (service subscriber : Nat) (x : HostXfer) : Dev :=
  (sampleEnq d (portQueue 32 service)).onHif fun h =>
    { h with queue := h.queue ++ [{ service := service, subscriber := subscriber, stamp := d.now, xfer := x }] }

/-- Queue the bytes of an RMA_WRITE from a connection (R309, R295). -/
def hostPutConn (d : Dev) (conn subscriber : Nat) (x : HostXfer) : Dev :=
  (sampleEnq d (portQueue 32 6)).onHif fun h =>
    { h with queue := h.queue ++ [{ service := 6, subscriber := subscriber, stamp := d.now, xfer := x, conn := conn }] }

/-- The same for a transfer that no classified message caused: subscriber 1 (R321). -/
def hostPut (d : Dev) (service : Nat) (x : HostXfer) : Dev := hostPutSub d service 1 x

/-- The CXL protocols run (R388). -/
def Dev.cxlUp (d : Dev) : Bool := d.hif.link == .full && d.ready Config.clover

/-- The node can reach host memory over CXL.io. -/
def Dev.hostUp (d : Dev) : Bool := !(d.hif.link == .down) && d.ready Config.clover

/-- Issue a CXL.io read of host memory (R399, R400). -/
def ioRead (d : Dev) (service : Nat) (p : IoPurpose) (addr len : Nat) : Dev :=
  (hostPut d service (.read d.hif.nextRead addr len)).onHif fun h =>
    { h with reads := h.reads ++ [{ id := h.nextRead, purpose := p, addr := addr, len := len, at_ := d.now }],
             nextRead := h.nextRead + 1 }

/-- A ring by number; 64 is the event ring. -/
def Dev.ring (d : Dev) (n : Nat) : Ring := tget {} d.hif.rings n

/-- Change a ring. -/
def Dev.onRing (d : Dev) (n : Nat) (f : Ring → Ring) : Dev :=
  d.onHif fun h => { h with rings := tmod {} h.rings n f }

/-- The event ring's number. -/
def evtRing : Nat := 64

/-- Entry count of a ring base register's value (Table 21-9). -/
def ringEntries (base : Nat) : Nat := 2 ^ bitsOf base 0 5

/-- Host address of a ring base register's value. -/
def ringAddr (base : Nat) : Nat := base / 4096 * 4096

/-- The phase bit of entry `i` of a ring of `n` entries (R404). -/
def phaseBit (i n : Nat) : Nat := if i / n % 2 = 0 then 1 else 0

/-- A range of host addresses overlaps the HDM window (R401, R406). -/
def inHdmWindow (d : Dev) (addr len : Nat) : Bool :=
  d.hif.committed && decide (addr < d.hif.base + 3298534883328) && decide (d.hif.base < addr + len)

/-- The setup of a ring is valid (R401, R406). -/
def ringValid (d : Dev) (n : Nat) : Bool :=
  let r := d.ring n
  let lb := bitsOf r.base 0 5
  let lc := bitsOf r.cplBase 0 5
  let okDb := !(inHdmWindow d r.dbAddr 64)
  if n = evtRing then
    decide (8 ≤ lb ∧ lb ≤ 16) && !(inHdmWindow d (ringAddr r.base) (64 * 2 ^ lb)) && okDb
  else
    decide (4 ≤ lb ∧ lb ≤ 16) && decide (4 ≤ lc ∧ lc ≤ 16) && !(inHdmWindow d (ringAddr r.base) (64 * 2 ^ lb)) &&
      !(inHdmWindow d (ringAddr r.cplBase) (32 * 2 ^ lc)) && okDb

/-- Read a ring's doorbell line with RdShared (R407). -/
def doorbellReadIssue (d : Dev) (n : Nat) : Dev :=
  (hostPut (count d Config.clover 0x2830 1) 2 (.rdShared (d.ring n).dbAddr)).onRing n fun r => { r with reread := true }

/-- A ring enters ERROR with a cause, with an event record (Table 14-4). -/
def ringError (d : Dev) (n cause : Nat) : Dev :=
  logEv (d.onRing n fun r => { r with state := .error, cause := cause }) 0x0102 Config.clover
    (toLe 1 (if n = evtRing then 0xFF else n) ++ toLe 1 cause)

/-- ENABLE is set on a disabled ring (Table 14-4, R533). -/
def ringEnableOp (d : Dev) (n : Nat) : Dev :=
  if ringValid d n then
    doorbellReadIssue (d.onRing n fun r =>
      { r with enable := true, state := .enabled, head := 0, tail := 0, prod := 0, cons := 0, stopped := false,
               unsignalled := 0, firstAt := 0, lineHeld := false }) n
  else ringError (d.onRing n fun r => { r with enable := true }) n 1

/-- The commands fetched since the last reset of the host interface; earlier ones run without a completion (R415). -/
def Ring.fetched (r : Ring) : List Cmd := r.cmds.filter (·.index / 4294967296 == r.era)

/-- No fetched command of a ring is outstanding. -/
def ringIdle (r : Ring) : Bool := r.fetched.isEmpty

/-- ENABLE is cleared (Table 14-4). -/
def ringDisableOp (d : Dev) (n : Nat) : Dev :=
  d.onRing n fun r =>
    match r.state with
    | .enabled => { r with enable := false, state := .stopping, lineHeld := false }
    | .error =>
      if ringIdle r then { r with enable := false, state := .disabled, lineHeld := false } else { r with enable := false }
    | _ => { r with enable := false }

/-- Every fetched command of a STOPPING or ERROR ring has completed (Table 14-4). -/
def ringDrainedOp (r : Ring) : Ring :=
  match r.state with
  | .stopping => if ringIdle r then { r with state := .disabled } else r
  | .error => if ringIdle r && !r.enable then { r with state := .disabled } else r
  | _ => r

/-- Send an MSI-X message, or mark it pending while the vector is masked (R413). -/
def msiSend (d : Dev) (vector : Nat) : Dev :=
  if tget false d.hif.unmasked vector then hostPut d 2 (.msi vector)
  else d.onHif fun h => { h with msixPending := tput false h.msixPending vector true }

/-- A CXL failure log record, signalled as Set Event Interrupt Policy asks (R413, R449). -/
def cxlFail (d : Dev) (r : CxlRecord) : Dev :=
  match d.evt.policyFailure with
  | some v => msiSend (cxlFailure d r) v
  | none => cxlFailure d r

/-- A CXL warning log record, signalled likewise. -/
def cxlWarn (d : Dev) (r : CxlRecord) : Dev :=
  match d.evt.policyWarning with
  | some v => msiSend (cxlWarning d r) v
  | none => cxlWarning d r

/-- A signalling decision of a ring (R413): `now_` asks for the message at once. -/
def ringSignal (d : Dev) (n : Nat) (now_ : Bool) : Dev :=
  let r := d.ring n
  if 0 < r.unsignalled ∧ (now_ = true ∨ r.irqCount ≤ r.unsignalled ∨ d.due r.firstAt r.irqDelay = true) then
    (msiSend d r.irqVector).onRing n fun r => { r with unsignalled := 0 }
  else d

/-- An entry has been written to a ring: count it as unsignalled. -/
def ringWrote (d : Dev) (n : Nat) : Dev :=
  d.onRing n fun r =>
    { r with prod := m32 (r.prod + 1), unsignalled := r.unsignalled + 1,
             firstAt := if r.unsignalled = 0 then d.now else r.firstAt }

/-! ### Commands -/

/-- The command at an index of a ring. -/
def Dev.cmd (d : Dev) (ring index : Nat) : Option Cmd := (d.ring ring).cmds.find? (·.index == index)

/-- Change a command. -/
def Dev.onCmd (d : Dev) (ring index : Nat) (f : Cmd → Cmd) : Dev :=
  d.onRing ring fun r => { r with cmds := modWhere (·.index == index) f r.cmds }

/-- A command has its outcome. -/
def cmdDone (d : Dev) (ring index status result : Nat) : Dev :=
  d.onCmd ring index fun c => { c with phase := .done, status := status, result := result }

/-- A command fails a check at a descriptor offset (R443). -/
def cmdFail (d : Dev) (ring index status off : Nat) : Dev :=
  d.onCmd ring index fun c => { c with phase := .done, status := status, failOffset := off, result := 0 }

/-- FAIL_OFFSET of a failure for which no field of the descriptor is named: 0xFFFF where no check failed, free where what
failed a check lies in a buffer or in an object's state (R443). -/
def failField (op status : Nat) : Nat :=
  if [St.pageCrcMismatch, St.uncorrectable, St.tierReadFailed, St.deadlineExpired, St.appendConflict, St.epochStale, St.notOwner,
      St.dieLost, St.internal].contains status then 0xFFFF
  else Config.failOffset op status

/-- A command fails at a record of its list. -/
def cmdFailAt (d : Dev) (ring index status rec_ result : Nat) : Dev :=
  d.onCmd ring index fun c =>
    { c with phase := .done, status := status, failIndex := rec_, result := result,
             failOffset := failField (fld c.desc 0 1) status }

/-- A command fails for what it found in a buffer or in the state of an object; the spec names no field for it. -/
def cmdFailState (d : Dev) (ring index status : Nat) : Dev :=
  d.onCmd ring index fun c =>
    { c with phase := .done, status := status, result := 0, failOffset := failField (fld c.desc 0 1) status }

/-- A command with the given opcode that is ready to act, at a ring and index. -/
def Dev.cmdReady (d : Dev) (ring index opcode : Nat) : Option Cmd :=
  match d.cmd ring index with
  | some c => if c.phase == .ready && fld c.desc 0 1 == opcode then some c else none
  | none => none

/-- The bytes of a completion entry (Table 16-3). -/
def completionBytes (c : Cmd) (head phase : Nat) : Bytes :=
  toLe 4 (fld c.desc 4 4) ++ toLe 4 head ++ toLe 1 c.status ++ toLe 1 (fld c.desc 0 1) ++ toLe 2 c.failOffset ++
    toLe 4 c.failIndex ++ toLe 8 c.result ++ zeros 7 ++ toLe 1 phase

/-- Severity of an event record (R445): 2 for UNCORRECTABLE_BURST (spec 16's example); otherwise free, 0 to 2. -/
def severity (code : Nat) : Nat := if code = 0x0202 then 2 else Config.eventSeverity code % 3

/-- The bytes of an event record (Table 16-4). -/
def eventBytes (e : Event) (phase : Nat) : Bytes :=
  toLe 2 e.code ++ toLe 1 (severity e.code) ++ toLe 1 e.die ++ toLe 4 e.seq ++ toLe 8 e.tick ++ toLe 4 e.count ++
    toLe 2 e.tenant ++ toLe 1 e.status ++ toLe 1 e.eflags ++ padTo 39 e.data ++ toLe 1 phase

/-- Post the writes of a command's result data (R399). -/
def postData (d : Dev) (service : Nat) : List (Nat × Bytes) → Dev
  | [] => d
  | (a, b) :: t => postData (hostPut d service (.write a b)) service t

/-- The host interface alone is reset (R415, R529): rings, decoder, MSI-X, doorbells and filters. Waiting node writes
are released; commands not started are discarded, and running ones are left to finish without a completion. -/
def hostReset (d : Dev) : Dev :=
  d.onHif fun h =>
    { h with
      cacheEn := false, memEn := false, committed := false, base := 0, notCommitted := false, cohFailed := false,
      filter := [], backInv := [], hostReads := [], rr := 0, unmasked := [], msixPending := [],
      reads := [], queue := [], pin := none,
      rings := h.rings.map fun p =>
        (p.1, { era := p.2.era + 1, cmds := p.2.cmds.filter fun c => c.phase == .ready || c.phase == .running }) }

/-- R528, R11: a write that has no effect is recorded. -/
def regIgnored (d : Dev) (offset size : Nat) : Dev :=
  logEv d 0x0101 Config.clover (toLe 4 offset ++ toLe 1 size)

/-- BAR0 is served: the host link is up and the Clover die runs (R388, R389). -/
def Dev.bar (d : Dev) : Bool := d.hostUp

end Sys2Proof.Machine
end

