-- ==== Sys2Proof/Machine/Arith.lean ====
section
/-! DEFINITION. Attention arithmetic (spec 03): element formats, directed and nearest rounding from exact values, exp2,
chunk sums, page partials, merges, the merge tree, page bounds. Every value is exact until it is rounded. -/

namespace Sys2Proof.Machine

/-! ### Exact values and rounding -/

/-- The exact value `m` · 2^`e`. -/
structure Dy where
  m : Int
  e : Int
deriving DecidableEq, Repr

/-- A decoded value: finite, an infinity (negative or not), or NaN (R63). -/
inductive EVal where
  | fin (v : Dy) | inf (neg : Bool) | nan
deriving DecidableEq, Repr

/-- A rounding: to nearest even, towards +∞, towards −∞. -/
inductive Rnd where
  | ne | up | down
deriving DecidableEq, Repr

def Dy.mul (a b : Dy) : Dy := ⟨a.m * b.m, a.e + b.e⟩

/-- The exact sum. -/
def Dy.add (a b : Dy) : Dy :=
  if a.e ≤ b.e then ⟨a.m + b.m * 2 ^ (b.e - a.e).toNat, a.e⟩ else ⟨a.m * 2 ^ (a.e - b.e).toNat + b.m, b.e⟩

def Dy.neg (a : Dy) : Dy := ⟨-a.m, a.e⟩

/-- Less than, as real values. -/
def Dy.lt (a b : Dy) : Bool := decide ((Dy.add a (Dy.neg b)).m < 0)

/-- A magnitude rounded up by one unit? `rem` of `2^sh` was cut off; `sticky` stands below every bit. -/
def roundsUp (r : Rnd) (neg : Bool) (q rem sh : Nat) (sticky : Bool) : Bool :=
  match r with
  | .ne =>
    decide (2 ^ sh < 2 * rem) || (decide (0 < sh) && decide (2 * rem = 2 ^ sh) && (sticky || q % 2 == 1))
  | .up => !neg && (decide (0 < rem) || sticky)
  | .down => neg && (decide (0 < rem) || sticky)

/-- Round an exact value to a binary format of `p` significand bits whose least exponent of a last place is `lo` and whose
exponent field has `ew` bits: the bits without the sign, and the sign. -/
def roundBits (r : Rnd) (p : Nat) (lo : Int) (ew : Nat) (neg : Bool) (a : Nat) (e : Int) (sticky : Bool) : Nat :=
  if a = 0 then 0
  else
    let msb : Int := e + Nat.log2 a
    let lsb : Int := max (msb - (p - 1 : Nat)) lo
    let sh : Int := lsb - e
    let q := if sh ≤ 0 then a * 2 ^ (-sh).toNat else a / 2 ^ sh.toNat
    let rem := if sh ≤ 0 then 0 else a % 2 ^ sh.toNat
    let q := if roundsUp r neg q rem sh.toNat sticky then q + 1 else q
    let bits := (lsb - lo).toNat * 2 ^ (p - 1) + q
    let top := (2 ^ ew - 1) * 2 ^ (p - 1)
    if bits < top then bits
    else
      match r with
      | .ne => top
      | .up => if neg then top - 1 else top
      | .down => if neg then top else top - 1

/-- Round to FP32; a zero result is +0 (R76). -/
def toF32s (r : Rnd) (v : Dy) (sticky : Bool) : F32 :=
  let neg := decide (v.m < 0)
  let b := roundBits r 24 (-149) 8 neg v.m.natAbs v.e sticky
  if v.m = 0 then 0 else BitVec.ofNat 32 (b + if neg then 2 ^ 31 else 0)

def toF32 (r : Rnd) (v : Dy) : F32 := toF32s r v false

/-- Round to BF16 (R46); a zero result is 0x0000. -/
def toBF16 (r : Rnd) (v : Dy) : Nat :=
  let neg := decide (v.m < 0)
  let b := roundBits r 8 (-133) 8 neg v.m.natAbs v.e false
  if b = 0 then 0 else b + if neg then 2 ^ 15 else 0

/-- Decode a float with `mb` mantissa bits, `eb` exponent bits and bias `bias` (R63); `ieee` gives infinities and NaN at
the top exponent. -/
def decodeFloat (eb mb : Nat) (bias : Int) (ieee : Bool) (x : Nat) : EVal :=
  let man := bitsOf x 0 mb
  let ex := bitsOf x mb eb
  let neg := bitOf x (mb + eb)
  if ieee && ex == 2 ^ eb - 1 then (if man = 0 then .inf neg else .nan)
  else
    let a : Int := if ex = 0 then man else man + 2 ^ mb
    .fin ⟨if neg then -a else a, (if ex = 0 then 1 else (ex : Int)) - bias - mb⟩

/-- FP32 bits as a value. -/
def f32 (x : F32) : EVal := decodeFloat 8 23 127 true x.toNat

/-- The finite value of FP32 bits; 0 for the others. -/
def f32d (x : F32) : Dy := match f32 x with | .fin v => v | _ => ⟨0, 0⟩

def f32Finite (x : F32) : Bool := match f32 x with | .fin _ => true | _ => false

/-- An element of a format of Table 02-2, without its block scale (Table 03-1). -/
def decodeElem (fmt x : Nat) : EVal :=
  match fmt with
  | 0 => decodeFloat 8 7 127 true x
  | 1 => decodeFloat 5 10 15 true x
  | 2 | 4 => if x % 128 = 127 then .nan else decodeFloat 4 3 7 false x
  | 3 => decodeFloat 5 2 15 true x
  | 5 => decodeFloat 2 3 1 false x
  | 6 => decodeFloat 3 2 3 false x
  | _ => decodeFloat 2 1 1 false x

/-- An E8M0 scale (Table 03-2). -/
def decodeScale (x : Nat) : EVal := if x = 255 then .nan else .fin ⟨1, (x : Int) - 127⟩

/-- An element times its block scale (R64). -/
def scaled (v s : EVal) : EVal :=
  match v, s with
  | .fin a, .fin b => .fin (Dy.mul a b)
  | .inf n, .fin _ => .inf n
  | _, _ => .nan

/-! ### FP32 steps on finite operands -/

def fadd (r : Rnd) (a b : F32) : F32 := toF32 r (Dy.add (f32d a) (f32d b))
def fsub (r : Rnd) (a b : F32) : F32 := toF32 r (Dy.add (f32d a) (Dy.neg (f32d b)))
def fmul (r : Rnd) (a b : F32) : F32 := toF32 r (Dy.mul (f32d a) (f32d b))
def flt (a b : F32) : Bool := Dy.lt (f32d a) (f32d b)
/-- The larger of two finite values. +0 equals −0, so a tie of zeros keeps the bits of the first (DESIGN CHOICE,
notes/assumptions/107.md). -/
def fmax (a b : F32) : F32 := if flt a b then b else a

def f32One : F32 := 0x3F800000
def f32NaN : F32 := 0x7FC00000
def f32NegInf : F32 := 0xFF800000
def f32Inf : F32 := 0x7F800000

/-! ### exp2 (R71, R72) -/

/-- The largest `q` in a range, found bit by bit from 2^23 on, with (2q − 1)^256 ≤ 2^(6144 + j). -/
def exp2Search (j : Nat) : Nat → Nat → Nat
  | 0, q => q
  | b + 1, q => exp2Search j b (if (2 * (q + 2 ^ b) - 1) ^ 256 ≤ 2 ^ (6144 + j) then q + 2 ^ b else q)

/-- tab[j]: 2^(j/256) rounded to nearest FP32 (R72). -/
def exp2Tab (j : Nat) : F32 := BitVec.ofNat 32 (0x3F000000 + exp2Search j 23 8388608)

def exp2c1 : F32 := 0x3F317218
def exp2c2 : F32 := 0x3E75FDF0

/-- exp2 of an FP32 argument at most 0; −∞ and every argument below −126 give +0 (R71). -/
def exp2 (x : F32) : F32 :=
  match f32 x with
  | .fin v =>
    if Dy.lt v ⟨-126, 0⟩ then 0
    else
      let k := (-v.e).toNat
      let scale : Int := 2 ^ k
      let num : Int := if 0 ≤ v.e then v.m * 2 ^ v.e.toNat else v.m
      let den : Int := if 0 ≤ v.e then 1 else scale
      let n : Int := num / den
      let f : Int := num - n * den
      let j : Int := f * 256 / den
      let r : Dy := ⟨f * 256 - j * den, (if 0 ≤ v.e then 0 else v.e) - 8⟩
      let u := toF32 .ne (Dy.mul (f32d exp2c2) r)
      let u := fadd .ne u exp2c1
      let u := toF32 .ne (Dy.mul (f32d u) r)
      let u := fadd .ne u f32One
      let y := fmul .ne (exp2Tab j.toNat) u
      toF32 .ne (Dy.mul (f32d y) ⟨1, n⟩)
  | _ => 0

/-- exp2 raised by 4 units in the last place; 2^−126 below −126 (R78). -/
def exp2up (x : F32) : F32 :=
  match f32 x with
  | .fin v => if Dy.lt v ⟨-126, 0⟩ then 0x00800000 else exp2 x + 4
  | _ => 0x00800000

/-! ### Non-negative sums rounded up, with infinities -/

def addUp (a b : F32) : F32 := if a = f32Inf ∨ b = f32Inf then f32Inf else fadd .up a b
def mulUp (a b : F32) : F32 := if a = f32Inf ∨ b = f32Inf then f32Inf else fmul .up a b

/-! ### Scores (R67 to R69) -/

/-- floor(log2 |P|) of a non-zero product. -/
def Dy.log (v : Dy) : Int := v.e + Nat.log2 v.m.natAbs

/-- The largest of a list, from a first value. -/
def maxInt (l : List Int) (a : Int) : Int := l.foldl max a

/-- The value of one chunk from its exact products and its block scale (R68). -/
def chunkValue (ps : List Dy) (scale : Dy) : F32 :=
  let nz := ps.filter (·.m != 0)
  match nz with
  | [] => 0
  | p :: _ =>
    let lsb := maxInt (nz.map Dy.log) (Dy.log p) - 47
    let part := fun (v : Dy) =>
      if lsb ≤ v.e then (v.m.natAbs * 2 ^ (v.e - lsb).toNat, false)
      else (v.m.natAbs / 2 ^ (lsb - v.e).toNat, decide (v.m.natAbs % 2 ^ (lsb - v.e).toNat ≠ 0))
    let s : Int := (nz.map fun v => if v.m < 0 then -((part v).1 : Int) else ((part v).1 : Int)).sum
    let sticky := nz.any fun v => (part v).2
    if s = 0 then 0 else toF32s .ne (Dy.mul ⟨s, lsb⟩ scale) sticky

/-- A step's result and whether some step overflowed so far (R549): none for a non-finite result. -/
abbrev Step32 := Option F32 × Bool

/-- A rounding whose inputs are finite. -/
def stepOf (x : F32) (ovf : Bool) : Step32 := if f32Finite x then (some x, ovf) else (none, true)

/-- acc over the chunk values, then the score (R69, R549). -/
def scoreOf (chunks : List Step32) (scale : F32) : Step32 :=
  let ovf := chunks.any (·.2)
  let acc := match chunks with
    | [] => (some 0, ovf)
    | c :: cs => cs.foldl (fun (a : Step32) (c : Step32) =>
        match a.1, c.1 with
        | some x, some y => stepOf (fadd .ne x y) a.2
        | _, _ => (none, a.2)) (c.1, ovf)
  match acc.1 with
  | some x => stepOf (fmul .ne x scale) acc.2
  | none => (none, acc.2)

/-- One token as a row sees it: its slot, the K elements and V elements of the row's head, and the block scales. -/
structure Token where
  k : List EVal
  kScale : List EVal
  v : List EVal
deriving DecidableEq, Repr

def EVal.dy (v : EVal) : Dy := match v with | .fin x => x | _ => ⟨0, 0⟩
def EVal.ok (v : EVal) : Bool := match v with | .fin _ => true | _ => false

/-- Consecutive groups of 32 (R66, chunks). -/
def groups32 {α : Type} : Nat → List α → List (List α)
  | 0, _ => []
  | n + 1, l => l.take 32 :: groups32 n (l.drop 32)

/-- The chunks of one row and one token (R68); a chunk with a non-finite operand has no value. -/
def chunksFor (q : List EVal) (t : Token) : List Step32 :=
  let n := q.length / 32
  (List.zip (List.zip (groups32 n q) (groups32 n t.k)) t.kScale).map fun p =>
    if p.1.1.all EVal.ok && p.1.2.all EVal.ok && EVal.ok p.2 then
      stepOf (chunkValue (List.zipWith (fun a b => Dy.mul a.dy b.dy) p.1.1 p.1.2) p.2.dy) false
    else (none, false)

/-! ### Partials (R73 to R77, R549) -/

/-- Table 03-4. -/
def flagBits (nonfinite overflow : Bool) : Nat := b2n nonfinite + 2 * b2n overflow

/-- The empty partial (R74). -/
def emptyPartial (dim : Nat) : Partial :=
  { m := f32NegInf, l := 0, count := 0, bound := 0, o := List.replicate dim 0, flags := 0 }

/-- A NaN partial (R75). -/
def nanPartial (dim count flags : Nat) : Partial :=
  { m := f32NaN, l := f32NaN, count := count, bound := f32NaN, o := List.replicate dim f32NaN, flags := flags }

def Partial.isNaN (p : Partial) : Bool := p.m == f32NaN
def Partial.isEmpty (p : Partial) : Bool := p.m == f32NegInf

/-- Value phase of one row (R73 step 3): l, every o_j (none once it is not finite), and whether a step overflowed. -/
def valuePhase (m : F32) : List (F32 × Token) → F32 → List (Option F32) → Bool → F32 × List (Option F32) × Bool
  | [], l, o, ovf => (l, o, ovf)
  | (s, t) :: rest, l, o, ovf =>
    let p := exp2 (fsub .ne s m)
    let l := fadd .ne l p
    let step := fun (a : Option F32) (v : EVal) =>
      match a with
      | none => ((none : Option F32), false)
      | some x =>
        match v with
        | .fin w =>
          let r := toF32 .ne (Dy.add (f32d x) (Dy.mul (f32d p) w))
          if f32Finite r then (some r, false) else (none, true)
        | _ => (none, false)
    let o' := List.zipWith step o t.v
    valuePhase m rest l (o'.map (·.1)) (ovf || o'.any (·.2))

/-- The partial of a row over the included tokens of a page, in ascending slot order (R73, R75, R549). -/
def pagePartial (q : List EVal) (scale : F32) (ts : List Token) : Partial :=
  let dim := q.length
  match ts with
  | [] => emptyPartial dim
  | _ =>
    let scores := ts.map fun t => scoreOf (chunksFor q t) scale
    let nonfinite := q.any (!EVal.ok ·) ||
      ts.any fun t => t.k.any (!EVal.ok ·) || t.kScale.any (!EVal.ok ·) || t.v.any (!EVal.ok ·)
    let ovf := scores.any (·.2)
    if scores.any (·.1.isNone) then nanPartial dim ts.length (flagBits nonfinite ovf)
    else
      let ss := scores.map fun s => s.1.getD 0
      let m := match ss with
        | [] => 0
        | s :: r => r.foldl fmax s
      let (l, o, ovf) := valuePhase m (List.zip ss ts) 0 (List.replicate dim (some 0)) ovf
      if nonfinite || o.any Option.isNone || !(f32Finite l) then nanPartial dim ts.length (flagBits nonfinite ovf)
      else { m := m, l := l, count := ts.length, bound := 0, o := o.map (·.getD 0), flags := 0 }

/-- Merge a left and a right partial (R78, R79). -/
def mergePartial (a b : Partial) : Partial :=
  let dim := max a.o.length b.o.length
  if a.isNaN || b.isNaN then nanPartial dim (a.count + b.count) (a.flags ||| b.flags)
  else if a.isEmpty then b
  else if b.isEmpty then a
  else
    let m := fmax a.m b.m
    let a1 := exp2 (fsub .ne a.m m)
    let a2 := exp2 (fsub .ne b.m m)
    let join := fun x y => fadd .ne (fmul .ne x a1) (fmul .ne y a2)
    let l := join a.l b.l
    let o := List.zipWith join a.o b.o
    let c := a.count + b.count
    if !(f32Finite l) || o.any (!f32Finite ·) then nanPartial dim c (a.flags ||| b.flags ||| 2)
    else
      let b1 := exp2up (fsub .up a.m m)
      let b2 := exp2up (fsub .up b.m m)
      { m := m, l := l, count := c, bound := addUp (mulUp a.bound b1) (mulUp b.bound b2), o := o,
        flags := a.flags ||| b.flags }

/-- Fold partials from the left (R80). -/
def foldPartials (dim : Nat) : List Partial → Partial
  | [] => emptyPartial dim
  | p :: ps => ps.foldl mergePartial p

/-- The value of tree node (k, i) from the partials of page groups (R81). -/
def treeValue (dim : Nat) (group : Nat → Partial) : Nat → Nat → Partial
  | 0, i => group i
  | k + 1, i => mergePartial (treeValue dim group k (2 * i)) (treeValue dim group k (2 * i + 1))

/-- The level of the maximal aligned tree node that starts at group `g` and ends by group `b` (R83). -/
def alignedLevel (g b : Nat) : Nat → Nat → Nat
  | 0, k => k
  | n + 1, k =>
    if k < 14 ∧ g % 2 ^ (k + 1) = 0 ∧ g + 2 ^ (k + 1) - 1 ≤ b then alignedLevel g b n (k + 1) else k

/-- The decomposition of a run of page groups into tree nodes (R83). -/
def decompose (b : Nat) : Nat → Nat → List (Nat × Nat)
  | 0, _ => []
  | n + 1, g =>
    if b < g then []
    else
      let k := alignedLevel g b 14 0
      (k, g / 2 ^ k) :: decompose b n (g + 2 ^ k)

/-- Maximal runs of consecutive numbers of an ascending list: first and last. -/
def runsOf : List Nat → List (Nat × Nat)
  | [] => []
  | g :: gs =>
    match runsOf gs with
    | [] => [(g, g)]
    | (a, b) :: rest => if g + 1 = a then (g, b) :: rest else (g, g) :: (a, b) :: rest

/-- The tree nodes of a die's range (R83). -/
def decomposeAll (gs : List Nat) : List (Nat × Nat) :=
  (runsOf gs).flatMap fun r => decompose r.2 (r.2 - r.1 + 1) r.1

/-! ### Bounded mode (R87, R89) -/

/-- A sum rounded towards +∞ whose terms may be +∞. -/
def sumUp (a b : F32) : F32 := if a = f32Inf ∨ b = f32Inf then f32Inf else fadd .up a b

/-- The page bound of a row from its query and the summary entries (KMAX, KMIN) of its head (R87). -/
def pageBound (q : List EVal) (scale : F32) (sm : List (EVal × EVal)) : F32 :=
  if q.any (!EVal.ok ·) || sm.any (fun p => !(p.1.ok) || !(p.2.ok)) then f32Inf
  else
    let term := fun (x : EVal) (p : EVal × EVal) =>
      let a := Dy.mul x.dy p.1.dy
      let b := Dy.mul x.dy p.2.dy
      toF32 .up (if Dy.lt a b then b else a)
    let s := (List.zipWith term q sm).foldl sumUp 0
    if s = f32Inf then f32Inf else fmul .up s scale

/-- Less than, with +∞ above everything. -/
def boundLt (a b : F32) : Bool :=
  if a = f32Inf then false else if b = f32Inf then true else if a = f32NegInf then b != f32NegInf
  else if b = f32NegInf then false else flt a b

/-- R of R89 over the pages that take part: counts of included tokens and page bounds, ascending page index. -/
def skipMass (m : F32) : List (Nat × F32) → F32 → F32
  | [], r => r
  | (n, b) :: rest, r =>
    skipMass m rest (addUp r (toF32 .up (Dy.mul ⟨n, 0⟩ (f32d (exp2up (fsub .up b m))))))

/-- A row is satisfied (R89), and its skipped-mass bound if the die stops now (R90). -/
def rowTest (eps : F32) (p : Partial) (left : List (Nat × F32)) : Bool × F32 :=
  if p.isNaN then (true, f32NaN)
  else if left.isEmpty then (true, 0)
  else if left.any fun x => boundLt p.m x.2 then (false, 0)
  else
    let r := skipMass p.m left 0
    (!(boundLt (fmul .down eps p.l) r), r)

end Sys2Proof.Machine
end

