-- ==== Sys2Proof/Machine/Image.lean ====
section
/-! DEFINITION. Page geometry, page images, lossless compression and the expanders' checks (spec 02, 05). -/

namespace Sys2Proof.Machine

/-- An object's geometry but for its layer count (R30). -/
structure Geom where
  fmt : Nat
  tCode : Nat
  hkv : Nat
  dCode : Nat
deriving DecidableEq, Repr

def Geom.T (g : Geom) : Nat := 16 * 2 ^ g.tCode
def Geom.D (g : Geom) : Nat := [64, 96, 128, 160, 192, 256].getD g.dCode 0
/-- Element bits w (Table 02-2). -/
def Geom.w (g : Geom) : Nat := [16, 16, 8, 8, 8, 6, 6, 4].getD g.fmt 0
/-- MX format: s = 1. -/
def Geom.mx (g : Geom) : Bool := decide (4 ≤ g.fmt)

/-- Bytes of one head's elements of one token. -/
def Geom.headBytes (g : Geom) : Nat := g.D * g.w / 8
/-- Scale bytes of one head of one token. -/
def Geom.headScales (g : Geom) : Nat := if g.mx then g.D / 32 else 0
/-- Element region and scale region lengths (R34). -/
def Geom.elemRegion (g : Geom) : Nat := g.T * g.hkv * g.headBytes
def Geom.scaleRegion (g : Geom) : Nat := g.T * g.hkv * g.headScales
/-- Raw payload size (spec 02, Page geometry). -/
def Geom.raw (g : Geom) : Nat := 2 * (g.elemRegion + g.scaleRegion)
/-- Bytes of one token (R126). -/
def Geom.tokenBytes (g : Geom) : Nat := 2 * g.hkv * (g.headBytes + g.headScales)
/-- Size of a growing image, and its frames (R160). -/
def Geom.growing (g : Geom) : Nat := 128 + g.raw + 4 * g.T
def framesFor (n : Nat) : Nat := (n + 4095) / 4096
def Geom.growFrames (g : Geom) : Nat := framesFor g.growing
/-- Frames of the seal reservation (R160). -/
def Geom.sealFrames (g : Geom) : Nat := framesFor (128 + 4 * g.hkv * g.D + g.raw)
/-- Page indices of an object (Table 02-1). -/
def Geom.pages (g : Geom) : Nat := (if g.tCode = 0 then 4194304 else if g.tCode = 1 then 8388608 else 16777216) / g.T

/-- Codes are defined and the limits of Table 02-1 and R33 hold; the status of the first failure in R30's order. -/
def geomCheck (fmtByte tCode hkv dCode layers : Nat) : Option Nat :=
  let g : Geom := ⟨fmtByte, tCode, hkv, dCode⟩
  firstFail [(decide (fmtByte < 16), St.fieldInvalid), (decide (fmtByte < 8), St.formatUnsupported),
    (hkv != 255, St.lengthInvalid),
    (decide (tCode ≤ 3 ∧ 1 ≤ hkv ∧ hkv ≤ 16 ∧ dCode ≤ 5 ∧ 1 ≤ layers ∧ layers ≤ 256), St.fieldInvalid),
    (decide (g.raw ≤ 262144), St.fieldInvalid)]

/-! ### Tokens in the raw payload (R34, R40) -/

/-- Where a token's bytes lie in the raw payload: offset and length, in region order and head order. -/
def tokenPieces (g : Geom) (t : Nat) : List (Nat × Nat) :=
  let half := fun (base : Nat) =>
    (List.range g.hkv).map (fun h => (base + (h * g.T + t) * g.headBytes, g.headBytes)) ++
      (if g.mx then (List.range g.hkv).map fun h => (base + g.elemRegion + (h * g.T + t) * g.headScales, g.headScales)
       else [])
  half 0 ++ half (g.elemRegion + g.scaleRegion)

/-- The bytes of a token in a raw payload. -/
def tokenAt (g : Geom) (raw : Bytes) (t : Nat) : Bytes := (tokenPieces g t).flatMap fun p => cut raw p.1 p.2

/-- The pieces of a token paired with their bytes. -/
def tokenSplit : List (Nat × Nat) → Bytes → List (Nat × Bytes)
  | [], _ => []
  | (o, n) :: ps, b => (o, b.take n) :: tokenSplit ps (b.drop n)

/-- A raw payload as its elements: those of head `h`, slot `t` (K or V), and its block scales. -/
def elemAt (g : Geom) (region : Bytes) (i : Nat) : Nat :=
  if g.w = 16 then fld region (2 * i) 2 else bitsOf (fld region (g.w * i / 8) 2) (g.w * i % 8) g.w

/-- The elements of one head of one token, cut out of its region first. -/
def headElems (g : Geom) (raw : Bytes) (v : Bool) (h t : Nat) : List EVal :=
  let base := if v then g.elemRegion + g.scaleRegion else 0
  let b := cut raw (base + (h * g.T + t) * g.headBytes) g.headBytes
  (List.range g.D).map fun j => decodeElem g.fmt (elemAt g b j)

/-- The block scales of one head of one token; 1 for formats without scales. -/
def headScaleVals (g : Geom) (raw : Bytes) (v : Bool) (h t : Nat) : List EVal :=
  let base := (if v then g.elemRegion + g.scaleRegion else 0) + g.elemRegion
  (List.range (g.D / 32)).map fun c =>
    if g.mx then decodeScale (fld raw (base + (h * g.T + t) * g.headScales + c) 1) else .fin ⟨1, 0⟩

/-- Elements times their block scales (R64). -/
def scaledElems (es ss : List EVal) : List EVal :=
  (List.zip (groups32 ss.length es) ss).flatMap fun p => p.1.map fun e => scaled e p.2

/-- A token of a page as rows of head `h` see it. -/
def tokenOf (g : Geom) (raw : Bytes) (h t : Nat) : Token :=
  { k := headElems g raw false h t, kScale := headScaleVals g raw false h t,
    v := if g.mx then scaledElems (headElems g raw true h t) (headScaleVals g raw true h t) else headElems g raw true h t }

/-! ### Headers (Table 02-5) -/

/-- The fields of a page header. -/
structure Hdr where
  key : Nat
  g : Geom
  valid : Nat
  flags : Nat
  crc : Nat
  stored : Nat
  planes : List Nat
  tableLoc : Nat
  summaryLoc : Nat
  epoch : Nat
deriving DecidableEq, Repr

def hdrBytes (h : Hdr) : Bytes :=
  keyBytes h.key ++ toLe 1 h.g.fmt ++ toLe 1 h.g.tCode ++ toLe 1 h.g.hkv ++ toLe 1 h.g.dCode ++ toLe 2 h.valid ++
    toLe 1 h.flags ++ toLe 1 1 ++ toLe 4 h.crc ++ toLe 4 h.g.raw ++ toLe 4 h.stored ++ h.planes.flatMap (toLe 4) ++
    toLe 4 h.tableLoc ++ toLe 4 h.summaryLoc ++ toLe 4 h.epoch ++ zeros 60

/-- Read the fields of an image's header. -/
def readHdr (b : Bytes) : Hdr :=
  { key := fld b 0 12, g := ⟨fld b 0xC 1, fld b 0xD 1, fld b 0xE 1, fld b 0xF 1⟩, valid := fld b 0x10 2,
    flags := fld b 0x12 1, crc := fld b 0x14 4, stored := fld b 0x1C 4,
    planes := (List.range 6).map fun i => fld b (0x20 + 4 * i) 4, tableLoc := fld b 0x38 4, summaryLoc := fld b 0x3C 4,
    epoch := fld b 0x40 4 }

/-- The header of a growing image (Table 02-5). -/
def growHdr (g : Geom) (key valid epoch : Nat) : Hdr :=
  { key := key, g := g, valid := valid, flags := 0, crc := 0, stored := g.growing, planes := List.replicate 6 0,
    tableLoc := 0, summaryLoc := 0, epoch := epoch }

/-- Defined codes and zero reserved fields of a header (R42). -/
def hdrCodesOk (b : Bytes) : Bool :=
  let h := readHdr b
  (geomCheck h.g.fmt h.g.tCode h.g.hkv h.g.dCode 1).isNone && decide (h.flags < 8) && fld b 0x13 1 == 1 &&
    fld b 0x18 4 == h.g.raw && decide (h.key < 2 ^ 74) && allZero (cut b 0x44 60) &&
    h.planes.all fun p => decide (p < 2 ^ 25)

/-- The header of a growing image holds (R42). -/
def growHdrOk (b : Bytes) : Bool :=
  let h := readHdr b
  decide (128 ≤ b.length) && hdrCodesOk b && decide (h.valid ≤ h.g.T) && h.flags == 0 && h.crc == 0 &&
    h.stored == h.g.growing && h.planes.all (· == 0) && h.tableLoc == 0 && h.summaryLoc == 0

/-- Raw payload of a growing image. -/
def growRaw (g : Geom) (img : Bytes) : Bytes := cut img 128 g.raw

/-- Entry `t` of the token CRC array is right (R40). -/
def tokenCrcOk (g : Geom) (img : Bytes) (t : Nat) : Bool :=
  crc32c (tokenAt g (growRaw g img) t) == fld img (128 + g.raw + 4 * t) 4

/-- Every token below a count checks. -/
def tokenCrcsOk (g : Geom) (img : Bytes) (n : Nat) : Bool := (List.range n).all (tokenCrcOk g img)

/-! ### Planes (R133) -/

/-- Bytes at even, or odd, positions. -/
def everyOther : Bytes → Bytes
  | [] => []
  | [a] => [a]
  | a :: _ :: r => a :: everyOther r

/-- The six planes of a raw payload, in slot order; an unused slot is empty. -/
def planesOf (g : Geom) (raw : Bytes) : List Bytes :=
  let half := fun (base : Nat) =>
    let e := cut raw base g.elemRegion
    let s := cut raw (base + g.elemRegion) g.scaleRegion
    if g.w = 16 then [everyOther e, everyOther (e.drop 1), []] else [e, [], s]
  half 0 ++ half (g.elemRegion + g.scaleRegion)

/-- Plane lengths L by slot (Table 05-1). -/
def planeLens (g : Geom) : List Nat :=
  let half := if g.w = 16 then [g.elemRegion / 2, g.elemRegion / 2, 0] else [g.elemRegion, 0, g.scaleRegion]
  half ++ half

/-- Interleave two planes into elements of 2 bytes. -/
def interleave : Bytes → Bytes → Bytes
  | a :: as, b :: bs => a :: b :: interleave as bs
  | _, _ => []

/-- A raw payload from its six planes. -/
def rawOf (g : Geom) (ps : List Bytes) : Bytes :=
  let half := fun i => if g.w = 16 then interleave (ps.getD i []) (ps.getD (i + 1) []) else ps.getD i [] ++ ps.getD (i + 2) []
  half 0 ++ half 3

/-! ### Code lengths (R135) -/

/-- A node of the Huffman construction: weight, key, and the depth of each leaf below it. -/
abbrev HNode := Nat × Nat × List (Nat × Nat)

/-- Insert by (weight, key). -/
def hInsert (n : HNode) : List HNode → List HNode
  | [] => [n]
  | m :: t => if n.1 < m.1 ∨ (n.1 = m.1 ∧ n.2.1 < m.2.1) then n :: m :: t else m :: hInsert n t

/-- Join until one node remains; `j` joins have been made. -/
def hJoin : Nat → Nat → List HNode → List (Nat × Nat)
  | 0, _, _ => []
  | _ + 1, _, [] => []
  | _ + 1, _, [n] => n.2.2
  | f + 1, j, a :: b :: t =>
    hJoin f (j + 1) (hInsert (a.1 + b.1, 256 + j, (a.2.2 ++ b.2.2).map fun p => (p.1, p.2 + 1)) t)

/-- Occurrences of each byte value. -/
def histogram (p : Bytes) : List Nat := (List.range 256).map fun v => p.count (BitVec.ofNat 8 v)

/-- Is symbol `a` (length, count, value) preferred to `b` for lengthening? -/
def lengthenBefore (a b : Nat × Nat × Nat) : Bool :=
  decide (b.1 < a.1) || (a.1 == b.1 && (decide (a.2.1 < b.2.1) || (a.2.1 == b.2.1 && decide (a.2.2 < b.2.2))))

/-- The symbol to lengthen. -/
def lengthenPick : List (Nat × Nat × Nat) → Option (Nat × Nat × Nat)
  | [] => none
  | a :: l => match lengthenPick l with
    | none => some a
    | some b => if lengthenBefore b a then some b else some a

/-- Step 5 of R135: symbols as (length, count, value), and the excess X. -/
def limitLens : Nat → Int → List (Nat × Nat × Nat) → List (Nat × Nat × Nat)
  | 0, _, l => l
  | f + 1, x, l =>
    if x ≤ 0 then l
    else
      match lengthenPick (l.filter fun s => decide (s.1 < 12)) with
      | none => l
      | some s =>
        limitLens f (x - (2 ^ (11 - s.1) : Nat)) (l.map fun u => if u.2.2 = s.2.2 then (u.1 + 1, u.2.1, u.2.2) else u)

/-- The code length of each of the 256 symbols of a plane (R135). -/
def codeLengths (p : Bytes) : List Nat :=
  let h := histogram p
  let pres := (List.range 256).filter fun v => decide (h.getD v 0 ≠ 0)
  match pres with
  | [v] => (List.range 256).map fun u => if u = v then 1 else 0
  | _ =>
    let nodes := pres.foldl (fun l v => hInsert (h.getD v 0, v, [(v, 0)]) l) []
    let lens := hJoin 256 0 nodes
    let syms := lens.map fun s => (min s.2 12, h.getD s.1 0, s.1)
    let x : Int := ((syms.map fun s => 2 ^ (12 - s.1)).sum : Nat) - 4096
    let out := if lens.any fun s => decide (12 < s.2) then limitLens 4096 x syms else syms
    (List.range 256).map fun u => match out.find? fun s => s.2.2 == u with
      | some s => s.1
      | none => 0

/-! ### Canonical codes (R136) -/

/-- Symbols in canonical order: ascending length, then value. -/
def canonical (lens : List Nat) : List (Nat × Nat) :=
  (List.range 12).flatMap fun k => ((List.range 256).filter fun v => lens.getD v 0 == k + 1).map fun v => (v, k + 1)

/-- Number of codes of each length. -/
def lenCount (lens : List Nat) (k : Nat) : Nat := lens.count k

/-- First code of each length (R136). -/
def firstCode (lens : List Nat) : Nat → Nat
  | 0 => 0
  | 1 => 0
  | k + 1 => (firstCode lens k + lenCount lens k) * 2

/-- Position of each length's first symbol in the canonical order. -/
def firstPos (lens : List Nat) (k : Nat) : Nat := ((List.range k).map fun j => if j = 0 then 0 else lenCount lens j).sum

/-- The code of a symbol as bits, most significant first. -/
def codeBits (lens : List Nat) : Tab (List Bool) :=
  let c := canonical lens
  let firsts := (List.range 13).map (firstCode lens)
  let poss := (List.range 13).map (firstPos lens)
  ((List.range c.length).map fun i =>
    let s := c.getD i (0, 1)
    let code := firsts.getD s.2 0 + (i - poss.getD s.2 0)
    (s.1, ((List.range s.2).map fun b => bitOf code (s.2 - 1 - b)))).foldl (fun t p => tins t p.1 p.2) []

/-- Bits fill each byte from bit 0 (R140). -/
def packBits : Nat → List Bool → Bytes
  | 0, _ => []
  | n + 1, l =>
    match l with
    | [] => []
    | _ =>
      let b := l.take 8
      BitVec.ofNat 8 (ofBits ((List.range b.length).filter fun i => b.getD i false)) :: packBits n (l.drop 8)

/-- Consecutive segments of 2,048 bytes. -/
def segmentsOf : Nat → Bytes → List Bytes
  | 0, _ => []
  | n + 1, b => match b with
    | [] => []
    | _ => b.take 2048 :: segmentsOf n (b.drop 2048)

/-- A code table (R137). -/
def codeTable (lens : List Nat) : Bytes :=
  (List.range 128).map fun k => BitVec.ofNat 8 (lens.getD (2 * k) 0 + 16 * lens.getD (2 * k + 1) 0)

/-- Code lengths from a code table. -/
def tableLens (t : Bytes) : List Nat := t.flatMap fun b => [b.toNat % 16, b.toNat / 16]

/-- A coded plane: its code table and its stored bytes (R139, R140). -/
def encodePlane (p : Bytes) : Bytes × Bytes :=
  let lens := codeLengths p
  let codes := codeBits lens
  let segs := (segmentsOf (p.length / 2048 + 1) p).map fun s =>
    packBits (s.length * 2) (s.flatMap fun b => tget [] codes b.toNat)
  (codeTable lens, segs.flatMap (fun s => toLe 2 s.length) ++ segs.flatten)

/-- An element plane is coded when that is smaller (R142); the scale planes, slots 2 and 5, never are (R134). -/
def planeCoded (slot : Nat) (p : Bytes) (c : Bytes × Bytes) : Bool :=
  slot != 2 && slot != 5 && !p.isEmpty && decide (128 + c.2.length < p.length)

/-! ### The summary block (R46) -/

/-- Is value `a` below `b`, with infinities? -/
def evLt (a b : EVal) : Bool :=
  match a, b with
  | .fin x, .fin y => Dy.lt x y
  | .inf n, .inf m => n && !m
  | .inf n, _ => n
  | _, .inf n => !n
  | _, _ => false

/-- KMAX and KMIN of the values of one (h, j). -/
def summaryEntry (vs : List EVal) : Nat × Nat :=
  if vs.any (fun v => v == .nan) then (0x7FC0, 0x7FC0)
  else
    match vs with
    | [] => (0, 0)
    | v :: r =>
      let hi := r.foldl (fun a b => if evLt a b then b else a) v
      let lo := r.foldl (fun a b => if evLt b a then b else a) v
      let enc := fun (m : Rnd) (x : EVal) => match x with
        | .fin d => toBF16 m d
        | .inf n => if n then 0xFF80 else 0x7F80
        | .nan => 0x7FC0
      (enc .up hi, enc .down lo)

/-- Decoded K values of one head of one token, scaled. -/
def kVals (g : Geom) (raw : Bytes) (h t : Nat) : List EVal :=
  let es := headElems g raw false h t
  if g.mx then scaledElems es (headScaleVals g raw false h t) else es

/-- The summary block, and whether some K element is not finite. -/
def summaryBlock (g : Geom) (raw : Bytes) : Bytes × Bool :=
  let heads := (List.range g.hkv).map fun h => (List.range g.T).map fun t => kVals g raw h t
  let body := heads.flatMap fun rows => (List.range g.D).flatMap fun j =>
    let e := summaryEntry (rows.map fun r => r.getD j .nan)
    toLe 2 e.1 ++ toLe 2 e.2
  (body, heads.any fun rows => rows.any fun r => r.any fun v => !v.ok)

/-! ### Sealing (R44, R45, R53, R54) -/

/-- The sealed image of a raw payload. -/
def sealImage (g : Geom) (key epoch : Nat) (raw : Bytes) : Bytes :=
  let ps := planesOf g raw
  let cs := ps.map encodePlane
  let slot := fun i => (ps.getD i [], cs.getD i ([], []), planeCoded i (ps.getD i []) (cs.getD i ([], [])))
  let slots := (List.range 6).map slot
  let coded := slots.any (·.2.2)
  let sm := summaryBlock g raw
  let tables := slots.flatMap fun s => if s.2.2 then s.2.1.1 else []
  let body := slots.flatMap fun s => if s.2.2 then s.2.1.2 else s.1
  let h : Hdr :=
    { key := key, g := g, valid := g.T, flags := 1 + 2 * b2n coded + 4 * b2n sm.2, crc := 0
      stored := 128 + tables.length + sm.1.length + body.length
      planes := slots.map fun s => if s.2.2 then 2 ^ 24 + s.2.1.2.length else s.1.length
      tableLoc := if coded then 0x80 else 0, summaryLoc := 0x80 + tables.length, epoch := epoch }
  let rest := tables ++ sm.1 ++ body
  hdrBytes { h with crc := crc32c (hdrBytes h ++ rest) } ++ rest

/-! ### The expanders (R141, R147) -/

/-- Read one code from a bit list: the symbol and the bits left. -/
def readCode (lens : List Nat) (canon : List (Nat × Nat)) : Nat → Nat → Nat → List Bool → Option (Nat × List Bool)
  | 0, _, _, _ => none
  | _ + 1, _, _, [] => none
  | f + 1, len, code, b :: r =>
    let code := code * 2 + b2n b
    let len := len + 1
    let c := lenCount lens len
    let first := firstCode lens len
    if 0 < c ∧ first ≤ code ∧ code < first + c then
      some ((canon.getD (firstPos lens len + (code - first)) (0, 0)).1, r)
    else readCode lens canon f len code r

/-- Decode `n` symbols. -/
def readCodes (lens : List Nat) (canon : List (Nat × Nat)) : Nat → List Bool → Option (Bytes × List Bool)
  | 0, l => some ([], l)
  | n + 1, l =>
    match readCode lens canon 12 0 0 l with
    | none => none
    | some (s, r) => match readCodes lens canon n r with
      | none => none
      | some (b, r) => some (BitVec.ofNat 8 s :: b, r)

/-- The bits of bytes, bit 0 of each first. -/
def bitsOfBytes (b : Bytes) : List Bool := b.flatMap fun x => (List.range 8).map fun i => bitOf x.toNat i

/-- Decode a segment to exactly `n` plane bytes: the last byte's rest is 0 and every byte is used (R141). -/
def decodeSegment (lens : List Nat) (canon : List (Nat × Nat)) (n : Nat) (s : Bytes) : Option Bytes :=
  match readCodes lens canon n (bitsOfBytes s) with
  | none => none
  | some (b, r) => if r.length < 8 ∧ r.all (!·) then some b else none

/-- Decode the segments of a coded plane. -/
def decodeSegments (lens : List Nat) (canon : List (Nat × Nat)) : Nat → List Nat → Bytes → Option Bytes
  | _, [], _ => some []
  | left, e :: es, b =>
    match decodeSegment lens canon (min left 2048) (b.take e) with
    | none => none
    | some p => match decodeSegments lens canon (left - 2048) es (b.drop e) with
      | none => none
      | some q => some (p ++ q)

/-- A plane of an image: its length L, descriptor, table (for a coded plane) and where it lies. -/
structure PlaneAt where
  len : Nat
  coded : Bool
  size : Nat
  table : Bytes
  bytes : Bytes
deriving DecidableEq, Repr

/-- Cut the planes of an image out of it by their descriptors. -/
def planesAt (lens descs : List Nat) (tables body : Bytes) : List PlaneAt :=
  match lens, descs with
  | l :: ls, d :: ds =>
    let coded := bitOf d 24
    let n := d % 2 ^ 24
    { len := l, coded := coded, size := n, table := if coded then tables.take 128 else [], bytes := body.take n } ::
      planesAt ls ds (if coded then tables.drop 128 else tables) (body.drop n)
  | _, _ => []

/-- Directory entries of a coded plane. -/
def directory (p : PlaneAt) : List Nat := (List.range ((p.len + 2047) / 2048)).map fun i => fld p.bytes (2 * i) 2

/-- Check 3 of Table 05-4 for one plane. -/
def planeSizeOk (p : PlaneAt) : Bool :=
  if p.coded then
    let d := directory p
    p.size == 2 * d.length + d.sum && d.all fun e => decide (1 ≤ e ∧ e ≤ 3072)
  else p.size == p.len

/-- Check 4 of Table 05-4 for one code table. -/
def tableOk (t : Bytes) : Bool :=
  let lens := tableLens t
  lens.all (fun l => decide (l ≤ 12)) && lens.any (fun l => decide (l ≠ 0)) &&
    decide ((lens.map fun l => if l = 0 then 0 else 2 ^ (12 - l)).sum ≤ 4096)

/-- The bytes of a plane, if it decodes. -/
def planeBytes (p : PlaneAt) : Option Bytes :=
  if p.coded then
    let lens := tableLens p.table
    decodeSegments lens (canonical lens) p.len (directory p) (p.bytes.drop (2 * (directory p).length))
  else some p.bytes

/-- Which slots a format uses, and which may be coded. -/
def slotRules (g : Geom) : List Nat := planeLens g

/-- Table 05-4: the first check that fails of an image in a run or message of `limit` bytes, or the raw payload. -/
def expandImage (img : Bytes) (limit : Nat) : Except Nat Bytes :=
  let h := readHdr img
  let g := h.g
  if h.stored < 128 ∨ limit < h.stored ∨ img.length < h.stored then .error 1
  else
    let im := img.take h.stored
    if crc32c (setAt im 0x14 (zeros 4)) ≠ h.crc then .error 1
    else
      let coded := (h.planes.filter fun p => bitOf p 24).length
      let lens := planeLens g
      let descOk := (List.zip lens h.planes).all fun p => decide (p.1 ≠ 0) || p.2 == 0
      let scaleRaw := !(bitOf (h.planes.getD 2 0) 24) && !(bitOf (h.planes.getD 5 0) 24)
      if !(hdrCodesOk im) || h.valid != g.T || !(bitOf h.flags 0) || bitOf h.flags 1 != decide (0 < coded) ||
          h.tableLoc != (if 0 < coded then 0x80 else 0) || h.summaryLoc != 0x80 + 128 * coded || !descOk || !scaleRaw ||
          h.stored != 128 + 128 * coded + 4 * g.hkv * g.D + (h.planes.map fun p => p % 2 ^ 24).sum then .error 2
      else
        let body := im.drop (128 + 128 * coded + 4 * g.hkv * g.D)
        let ps := planesAt lens h.planes (cut im 0x80 (128 * coded)) body
        if !(ps.all planeSizeOk) then .error 3
        else if !(ps.all fun p => !p.coded || tableOk p.table) then .error 4
        else
          let bs := ps.map planeBytes
          if bs.any Option.isNone then .error 5 else .ok (rawOf g (bs.map fun b => b.getD []))

/-- The image passes every check of Table 05-4. -/
def imageOk (img : Bytes) (limit : Nat) : Bool := match expandImage img limit with | .ok _ => true | .error _ => false

/-- The summary entries (KMAX, KMIN) of a head of a sealed image. -/
def summaryOf (img : Bytes) (h : Nat) : List (EVal × EVal) :=
  let hd := readHdr img
  (List.range hd.g.D).map fun j =>
    let o := hd.summaryLoc + (h * hd.g.D + j) * 4
    (decodeFloat 8 7 127 true (fld img o 2), decodeFloat 8 7 127 true (fld img (o + 2) 2))

/-- A page image as rows see it: raw payload, or none when it fails its checks. -/
def imageRaw (growing : Bool) (img : Bytes) (limit : Nat) : Option Bytes :=
  if growing then some (growRaw (readHdr img).g img)
  else match expandImage img limit with
    | .ok r => some r
    | .error _ => none

end Sys2Proof.Machine
end

