-- ==== Sys2Proof/Machine/MemOps.lean ====
section
/-! DEFINITION. Tier-1 memory as the controllers serve it: addresses, check bits and their decode, reads and writes of
the node's engines, host line coherence before a write, errors and retirement (spec 07, R394 to R396). -/

namespace Sys2Proof.Machine

/-! ### Addresses (R176, R177) -/

/-- Bytes of a granule, a slice and of tier 1. -/
def gib : Nat := 1073741824
def sliceBytes : Nat := 48 * gib
def tier1Bytes : Nat := 3072 * gib

/-- Slice and granule index of a tier-1 address. -/
def addrSlice (a : Nat) : Nat := a / sliceBytes
def addrGranule (a : Nat) : Nat := a % sliceBytes / gib
/-- Granule number: slice · 48 + index. -/
def granuleNo (a : Nat) : Nat := addrSlice a * 48 + addrGranule a

/-- Offset of an address within its granule. -/
def granOff (a : Nat) : Nat := a % gib

/-- Channel of the node, 0 to 127 (8 · die + channel of the die). -/
def addrChannel (a : Nat) : Nat :=
  8 * dieOfSlice (addrSlice a) + 2 * (addrSlice a % 4) + bitsOf (granOff a) 6 1
/-- Sub-channel of the node, 0 to 255. -/
def addrSub (a : Nat) : Nat := 2 * addrChannel a + bitsOf (granOff a) 5 1
def addrBank (a : Nat) : Nat := bitsOf (granOff a) 13 4
def addrColumn (a : Nat) : Nat := bitsOf (granOff a) 7 6
def addrRank (a : Nat) : Nat := if addrGranule a < 32 then 0 else 1
def addrRow (a : Nat) : Nat :=
  8192 * (if addrGranule a < 32 then addrGranule a else addrGranule a - 32) + bitsOf (granOff a) 17 13

/-- The folded address of a burst (R178). -/
def foldedAddr (a : Nat) : Nat := addrRank a * 2 ^ 28 + addrRow a * 2 ^ 10 + addrBank a * 2 ^ 6 + addrColumn a

/-- A granule is a bank-op granule (R182). -/
def isBankOp (d : Dev) (gran : Nat) : Bool := tget false d.lp.bankOp gran

/-! ### The Reed-Solomon code (R178 to R180) -/

/-- Multiply by α in GF(2^8) with x^8 + x^4 + x^3 + x^2 + 1. -/
def gfDouble (a : Nat) : Nat := let b := 2 * a; if 256 ≤ b then (b ^^^ 0x11D) else b

/-- Multiply in GF(2^8), over the low `n` bits of `b`. -/
def gfMulN : Nat → Nat → Nat → Nat
  | 0, _, _ => 0
  | n + 1, a, b => (if b % 2 = 1 then a else 0) ^^^ gfMulN n (gfDouble a) (b / 2)

def gfMul (a b : Nat) : Nat := gfMulN 8 a b

/-- α^n. -/
def gfPow : Nat → Nat
  | 0 => 1
  | n + 1 => gfDouble (gfPow n)

/-- Inverse: a^254. -/
def gfInv (a : Nat) : Nat :=
  let a2 := gfMul a a
  let a4 := gfMul a2 a2
  let a8 := gfMul a4 a4
  let a16 := gfMul a8 a8
  let a32 := gfMul a16 a16
  let a64 := gfMul a32 a32
  let a128 := gfMul a64 a64
  gfMul a128 (gfMul a64 (gfMul a32 (gfMul a16 (gfMul a8 (gfMul a4 a2)))))

/-- Sum of symbols weighted by powers of α^i at their positions: the syndrome S_i. -/
def syndrome (i : Nat) (symbols : List (Nat × Nat)) : Nat :=
  (symbols.map fun s => gfMul s.2 (gfPow (i * s.1))).foldl (· ^^^ ·) 0

/-- Codeword position of stored byte `s`: data 8 to 39, check bytes 0 to 3 (R178, R179). -/
def codePos (s : Nat) : Nat := if s < 32 then 8 + s else s - 32

/-- One step of division by the generator (x − 1)(x − α)(x − α²)(x − α³); the remainder is low byte first. -/
def rsStep (r : List Nat) (b : Nat) : List Nat :=
  let t := b ^^^ r.getD 3 0
  -- generator x^4 + 0x0F x^3 + 0x36 x^2 + 0x78 x + 0x40
  [gfMul t 0x40, r.getD 0 0 ^^^ gfMul t 0x78, r.getD 1 0 ^^^ gfMul t 0x36, r.getD 2 0 ^^^ gfMul t 0x0F]

/-- The check bytes c0 to c3 of a burst (R178). -/
def checkBytes (folded : Nat) (data : Bytes) : Bytes :=
  (((toLe 4 folded ++ data).reverse.map (·.toNat)).foldl rsStep [0, 0, 0, 0]).map (BitVec.ofNat 8)

/-- What a decode finds (Table 07-3). -/
inductive EccKind where
  | clean | corrected | bad | misdirected
deriving DecidableEq, Repr

/-- The error value at address position `p` if the error lies in positions 4 to 7 only. -/
def addrError (s : List Nat) (p : Nat) : Nat :=
  let others := ([4, 5, 6, 7].filter (· != p)).map gfPow
  let a := others.getD 0 0
  let b := others.getD 1 0
  let c := others.getD 2 0
  let l0 := gfMul a (gfMul b c)
  let l1 := gfMul a b ^^^ gfMul a c ^^^ gfMul b c
  let l2 := a ^^^ b ^^^ c
  let num := gfMul l0 (s.getD 0 0) ^^^ gfMul l1 (s.getD 1 0) ^^^ gfMul l2 (s.getD 2 0) ^^^ s.getD 3 0
  let x := gfPow p
  let den := gfMul (x ^^^ a) (gfMul (x ^^^ b) (x ^^^ c))
  gfMul num (gfInv den)

/-- Decode the error pattern of a checked burst's 36 stored bytes: what is found, and the pattern that remains. -/
def eccDecode (pat : Bytes) : EccKind × Bytes :=
  let syms := ((List.range 36).filter fun i => pat.getD i 0 != 0).map fun i => (codePos i, (pat.getD i 0).toNat)
  let s := (List.range 4).map fun i => syndrome i syms
  if s.all (· == 0) then (.clean, pat)
  else
    let s0 := s.getD 0 0
    let x := gfMul (s.getD 1 0) (gfInv s0)
    let single := s0 != 0 && s.getD 2 0 == gfMul (s.getD 1 0) x && s.getD 3 0 == gfMul (s.getD 2 0) x
    match if single then (List.range 40).find? fun p => gfPow p == x else none with
    | some p =>
      if 4 ≤ p ∧ p < 8 then (.misdirected, pat)
      else
        let i := if p < 4 then 32 + p else p - 8
        (.corrected, setAt pat i [pat.getD i 0 ^^^ BitVec.ofNat 8 s0])
    | none =>
      if [4, 5, 6, 7].any (fun p => addrError s p == 0) then (.misdirected, pat) else (.bad, pat)

def EccKind.uncorrectable (k : EccKind) : Bool := k == .bad || k == .misdirected

/-! ### Errors held in the array -/

/-- Byte-wise exclusive or. -/
def xorBytes (a b : Bytes) : Bytes := List.zipWith (· ^^^ ·) a b

/-- The error pattern of a burst. -/
def burstError (d : Dev) (burst : Nat) : Bytes := tget (zeros 36) d.lp.errors burst

/-- Set a burst's error pattern. -/
def setBurstError (d : Dev) (burst : Nat) (p : Bytes) : Dev :=
  d.onLp fun x => { x with errors := tput (zeros 36) x.errors burst p }

/-- A burst lies in a bank-op granule. -/
def burstBankOp (d : Dev) (burst : Nat) : Bool := isBankOp d (granuleNo (32 * burst))

/-- The bursts of a range of addresses whose stored bytes carry errors. -/
def errorsIn (d : Dev) (a n : Nat) : List (Nat × Bytes) :=
  d.lp.errors.filter fun p => decide (a < 32 * p.1 + 32) && decide (32 * p.1 < a + n)

/-- The uncorrectable bursts of a range (R187); bank-op granules have none (R184). -/
def badBursts (d : Dev) (a n : Nat) : List Nat :=
  ((errorsIn d a n).filter fun p => !(burstBankOp d p.1) && (eccDecode p.2).1.uncorrectable).map (·.1)

/-- What reading a burst does to its data bytes: the pattern XORed in, or none for the fixed fill (R184, R187). -/
def readPattern (d : Dev) (p : Nat × Bytes) : Option Bytes :=
  if burstBankOp d p.1 then some (p.2.take 32)
  else
    let r := eccDecode p.2
    if r.1.uncorrectable then none else some (r.2.take 32)

/-- Apply one burst's errors to bytes read from address `a` on. -/
def applyError (d : Dev) (a : Nat) (b : Bytes) (p : Nat × Bytes) : Bytes :=
  let base := 32 * p.1
  (List.range b.length).map fun i =>
    let x := b.getD i 0
    if base ≤ a + i ∧ a + i < base + 32 then
      match readPattern d p with
      | some e => x ^^^ e.getD (a + i - base) 0
      | none => 0xFF
    else x

/-- The bits of a stored byte on the pins of its sub-channel (R179): the DQ of stored byte `s`, and the beat of its bit
`k`. -/
def byteDq (s : Nat) : Nat := s % 12
def bitBeat (s k : Nat) : Nat := 8 * (s / 12) + k

/-- What DQ `dq` carries in a beat of a burst whose 36 stored bytes are given (R179). -/
def pinBit (stored : Bytes) (dq beat : Nat) : Bool := bitOf (stored.getD (12 * (beat / 8) + dq) 0).toNat (beat % 8)

/-! ### Row units and the subarrays under row operations (R203 to R206, R219, R221) -/

/-- Row units of a granule and of a slice. -/
def granUnits : Nat := 131072
def unitGranule (u : Nat) : Nat := u / granUnits
def unitSlice (u : Nat) : Nat := unitGranule u / 48
def unitBank (u : Nat) : Nat := u % 16

/-- Some row unit from `lo` to `hi` lies in the subarray of the bank under a row operation. -/
def unitsMeet (lo hi : Nat) (bank : Nat) (o : RowOp) : Bool :=
  let l := max lo (unitGranule o.dst * granUnits)
  let h := min hi (unitGranule o.dst * granUnits + granUnits - 1)
  decide (l + (bank + 16 - l % 16) % 16 ≤ h)

/-- Bytes of a range lie in a subarray under a running row operation: reads and writes of them wait (R219, R221). -/
def rangeBusy (d : Dev) (a n : Nat) : Bool :=
  n != 0 && d.row.running.any fun p => unitsMeet (a / 8192) ((a + n - 1) / 8192) (p.1 % 16) p.2.2

/-! ### Keys of frame runs -/

/-- Key of a run in the table of runs. -/
def runKey (tier frame : Nat) : Nat := tier * 2 ^ 36 + frame
def runTier (r : Nat) : Nat := r / 2 ^ 36
def runFrame (r : Nat) : Nat := r % 2 ^ 36

/-- The run, or outside every run the frame, within which writes keep their order (R40). -/
def writeOrder (d : Dev) (a : Nat) : Nat :=
  match d.obj.runs.find? fun p => runTier p.1 == 1 && decide (runFrame p.1 ≤ a / 4096) &&
      decide (a / 4096 < runFrame p.1 + p.2.count) with
  | some p => p.1
  | none => a / 4096

/-! ### Reads of the node's engines -/

/-- Bytes as the node sees them: its own writes that wait for the host included (R395). -/
def overlay (a n : Nat) (b : Bytes) (w : WaitWrite) : Bytes :=
  (List.range n).map fun i =>
    if w.addr ≤ a + i ∧ a + i < w.addr + w.data.length then w.data.getD (a + i - w.addr) 0 else b.getD i 0

/-- Bytes as the banks deliver them, errors applied. -/
def bankBytes (k : Chip) (a n : Nat) : Bytes := (errorsIn k.dev a n).foldl (applyError k.dev a) (memRead k.mem a n)

/-- Read tier 1 with errors applied. -/
def readTier1 (k : Chip) (a n : Nat) : Bytes :=
  let b := bankBytes k a n
  (k.dev.hif.waiting.filter fun w => decide (a < w.addr + w.data.length) && decide (w.addr < a + n)).foldl (overlay a n) b

/-! ### Errors found (R187, R189, R449) -/

/-- Channel within its die, sub-channel within its channel. -/
def chanOfDie (a : Nat) : Nat := addrChannel a % 8

/-- The die of an address's slice. -/
def addrDie (a : Nat) : Nat := dieOfSlice (addrSlice a)

/-- A frame is retired (R189): health input, counter, DRAM Event (Table 16-6), event; a retired one stays so. -/
def retireFrame (d : Dev) (frame : Nat) : Dev :=
  if tget false d.lp.retired frame then d
  else
    let a := 4096 * frame
    let d := d.onLp fun x => { x with retired := tput false x.retired frame true }
    let d := fixedCount (d.onMbr fun m => { m with uncorrectable := d.now :: m.uncorrectable }) (addrDie a)
      (52 + chanOfDie a) 1
    let d := cxlWarn d { kind := 1, dpa := a, type := 0, transaction := 0,
                         detail := [addrChannel a, addrRank a, addrBank a, addrRow a] }
    logEv d 0x0203 (addrDie a) (toLe 8 frame)

/-- An uncorrectable burst was read (R187): the CXL General Media record, the event record, the counter, the health
input, and the retirement of its frame. `transaction`: 0 host read, 1 patrol, 2 internal. -/
def uncorrectableFound (d : Dev) (burst transaction tenant status : Nat) (misdirected : Bool) : Dev :=
  let a := 32 * burst
  let d := cxlFail d { kind := 0, dpa := a, type := 0, transaction := transaction, detail := [b2n misdirected] }
  let d := logFull d 0x0202 (addrDie a) tenant status (2 * b2n misdirected)
    (toLe 8 a ++ toLe 4 (foldedAddr a) ++ toLe 1 (chanOfDie a) ++ toLe 1 (addrSub a % 2))
  let d := fixedCount (d.onMbr fun m => { m with uncorrectable := d.now :: m.uncorrectable }) (addrDie a)
    (52 + chanOfDie a) 1
  retireFrame d (a / 4096)

/-- Every uncorrectable burst that a read met is reported, each with its own mark of a misdirected write (R187). -/
def badFound (d : Dev) (bursts : List Nat) (transaction tenant status : Nat) : Dev :=
  bursts.foldl (fun d b =>
    uncorrectableFound d b transaction tenant status ((eccDecode (burstError d b)).1 == .misdirected)) d

/-- A burst was corrected (R180, R181): the counter, the health input, and the write-back of the corrected burst. -/
def correctedFound (d : Dev) (burst : Nat) (rest : Bytes) : Dev :=
  let a := 32 * burst
  let d := setBurstError d burst rest
  fixedCount (d.onMbr fun m => { m with corrected := d.now :: m.corrected }) (addrDie a) (44 + chanOfDie a) 1

/-! ### Writes of the node's engines (R395, R546) -/

/-- Does a write of `n` bytes at `a` cover a whole burst? -/
def coversBurst (a n burst : Nat) : Bool := decide (a ≤ 32 * burst) && decide (32 * burst + 32 ≤ a + n)

/-- A write may be made: no burst it covers in part is uncorrectable in a checked granule (R546). -/
def writeBlocked (d : Dev) (a n : Nat) : List Nat :=
  (badBursts d a n).filter fun b => !(coversBurst a n b)

/-- A burst that a write covers: its errors go, and in part in a bank-op granule only those of the bytes written. -/
def writeErrors (a n : Nat) (d : Dev) (p : Nat × Bytes) : Dev :=
  if coversBurst a n p.1 || !(burstBankOp d p.1) then setBurstError d p.1 (zeros 36)
  else
    setBurstError d p.1 ((List.range 36).map fun i =>
      if i < 32 ∧ a ≤ 32 * p.1 + i ∧ 32 * p.1 + i < a + n then 0 else p.2.getD i 0)

/-- A read-modify-write stores what the decode delivered (R546). -/
def rmwData (d : Dev) (a n : Nat) (m : Memory) (p : Nat × Bytes) : Memory :=
  if burstBankOp d p.1 || coversBurst a n p.1 then m
  else memWrite m (32 * p.1) (xorBytes (memRead m (32 * p.1) 32) ((eccDecode p.2).2.take 32))

/-- Store bytes in the array now. -/
def storeNow (k : Chip) (a : Nat) (b : Bytes) : Chip :=
  let es := errorsIn k.dev a b.length
  { dev := es.foldl (writeErrors a b.length) k.dev, mem := memWrite (es.foldl (rmwData k.dev a b.length) k.mem) a b }

/-- Lines of a range that lie in a host line filter (R394). -/
def filteredLines (d : Dev) (a n : Nat) : List Nat :=
  (d.hif.filter.flatMap (·.2)).filter fun l => decide (a < 64 * l + 64) && decide (64 * l < a + n)

/-- Send a back-invalidation for a line, unless one is outstanding; while a host read of the line is in its channel's queue,
it follows that read (R395). -/
def sendBisnp (d : Dev) (line : Nat) : Dev :=
  if d.hif.backInv.any (·.1 == line) || d.hif.hostReads.any (fun p => p.1 / 64 == line && p.2.isNone) then d
  else
    let d := count d Config.clover 0x2840 1
    d.onHif fun h => { h with backInv := h.backInv ++ [(line, d.now)], pin := some (.bisnp line) }

/-- A write must wait behind an earlier one to the same run (R40), or for a row operation (R221). -/
def writeWaits (d : Dev) (a n : Nat) : Bool :=
  rangeBusy d a n || d.hif.waiting.any fun w => writeOrder d w.addr == writeOrder d a

/-- A write of the node's engines: at once, or after the host has answered for the lines it holds (R395), after the row
operation in its subarray (R221), and never before an earlier write to the same run (R40). -/
def nodeWrite (k : Chip) (a : Nat) (b : Bytes) : Chip :=
  let ls := filteredLines k.dev a b.length
  if ls.isEmpty && !(writeWaits k.dev a b.length) then storeNow k a b
  else
    k.onDev fun d => (ls.foldl sendBisnp d).onHif fun h =>
      { h with waiting := h.waiting ++ [{ addr := a, data := b, lines := ls }] }

/-- A row operation's bytes reach the bank when it completes, before every write that came to the bank after its start
(R221), and after the host has answered for the lines it holds (R395). -/
def rowWrite (k : Chip) (a : Nat) (b : Bytes) : Chip :=
  let ls := filteredLines k.dev a b.length
  if ls.isEmpty then storeNow k a b
  else
    k.onDev fun d => (ls.foldl sendBisnp d).onHif fun h => { h with waiting := { addr := a, data := b, lines := ls } :: h.waiting }

/-- Bytes of a range become zero: nothing is listed there. -/
def memClear (m : Memory) (a n : Nat) : Memory := m.filter fun p => decide (p.1 < a) || decide (a + n ≤ p.1)

/-- Zero a range of the array now, its errors with it. -/
def zeroNow (k : Chip) (a n : Nat) : Chip :=
  { dev := (errorsIn k.dev a n).foldl (writeErrors a n) k.dev, mem := memClear k.mem a n }

/-- A channel is in service (R197, R535). -/
def channelReady (d : Dev) (ch : Nat) : Bool := bitOf (tget 0 d.lp.readyCh (ch / 8)) (ch % 8)

/-- Both channels of a slice are in service. -/
def sliceReady (d : Dev) (n : Nat) : Bool :=
  let c := 8 * dieOfSlice n + 2 * (n % 4)
  channelReady d c && channelReady d (c + 1)

end Sys2Proof.Machine
end

