-- ==== Sys2Proof/Machine/Links.lean ====
section
/-! DEFINITION. Fabric links: cables, training, heartbeats, flits, replay and credits (spec 10). Physical coding below the
flit is outside the model (DESIGN CHOICE, notes/assumptions/20.md). -/

namespace Sys2Proof.Machine

/-- A link of the node. -/
def Dev.link (d : Dev) (n : Nat) : Link := tget {} d.fab.links n

/-- Change a link. -/
def Dev.onLink (d : Dev) (n : Nat) (f : Link → Link) : Dev :=
  d.onFab fun x => { x with links := tmod {} x.links n f }

/-- A link's Campion die runs. -/
def Dev.linkUp (d : Dev) (n : Nat) : Bool := decide (n < 32) && d.ready (dieOfLink n)

def Dev.active (d : Dev) (n : Nat) : Bool := d.linkUp n && (d.link n).state == .active

/-- Receive buffers of Table 10-7, in flits. -/
def ownBuffers : List Nat := [64, 512, 384, 384, 128]

/-- Numbers of the link states in a LINK_STATE record: the order of spec 10's list (DEDUCED, notes/assumptions/21.md). -/
def linkStateCode : LinkState → Nat
  | .disabled => 0
  | .detect => 1
  | .equalise => 2
  | .align => 3
  | .identify => 4
  | .active => 5

/-- LINK_STATE record: new state (6 RETRAIN) and trigger row of Table 10-10. -/
def linkEvent (d : Dev) (n state trigger : Nat) : Dev :=
  logEv d 0x0401 (dieOfLink n) (toLe 1 n ++ toLe 1 state ++ toLe 1 trigger)

/-! ### Route header (Table 10-11) -/

def msgDest (b : Bytes) : Nat := fld b 0 4 % 2 ^ 20
def msgHops (b : Bytes) : Nat := bitsOf (fld b 0 4) 20 6
def msgSrc (b : Bytes) : Nat := fld b 4 4 % 2 ^ 20
def msgOrigVc (b : Bytes) : Nat := bitsOf (fld b 4 4) 20 3
def msgService (b : Bytes) : Nat := bitsOf (fld b 4 4) 23 3
def msgEscaped (b : Bytes) : Bool := bitOf (fld b 4 4) 26
def msgEpoch (b : Bytes) : Nat := fld b 8 4
def msgTenant (b : Bytes) : Nat := fld b 0xC 2
def msgFlits (b : Bytes) : Nat := fld b 0xE 2 % 2048

def headOf (m : FMsg) : Bytes := m.chunks.headD []

/-- The routing entry for a destination (R273). -/
def routeEntry (d : Dev) (dest : Nat) : Nat :=
  if dest / 1024 = d.regs.nodeId / 1024 then tget 0 d.fab.member (dest % 1024) else tget 0 d.fab.group (dest / 1024)

/-! ### Flits (Table 10-4, Table 10-5) -/

/-- What distinguishes one flit's header from another on the same link. -/
structure FlitKind where
  /-- 0 idle, 1 data, 2 control -/
  ftype : Nat
  vc : Nat := 0
  som : Bool := false
  eom : Bool := false
  abort : Bool := false
  seq : Nat
  payload : Bytes := []
deriving DecidableEq, Repr

/-- A flit as the link sends it now: the header carries the link's fresh fields. -/
def flitBytes (l : Link) (k : FlitKind) : Bytes :=
  let cvc := l.flits % 5
  let len := if k.ftype = 1 then k.payload.length else 0
  let hdr := k.ftype + 2 ^ 34 * b2n k.abort + 2 ^ 35 * k.vc + 2 ^ 38 * b2n k.som + 2 ^ 39 * b2n k.eom + 2 ^ 40 * len +
    2 ^ 52 * l.hb + 2 ^ 56 * b2n l.nak + 2 ^ 57 * cvc + 2 ^ 60 * tget 0 l.granted cvc + 2 ^ 72 * k.seq +
    2 ^ 84 * l.ackSeq
  let b := toLe 12 hdr ++ padTo 240 k.payload
  b ++ toLe 4 (crc32c b)

/-- Flits of a superframe (R258). -/
def superframe : Nat := 1285

/-- Send a flit on the lane. -/
def laneSend (l : Link) (k : FlitKind) : Link :=
  { l with lane := flitBytes l k, flits := l.flits + 1, nak := false, txPos := (l.txPos + 1) % superframe }

def flitHdr (f : Bytes) : Nat := fld f 0 12
def flitType (f : Bytes) : Nat := bitsOf (flitHdr f) 0 4
def flitVc (f : Bytes) : Nat := bitsOf (flitHdr f) 35 3
def flitLen (f : Bytes) : Nat := bitsOf (flitHdr f) 40 8
def flitSeq (f : Bytes) : Nat := bitsOf (flitHdr f) 72 12
def flitAck (f : Bytes) : Nat := bitsOf (flitHdr f) 84 12

/-- The receiver keeps a flit (R259). -/
def flitGood (f : Bytes) : Bool :=
  decide (f.length = 256) && fld f 0xFC 4 == crc32c (f.take 0xFC) && decide (flitType f ≤ 2) && decide (flitVc f ≤ 4)

/-! ### Leaving ACTIVE (R280) -/

/-- The links of a Campion die. -/
def dieLinks (die : Nat) : List Nat := (List.range 4).map (· + 4 * (die - 16))

/-- The search queue of a link's Campion die is full (R234). -/
def searchFull (d : Dev) (link : Nat) : Bool :=
  decide (64 ≤ (d.tr.search.filter fun h => dieOfLink h.inLink == dieOfLink link).length)

/-- Attention requests that have passed classification and await contexts on a Yarrow die: the slot each names (an
ATTN_REQUEST, body bytes 0x10 to 0x13) has contexts there (Table 04-9, Admission). -/
def admissionQueue (d : Dev) (die : Nat) : List Inb :=
  d.tr.inbox.filter fun m =>
    fld m.bytes 0x30 1 == 0x23 && (tget {} d.attn.slots (fld m.bytes 0x40 4)).holds.any fun h => dieOfSlice h.slice == die

/-- The admission queue of some Yarrow die holds 64 requests (R115). -/
def admissionFull (d : Dev) : Bool := (List.range 16).any fun die => decide (64 ≤ (admissionQueue d die).length)

/-- A Campion die withholds the credit of a VC: of VC2 and VC3 while its search queue is full (R234), of VC2 while an
admission queue is (R115). -/
def withholds (d : Dev) (n vc : Nat) : Bool :=
  ((vc == 2 || vc == 3) && searchFull d n) || (vc == 2 && admissionFull d)

/-- Give credit back for flits that leave a receive buffer (R265), or withhold it. -/
def giveBack (d : Dev) (n vc k : Nat) : Dev :=
  d.onLink n fun l =>
    if withholds d n vc = true then { l with withheld := tmod 0 l.withheld vc (· + k) }
    else { l with granted := tmod 0 l.granted vc fun g => (g + k) % 4096 }

/-- The Campion dies (Table 01-1). -/
def campionDies : List Nat := (List.range 8).map (· + 16)

/-- A queue has room again: the die's links give the credit that it withheld for it. -/
def giveWithheld (d : Dev) (die : Nat) : Dev :=
  (dieLinks die).foldl (fun d n =>
    (d.link n).withheld.foldl (fun d p => giveBack d n p.1 p.2) (d.onLink n fun l => { l with withheld := [] })) d

/-- What happens to a message in the router when a link leaves ACTIVE. The flits of the link's old session raise no limit of
the next one. -/
def msgOnLinkDown (n : Nat) (m : FMsg) : FMsg :=
  let m := if m.inLink = some n then
      if m.eom then { m with freed := m.chunks.length } else { m with eom := true, aborted := true, freed := m.chunks.length }
    else m
  match m.route with
  | .out l _ =>
    if l = n then
      if m.sent = 0 then { m with route := .arrived } else { m with route := .discard }
    else m
  | _ => m

/-- A message in the router that is over: wholly here and discarded, or ended before its head was sent on. -/
def msgOver (m : FMsg) : Bool :=
  m.eom && (m.route == .discard ||
    (m.aborted && (match m.route with | .out _ _ => m.sent == 0 | _ => true)))

/-- Credit of a message that is over goes back to an input link that is still ACTIVE. -/
def msgCredit (d : Dev) (m : FMsg) : Dev :=
  match m.inLink with
  | none => d
  | some n => d.when (d.active n) fun d => giveBack d n m.vc (m.chunks.length - m.freed)

/-- The node counts each discard, once (R281): on its input link, those of failed framing apart (R272). -/
def countLost (d : Dev) (m : FMsg) : Dev :=
  if m.counted then d
  else
    let d := d.onFab fun x => { x with msgs := modWhere (·.id == m.id) (fun m => { m with counted := true }) x.msgs }
    match m.inLink with
    | none => d.onFab fun x => { x with ownDiscards := inc48 x.ownDiscards }
    | some n =>
      d.onLink n fun l => if m.misframed then { l with framing := inc48 l.framing } else { l with aborted := inc48 l.aborted }

/-- Count the messages that are discarded, and remove those that are over. -/
def msgSweep (d : Dev) : Dev :=
  let d := (d.fab.msgs.filter fun m => m.aborted || m.route == .discard).foldl countLost d
  ((d.fab.msgs.filter msgOver).foldl msgCredit d).onFab fun x => { x with msgs := dropWhere msgOver x.msgs }

/-- Both ends act when a link leaves ACTIVE: replay and credit state go, incomplete messages end, messages in progress
on it are discarded, and unsent heads choose again. -/
def linkLeave (d : Dev) (n : Nat) : Dev :=
  if (d.link n).state = .active then
    let d := d.onLink n fun l =>
      { l with state := .detect, replay := [], resend := [], sent := [], limit := [], granted := [], withheld := [], txSeq := 0,
               ackSeq := 0xFFF, discarding := false, nak := false, nakCount := 0, flits := 0, ctrl := [], retrainDue := 0,
               badRun := 0, badAt := [] }
    let d := (d.fab.msgs.filter fun m => m.inLink == some n && decide (m.freed < m.chunks.length)).foldl (fun d m =>
      sampleDeq d (vcQueue n m.vc) (d.now - m.headAt)) d
    msgSweep (d.onFab fun x => { x with msgs := x.msgs.map (msgOnLinkDown n) })
  else d

/-- A link to a neighbour leaves ACTIVE: SUSPECT is to be sent (R352); 0 says that it has not been sent yet. -/
def noteSuspect (d : Dev) (n : Nat) : Dev :=
  match (d.link n).state, (d.link n).partner with
  | .active, some p => d.onMbr fun m => { m with suspected := tins m.suspected p.node 0 }
  | _, _ => d

/-- R447, Table 16-8 kind 4: the guaranteed share of a composition is blocked while a slice of it is lost with its die, or
a link port with a subscriber that draws on its guarantee bucket is not ACTIVE. -/
def shareCheck (d : Dev) : Dev :=
  d.mbr.compositions.foldl (fun d p =>
    let away := fun n => d.fab.subs.any (fun q => q.1 / 2048 == n && q.2.composition == p.1) && !(d.active n)
    let bad := p.2.share != 0 && !p.2.slices.isEmpty &&
      (p.2.slices.any (fun s => d.lost (dieOfSlice s)) || (List.range 32).any away)
    if bad then blockStart d 4 p.2.id p.2.tenant else blockEnd d 4 p.2.id p.2.tenant) d

/-- A link goes down to a state (Table 10-10); a cleared LNK_ENABLE bit raises no suspicion. -/
def linkDown (d : Dev) (n : Nat) (dest : LinkState) (trigger : Nat) : Dev :=
  let was := (d.link n).state
  let d := if dest = .disabled then d else noteSuspect d n
  let d := (linkLeave d n).onLink n fun l =>
    { l with state := dest, retrain := false, stepAt := d.now, told := false, partner := none, refused := none,
             hbSeen := 0, identAt := none, misses := 0 }
  if was = .active then shareCheck (linkEvent d n (linkStateCode dest) trigger) else d

/-- R268, Table 10-10: a trigger of the node's own asks for a retrain; the partner is asked for one too (DESIGN CHOICE,
notes/assumptions/105.md: the spec does not say when RETRAIN_REQUEST is sent). -/
def retrainNote (l : Link) (trigger : Nat) : Link :=
  if l.retrainDue = 0 then { l with retrainDue := trigger, ctrl := l.ctrl ++ [padTo 240 [3]] } else l

/-- R268: a retrain of an ACTIVE link; it counts for the health score. A RETRAIN_REQUEST that still waits goes out last. -/
def linkRetrainOp (d : Dev) (n trigger : Nat) : Dev :=
  let d := d.onLink n fun l =>
    match l.ctrl with
    | p :: _ => laneSend l { ftype := 2, seq := l.txSeq, payload := p }
    | [] => l
  let d := (linkLeave (noteSuspect d n) n).onLink n fun l =>
    { l with state := .equalise, retrain := true, stepAt := d.now, retrains := inc48 l.retrains, partner := none,
             refused := none, hbSeen := 0, identAt := none, misses := 0 }
  fixedCount ((shareCheck (linkEvent d n 6 trigger)).onMbr fun m => { m with retrains := d.now :: m.retrains })
    (dieOfLink n) (44 + n % 4) 1

/-! ### Enabling (R266, R280, Table 21-12) -/

/-- Table 21-12: LNK_ENABLE bit `n` may be set. -/
def linkMayEnable (d : Dev) (n : Nat) : Bool :=
  d.regs.fabricId != 0 && d.mbr.domain != 0 && d.mat.ready && !(tget ({} : Cable) d.fab.cables (n / 8)).refused

/-- A write to LNK_ENABLE (R528, spec 21): refused whole when a set bit's precondition fails. Link enable, the write that
sets bits where none was set, makes every routing entry invalid (R273). -/
def lnkEnableOp (d : Dev) (v : Nat) : Dev :=
  let v := v % 2 ^ 32
  let newBits := (bitIdx 32 v).filter fun n => !(bitOf d.regs.links n)
  let cleared := (bitIdx 32 d.regs.links).filter fun n => !(bitOf v n)
  if newBits.all (linkMayEnable d) then
    let d := newBits.foldl (fun d n => d.onLink n fun l => { l with state := .detect, stepAt := d.now, told := false }) d
    let d := cleared.foldl (fun d n => linkDown d n .disabled 7) d
    let d := if d.regs.links = 0 ∧ v ≠ 0 then d.onFab fun x => { x with group := [], member := [] } else d
    d.onRegs fun r => { r with links := v }
  else regIgnored d 0x3008 8

/-- LNK_ENABLE_SET (R266). -/
def execLnkEnableSet (value : BitVec 64) (s : State) : Out :=
  s.act fun d => d.when d.bar fun d =>
    if d.boot.mode = .recovery then regIgnored d 0x3008 8 else lnkEnableOp d value.toNat

/-- LNK_ENABLE_CLEAR (R280). -/
def execLnkEnableClear (value : BitVec 64) (s : State) : Out :=
  s.act fun d => d.when d.bar fun d =>
    if d.boot.mode = .recovery then regIgnored d 0x3008 8 else lnkEnableOp d value.toNat

/-- CABLE_PRESENT (R253, Table 10-2): the identification bytes; P3V3_CBL goes on only for an active optical cable of at most
3.3 W. Any value that Table 10-2 or this bound shuts out leaves the cable's links disabled: their LNK_ENABLE bits are cleared
(DESIGN CHOICE, notes/assumptions/105.md). -/
def execCablePresent (connector type length power : Nat) (s : State) : Out :=
  s.act fun d => d.when (decide (connector < 4) && d.firmware) fun d =>
    let bad := !(type == 1 || (type == 2 && decide (power ≤ 33))) || length == 0
    let c : Cable := { present := true, type := type, length := length, power := power,
                       powered := type == 2 && !bad, refused := bad }
    let d := d.onFab fun x => { x with cables := tput {} x.cables connector c }
    if bad then
      let d := ((List.range 8).map (8 * connector + ·)).foldl (fun d n =>
        if bitOf d.regs.links n then (linkDown d n .disabled 7).onRegs fun r => { r with links := r.links - 2 ^ n } else d) d
      logEv d 0x0402 (dieOfLink (8 * connector)) (toLe 1 (8 * connector) ++ toLe 1 1)
    else d

/-! ### Training (Table 10-8) -/

/-- A training step ends and the next starts. -/
def linkStep (d : Dev) (n : Nat) (from_ dest : LinkState) : Dev :=
  d.when (d.linkUp n && (d.link n).state == from_) fun d => d.onLink n fun l => { l with state := dest, stepAt := d.now }

/-- LINK_SIGNAL_DETECTED (R266). -/
def execLinkSignalDetected (link : Nat) (s : State) : Out := s.act fun d => linkStep d link .detect .equalise

/-- LINK_NO_SIGNAL_EVENT (R266): an event after 100 ms without signal; the link keeps waiting. -/
def execLinkNoSignalEvent (link : Nat) (s : State) : Out :=
  s.act fun d =>
    let l := d.link link
    d.when (d.linkUp link && l.state == .detect && !l.told && d.due l.stepAt 10000000) fun d =>
      (logEv d 0x0402 (dieOfLink link) (toLe 1 link ++ toLe 1 3)).onLink link fun l => { l with told := true }

/-- LINK_EQUALISE_DONE (R266). -/
def execLinkEqualiseDone (link : Nat) (s : State) : Out := s.act fun d => linkStep d link .equalise .align

/-- LINK_ALIGN_LOCK (R266). -/
def execLinkAlignLock (link : Nat) (s : State) : Out := s.act fun d => linkStep d link .align .identify

/-- The IDENTIFY payload this node sends on a link (Table 10-9). -/
def identifyPayload (d : Dev) (n : Nat) : Bytes :=
  let epoch := (tget ({} : Domain) d.mbr.domains d.mbr.domain).epoch
  padTo 240 (toLe 1 2 ++ toLe 1 n ++ toLe 2 d.mbr.domain ++ toLe 4 d.regs.nodeId ++ toLe 4 d.regs.fabricId ++
    toLe 4 epoch ++ ownBuffers.flatMap (toLe 2) ++ toLe 1 0)

/-- IDENTIFY_SEND (R266): every 100 ticks in IDENTIFY. -/
def execIdentifySend (link : Nat) (s : State) : Out :=
  s.act fun d =>
    let l := d.link link
    let first := match l.identAt with | none => true | some t => d.due t 100
    d.when (d.linkUp link && l.state == .identify && first) fun d =>
      d.onLink link fun l =>
        { laneSend l { ftype := 2, seq := l.txSeq, payload := identifyPayload d link } with identAt := some d.now }

/-- The partner an IDENTIFY payload declares. -/
def partnerOf (p : Bytes) : Partner :=
  { link := fld p 1 1, domain := fld p 2 2, node := fld p 4 4 % 2 ^ 20, fabric := fld p 8 4, epoch := fld p 0x0C 4,
    buffers := (List.range 5).map fun v => fld p (0x10 + 2 * v) 2, kind := fld p 0x1A 1 }

/-- R267: the partner is refused. -/
def partnerRefused (d : Dev) (p : Partner) : Bool :=
  p.fabric != d.regs.fabricId || p.node == d.regs.nodeId || p.buffers.any (· == 0) || decide (1 < p.kind)

/-- ACTIVE: SEQ, ACK_SEQ and credits start, with an event record (R266 step 5). -/
def linkActivate (d : Dev) (n : Nat) : Dev :=
  match (d.link n).partner with
  | none => d
  | some p =>
    shareCheck <| linkEvent (d.onLink n fun l =>
      { l with
        state := .active, retrain := false, settings := true, stepAt := d.now, txSeq := 0, ackSeq := 0xFFF,
        replay := [], resend := [], sent := [], flits := 0, discarding := false, nak := false, nakCount := 0,
        limit := (List.range 5).map fun v => (v, p.buffers.getD v 0),
        granted := (List.range 5).map fun v => (v, ownBuffers.getD v 0),
        misses := 0, checkedHb := l.rxHb, checkAt := d.now, retrainDue := 0, badRun := 0, badAt := [], withheld := [], ctrl := [] }) n 5 0

/-- IDENTIFY ends when the partner is accepted and two heartbeat counts have come. -/
def linkMaybeActive (d : Dev) (n : Nat) : Dev :=
  let l := d.link n
  if l.state = .identify ∧ l.partner.isSome = true ∧ l.refused = none ∧ 2 ≤ l.hbSeen then linkActivate d n else d

/-- An IDENTIFY from the partner (R267). -/
def identifyOp (d : Dev) (n : Nat) (p : Bytes) : Dev :=
  let l := d.link n
  if l.refused = some p then d
  else if partnerRefused d (partnerOf p) then
    logEv (d.onLink n fun l => { l with refused := some p, partner := none }) 0x0402 (dieOfLink n) (toLe 1 n ++ toLe 1 2)
  else linkMaybeActive (d.onLink n fun l => { l with refused := none, partner := some (partnerOf p) }) n

/-- IDENTIFY_RECEIVED (R267). -/
def execIdentifyReceived (link : Nat) (payload : Bytes) (s : State) : Out :=
  s.act fun d => d.when (d.linkUp link && (d.link link).state == .identify) fun d =>
    identifyOp d link (padTo 240 payload)

/-- The running training step of a link has overrun its bound (Table 10-8, R268). -/
def linkOverrun (d : Dev) (n : Nat) : Bool :=
  let l := d.link n
  match l.state with
  | .equalise => d.due l.stepAt (if l.retrain then 1800000 else 5000000)
  | .align => d.due l.stepAt 100000
  | .identify => decide (1 ≤ l.hbSeen) && l.refused.isNone && d.due l.hbFirst 10000
  | _ => false

/-- LINK_TRAINING_TIMEOUT (R268): back to DETECT; a training failure is counted, and is a health input for a link that
was ACTIVE (Table 13-4). -/
def execLinkTrainingTimeout (link : Nat) (s : State) : Out :=
  s.act fun d => d.when (d.linkUp link && linkOverrun d link) fun d =>
    let was := (d.link link).settings
    let d := (fixedCount d (dieOfLink link) (44 + link % 4) 1).onLink link fun l =>
      { l with state := .detect, retrain := false, stepAt := d.now, told := false, failures := inc48 l.failures,
               partner := none, hbSeen := 0, identAt := none, settings := false }
    if was then d.onMbr fun m => { m with retrains := d.now :: m.retrains } else d

/-- LINK_RETRAIN (R268): 1, 8 uncorrectable codewords in a row; 2, more than 16 in 1,000,000 ticks; 3, the 8th NAK for one
SEQ. -/
def execLinkRetrain (link trigger : Nat) (s : State) : Out :=
  s.act fun d =>
    d.when (d.active link && trigger != 0 && (d.link link).retrainDue == trigger) fun d =>
      linkRetrainOp d link trigger

/-- RETRAIN_REQUEST (R268). -/
def execRetrainRequest (link : Nat) (s : State) : Out :=
  s.act fun d => d.when (d.active link) fun d => linkRetrainOp d link 4

/-- LINK_LOSS_OF_SIGNAL (R268): down, then DETECT. -/
def execLinkLossOfSignal (link : Nat) (s : State) : Out :=
  s.act fun d =>
    d.when (d.linkUp link && (d.link link).state != .disabled && (d.link link).state != .detect) fun d =>
      linkDown d link .detect 5

/-! ### Heartbeats (R269, R270) -/

/-- HEARTBEAT_ADVANCE (R269): not while the die receives no liveness beat. -/
def execHeartbeatAdvance (link : Nat) (s : State) : Out :=
  s.act fun d =>
    let l := d.link link
    d.when (d.linkUp link && (l.state == .active || l.state == .identify) && d.due l.hbAt 1000 &&
        !(tget false d.dies.beatLost (dieOfLink link))) fun d =>
      d.onLink link fun l => { l with hb := (l.hb + 1) % 16, hbAt := d.now }

/-- HEARTBEAT_CHECK (R270): the 16th consecutive miss takes the link down. -/
def execHeartbeatCheck (link : Nat) (s : State) : Out :=
  s.act fun d =>
    let l := d.link link
    d.when (d.active link && d.due l.checkAt 1000) fun d =>
      if l.rxHb = l.checkedHb then
        if 15 ≤ l.misses then linkDown d link .detect 6
        else d.onLink link fun l => { l with misses := l.misses + 1, checkAt := d.now }
      else d.onLink link fun l => { l with misses := 0, checkedHb := l.rxHb, checkAt := d.now }

/-! ### Receiving flits (R259 to R265) -/

/-- The message in assembly on a link's VC. -/
def assembling (n vc : Nat) (m : FMsg) : Bool := m.inLink == some n && m.vc == vc && !m.eom

/-- Flits of a message leave the receive buffer. -/
def freeFlits (d : Dev) (m : FMsg) (upTo : Nat) : Dev :=
  match m.inLink with
  | none => d
  | some n =>
    if d.active n then
      let d := if m.eom && decide (m.freed < m.chunks.length) && decide (m.chunks.length ≤ upTo) then
          sampleDeq d (vcQueue n m.vc) (d.now - m.headAt) else d
      (giveBack d n m.vc (upTo - m.freed)).onFab fun x =>
        { x with msgs := modWhere (·.id == m.id) (fun m => { m with freed := max m.freed upTo }) x.msgs }
    else d

/-- The flits between SOM and EOM make a message (R271, R272): FLITS agrees with them, only the last holds less than 240
bytes, and it holds 48 to 294,912 bytes. -/
def framesOk (chunks : List Bytes) : Bool :=
  msgFlits (chunks.headD []) == chunks.length && decide (chunks.length ≤ 1229) && decide (48 ≤ chunks.flatten.length) &&
    decide (chunks.flatten.length ≤ 294912) && chunks.dropLast.all fun c => c.length == 240

/-- A data flit accepted in order enters its message (R261). A message that is being discarded frees its flits at once. A new
SOM ends a message whose EOM has not come; a message in transit that fails its framing check is ended like an aborted one. -/
def dataFlit (d : Dev) (n : Nat) (f : Bytes) : Dev :=
  let h := flitHdr f
  let vc := flitVc f
  let som := bitOf h 38
  let eom := bitOf h 39
  let abort := bitOf h 34
  let chunk := cut f 12 (flitLen f)
  let open_ := d.fab.msgs.find? (assembling n vc)
  let d := bandwidth (laneCount (laneCount d n 0x1410 1) n 0x1430 chunk.length) (0xF200 + n) 256
  if som then
    let d := sampleEnq d (vcQueue n vc)
    let d := match open_ with
      | some m => msgSweep (d.onFab fun x =>
          { x with msgs := modWhere (·.id == m.id) (fun m => { m with eom := true, aborted := true, misframed := true }) x.msgs })
      | none => d
    d.onFab fun x =>
      { x with
        msgs := x.msgs ++
          [{ id := x.nextMsg, inLink := some n, vc := vc, chunks := [chunk], eom := eom, aborted := eom && abort,
             entry := routeEntry d (msgDest chunk), service := bitsOf (fld chunk 4 4) 23 3, subscriber := 0, stamp := d.now, wait := d.regs.escapeWait,
             headAt := d.now, lastAt := d.now }]
        nextMsg := x.nextMsg + 1 }
  else
    match open_ with
    | none => giveBack (d.onLink n fun l => { l with framing := inc48 l.framing }) n vc 1
    | some m =>
      let ends := eom && abort
      let whole := m.chunks ++ [chunk]
      let bad := eom && !abort && m.route != .here && !(framesOk whole)
      let d := if ends || bad then giveBack d n vc 1 else d
      let m' := { m with chunks := if ends || bad then m.chunks else whole, eom := eom,
                         aborted := m.aborted || ends || bad, misframed := bad, lastAt := d.now }
      let d := d.onFab fun x => { x with msgs := modWhere (·.id == m.id) (fun _ => m') x.msgs }
      if m.route = .discard then
        let d := freeFlits d m' m'.chunks.length
        if eom then d.onFab fun x => { x with msgs := dropWhere (·.id == m.id) x.msgs } else d
      else d

/-- The 8th NAK for one SEQ asks for a retrain (R263). -/
def nakCounted (l : Link) : Link := if 8 ≤ l.nakCount then retrainNote l 3 else l

/-- A flit is discarded: NAK goes into the next header, once until the flit asked for arrives (R263). -/
def nakSet (d : Dev) (n : Nat) : Dev :=
  let d := if (d.link n).discarding then d else laneCount d n 0x1450 1
  d.onLink n fun l =>
    if l.discarding then l else nakCounted { l with discarding := true, nak := true, nakCount := l.nakCount + 1, nakAt := d.now }

/-- Fields of every good header: acknowledgement, credit, heartbeat and NAK (R262 to R265, R270). -/
def headerFields (l : Link) (f : Bytes) : Link :=
  let h := flitHdr f
  let ack := flitAck f
  let keep := if l.replay.any (·.1 == ack) then (l.replay.dropWhile (·.1 != ack)).drop 1 else l.replay
  let cvc := bitsOf h 57 3
  { l with
    replay := keep
    resend := if bitOf h 56 then keep.map (·.1) else l.resend.filter fun k => keep.any (·.1 == k)
    limit := if cvc < 5 then tput 0 l.limit cvc (bitsOf h 60 12) else l.limit
    rxHb := bitsOf h 52 4 }

/-- A heartbeat count seen while IDENTIFY runs (R266 step 4). -/
def identHeartbeat (d : Dev) (n : Nat) (f : Bytes) : Dev :=
  let hb := bitsOf (flitHdr f) 52 4
  linkMaybeActive (d.onLink n fun l =>
    if hb = l.rxHb then l
    else { l with rxHb := hb, hbSeen := l.hbSeen + 1, hbFirst := if l.hbSeen = 0 then d.now else l.hbFirst }) n

/-- A good flit on an ACTIVE link. -/
def goodFlit (d : Dev) (n : Nat) (f : Bytes) : Dev :=
  let d := d.onLink n fun l => headerFields l f
  let l := d.link n
  match flitType f with
  | 1 =>
    if flitSeq f = (l.ackSeq + 1) % 4096 then
      dataFlit (d.onLink n fun l => { l with ackSeq := flitSeq f, discarding := false, nakCount := 0 }) n f
    else nakSet d n
  | 2 => if fld f 12 1 = 3 then linkRetrainOp d n 4 else d
  | _ => d

/-- The states in which a link's receiver has found its codewords (Table 10-8). -/
def flitStates : List LinkState := [.identify, .active]

/-- The codeword in which the flit at a superframe position lies whole, when it is the first such flit (R257, R258: a codeword
carries 5,140 bits, a flit 2,048). -/
def firstOfCodeword (p : Nat) : Bool :=
  decide (2048 * p / 5140 = (2048 * p + 2047) / 5140) && (p == 0 || decide (2048 * (p - 1) < 2048 * p / 5140 * 5140))

/-- R268: every codeword holds a whole flit, and the first one shows whether the decoder corrected the codeword. -/
def codewordSeen (d : Dev) (n : Nat) (bad : Bool) : Dev :=
  let l := d.link n
  let first := firstOfCodeword l.rxPos
  let d := d.onLink n fun l => { l with rxPos := (l.rxPos + 1) % superframe }
  if first && l.state == .active then
    if bad then
      (laneCount d n 0x1460 1).onLink n fun l =>
        let l := { l with badRun := l.badRun + 1, badAt := d.now :: l.badAt.filter fun t => decide (d.now < t + 1000000) }
        if 8 ≤ l.badRun then retrainNote l 1 else if 16 < l.badAt.length then retrainNote l 2 else l
    else d.onLink n fun l => { l with badRun := 0 }
  else d

/-- FLIT_RECEIVE (R259, R263): `bad` says that the flit lay in a codeword that could not be corrected. -/
def execFlitReceive (link : Nat) (flit : Bytes) (bad : Bool) (s : State) : Out :=
  s.act fun d =>
    let d := if d.linkUp link && flitStates.contains (d.link link).state then codewordSeen d link bad else d
    if d.active link then if bad || !(flitGood flit) then nakSet d link else goodFlit d link flit
    else if d.linkUp link && (d.link link).state == .identify && !bad && flitGood flit then
      let d := identHeartbeat d link flit
      if flitType flit = 2 ∧ fld flit 12 1 = 2 ∧ (d.link link).state = .identify then identifyOp d link (cut flit 12 240) else d
    else if d.linkUp link && (d.link link).state == .align && !bad && flitGood flit && flitType flit == 2 && fld flit 12 1 == 1 then
      d.onLink link fun l => { l with rxPos := (fld flit 14 2 + 1) % superframe }
    else d

/-- NAK_RESEND_TIMEOUT (R263): NAK again after 100 ticks; the 8th is LINK_RETRAIN's trigger. -/
def execNakResendTimeout (link : Nat) (s : State) : Out :=
  s.act fun d =>
    let l := d.link link
    d.when (d.active link && l.discarding && d.due l.nakAt 100) fun d =>
      d.onLink link fun l => nakCounted { l with nak := true, nakCount := l.nakCount + 1, nakAt := d.now }

/-- ABORT_FLIT (R281): the aborted message is discarded here; when it was being forwarded, an ABORT flit follows it. -/
def execAbortFlit (link vc : Nat) (s : State) : Out :=
  s.act fun d =>
    match d.fab.msgs.find? fun m => m.inLink == some link && m.vc == vc && m.aborted with
    | none => d
    | some m =>
      let d := freeFlits (countLost d m) m m.chunks.length
      match m.route with
      | .out _ _ => if m.sent = 0 then d.onFab fun x => { x with msgs := dropWhere (·.id == m.id) x.msgs } else d
      | _ => d.onFab fun x => { x with msgs := dropWhere (·.id == m.id) x.msgs }

end Sys2Proof.Machine
end

