-- ==== Sys2Proof/Machine/Fabric.lean ====
section
/-! DEFINITION. Routing of message heads (R271 to R281), the egress scheduler (R319 to R330) and the host port. -/

namespace Sys2Proof.Machine

/-- A message in flits of at most 240 bytes. -/
def chunksOf : Nat → Bytes → List Bytes
  | 0, _ => []
  | n + 1, b => b.take 240 :: chunksOf n (b.drop 240)

/-- Flits of a message of `n` bytes. -/
def flitCount (n : Nat) : Nat := (n + 239) / 240

/-- Rewrite the first flit's data of a message. -/
def onHead (m : FMsg) (f : Bytes → Bytes) : FMsg :=
  match m.chunks with
  | [] => m
  | c :: cs => { m with chunks := f c :: cs }

/-- Set ESCAPED (R277). -/
def setEscaped (b : Bytes) : Bytes := setAt b 4 (toLe 4 (fld b 4 4 % 2 ^ 26 + 2 ^ 26))

/-- HOPS advances by one; ESCAPED may be set (R276, R277). -/
def stampHop (escaped : Bool) (b : Bytes) : Bytes :=
  let b := setAt b 0 (toLe 4 (fld b 0 4 % 2 ^ 20 + 2 ^ 20 * ((msgHops b + 1) % 64)))
  if escaped then setEscaped b else b

/-! ### Choosing an output link (R273 to R278) -/

def entryValid (e : Nat) : Bool := bitOf e 63
def entryEscape (e : Nat) : Nat := bitsOf e 58 5
def entryLinks (e : Nat) : List Nat := (List.range (bitsOf e 40 3 + 1)).map fun q => bitsOf e (5 * q) 5

/-- Membership lists a node as LIVE (R18). -/
def Dev.live (d : Dev) (node : Nat) : Bool := match tfind d.mbr.view node with | some m => m.live | none => false

/-- Credits left on a link's VC, 0 when the difference is out of range (R265). -/
def credits (d : Dev) (n vc : Nat) : Nat :=
  let l := d.link n
  let k := (tget 0 l.limit vc + 4096 - tget 0 l.sent vc) % 4096
  if k ≤ 2047 then k else 0

/-- Messages queued for a link's VC. -/
def queuedOn (d : Dev) (n vc : Nat) : List FMsg := d.fab.msgs.filter (·.route == .out n vc)

/-- Flits of a message (its header's FLITS; what has arrived, when the header is short). -/
def flitsOf (m : FMsg) : Nat := max (msgFlits (headOf m)) m.chunks.length

/-- Flits queued for a link's VC plus flits sent and not yet credited (R276). -/
def backlog (d : Dev) (n vc : Nat) : Nat :=
  let buf := match (d.link n).partner with | some p => p.buffers.getD vc 0 | none => 0
  ((queuedOn d n vc).map fun m => flitsOf m - m.sent).sum + (buf - credits d n vc)

/-- Egress descriptors of a port, by VC (R340). -/
def egressDescriptors (vc : Nat) : Nat := [256, 3072, 2048, 2048, 768].getD vc 0

/-- A choice meets R276's conditions. -/
def choiceOk (d : Dev) (inLink : Option Nat) (dest n : Nat) : Bool :=
  d.active n && inLink != some n &&
    match (d.link n).partner with
    | none => false
    | some p => (p.kind == 0 || p.node == dest) && (d.live p.node || p.node == dest)

/-- A choice has credit and a descriptor on a VC. -/
def choiceCredit (d : Dev) (vc n : Nat) : Bool :=
  decide (1 ≤ credits d n vc) && decide ((queuedOn d n vc).length < egressDescriptors vc)

/-- The choice with the least backlog; a tie goes to the lower position. -/
def leastBacklog (d : Dev) (vc : Nat) : List Nat → Option Nat
  | [] => none
  | n :: ns =>
    match leastBacklog d vc ns with
    | none => some n
    | some k => if backlog d k vc < backlog d n vc then some k else some n

/-- What becomes of a head (R276 to R278). -/
inductive Choice where
  | here | go (link vc : Nat) | wait | drop
deriving DecidableEq, Repr

/-- Decide a head's way; `late` says that it has waited LNK_ESCAPE_WAIT. -/
def chooseRoute (d : Dev) (m : FMsg) (late : Bool) : Choice :=
  let b := headOf m
  let dest := msgDest b
  if dest = d.regs.nodeId then .here
  else if m.inLink.isSome ∧ msgHops b = 63 then .drop
  else
    let e := m.entry
    let esc := entryEscape e
    if entryValid e = false then .drop
    else if m.vc = 4 then
      if d.active esc then (if choiceCredit d 4 esc then .go esc 4 else .wait) else .drop
    else
      let ok := (entryLinks e).filter (choiceOk d m.inLink dest)
      let pick := if m.vc = 0 then ok.head?.filter (choiceCredit d 0) else leastBacklog d m.vc (ok.filter (choiceCredit d m.vc))
      match pick with
      | some n => .go n m.vc
      | none =>
        if d.active esc then (if late && choiceCredit d 4 esc then .go esc 4 else .wait)
        else if ok.isEmpty then .drop
        else .wait

/-- Replace a message in the router. -/
def setMsg (d : Dev) (m : FMsg) : Dev :=
  d.onFab fun x => { x with msgs := modWhere (·.id == m.id) (fun _ => m) x.msgs }

/-- Count a discarded head (R278): on its input link, or as one of the node's own. -/
def countUnroutable (d : Dev) (m : FMsg) : Dev :=
  match m.inLink with
  | some n => d.onLink n fun l => { l with unroutable := inc48 l.unroutable }
  | none => d.onFab fun x => { x with ownDiscards := inc48 x.ownDiscards }

/-- Send a head on its way. -/
def routeMsg (d : Dev) (m : FMsg) (late : Bool) : Dev :=
  match chooseRoute d m late with
  | .here => setMsg d { m with route := .here }
  | .wait => setMsg d { m with route := .waiting }
  | .drop => msgSweep (countUnroutable (setMsg d { m with route := .discard, counted := true }) m)
  | .go n vc => sampleEnq (setMsg d { m with route := .out n vc, stamp := d.now }) (portQueue n m.service)

/-- What a transit node checks of a head beside DEST and HOPS (R271, R272): ORIG_VC is 0 to 3, ESCAPED is set on VC4 alone,
and FLITS is in range (DESIGN CHOICE, notes/assumptions/105.md). -/
def transitOk (m : FMsg) : Bool :=
  let b := headOf m
  decide (16 ≤ b.length) && decide (msgOrigVc b < 4) && msgEscaped b == (m.vc == 4) && decide (1 ≤ msgFlits b) &&
    decide (msgFlits b ≤ 1229)

/-- MESSAGE_HEAD_ROUTE (R272, R276). -/
def execMessageHeadRoute (head : Nat) (s : State) : Out :=
  s.act fun d =>
    match d.fab.msgs.find? fun m => m.id == head && m.route == .arrived with
    | none => d
    | some m =>
      if m.inLink.isSome && msgDest (headOf m) != d.regs.nodeId && !(transitOk m) then
        msgSweep (setMsg d { m with route := .discard, misframed := true })
      else routeMsg d m false

/-- HEAD_REEVALUATE (R277): at a credit return or a change of link state or membership. -/
def execHeadReevaluate (head : Nat) (s : State) : Out :=
  s.act fun d =>
    match d.fab.msgs.find? fun m => m.id == head && m.route == .waiting with
    | none => d
    | some m => routeMsg d m (d.due m.stamp m.wait)

/-- ESCAPE_WAIT_EXPIRY (R277). -/
def execEscapeWaitExpiry (head : Nat) (s : State) : Out :=
  s.act fun d =>
    match d.fab.msgs.find? fun m => m.id == head && m.route == .waiting with
    | none => d
    | some m => d.when (d.due m.stamp m.wait) fun d => routeMsg d m true

/-! ### Token buckets (R323, R327, R328) -/

/-- A bucket's tokens now, up to its depth in hundredths of a byte. -/
def tokensNow (b : Bucket) (rate depth now : Nat) : Int :=
  min (depth : Int) (b.tokens + (rate * (now - b.at_) : Nat))

/-- Debit a bucket of a number of bytes. -/
def bucketDebit (b : Bucket) (rate depth now bytes : Nat) : Bucket :=
  { tokens := tokensNow b rate depth now - (100 * bytes : Nat), at_ := now }

def subKey (port sub : Nat) : Nat := port * 2048 + sub
def subRec (d : Dev) (port sub : Nat) : SubRec := tget {} d.fab.subs (subKey port sub)

/-- A subscriber's shaper holds at least zero tokens, or it has none. -/
def shaperOk (d : Dev) (port sub : Nat) : Bool :=
  let r := subRec d port sub
  r.rate == 0 || decide (0 ≤ tokensNow (tget {} d.fab.shapers (subKey port sub)) r.rate (r.burst * 102400) d.now)

/-- Rate of a composition's guarantee bucket on a link port: the shares of its slices (R327). -/
def guaranteeRate (d : Dev) (c : Nat) : Nat :=
  let k := tget ({} : Composition) d.mbr.compositions c
  k.share * k.slices.length

/-- A subscriber draws on a guarantee that holds at least zero tokens (R325 step 2). -/
def guaranteeOk (d : Dev) (port sub : Nat) : Bool :=
  let c := (subRec d port sub).composition
  decide (port < 32) && decide (c < 64) &&
    decide (0 ≤ tokensNow (tget {} d.fab.guarantees (port * 64 + c)) (guaranteeRate d c) 6553600 d.now)

/-! ### Deficit round robin (R325, R326) -/

/-- Rounds a queue needs before its deficit is positive. -/
def drrRounds (deficit : Int) (quantum : Nat) : Nat :=
  if 0 < deficit then 0 else ((-deficit).toNat / (max quantum 1)) + 1

/-- The least number of a list. -/
def minOf : List Nat → Nat
  | [] => 0
  | [a] => a
  | a :: l => min a (minOf l)

/-- Whose turn it is: the candidate, in cyclic order from the last served, that has a positive deficit after the fewest
rounds; and the rounds granted to every candidate. -/
def drrPick (cands : List Nat) (deficit : Nat → Int) (quantum : Nat → Nat) (last : Nat) : Option (Nat × Nat) :=
  let rounds := minOf (cands.map fun c => drrRounds (deficit c) (quantum c))
  let order := cands.filter (last ≤ ·) ++ cands.filter (· < last)
  match order.find? fun c => decide (0 < deficit c + (rounds * quantum c : Nat)) with
  | some c => some (c, rounds)
  | none => none

/-- Default weights of Table 12-3. -/
def defaultWeight (service : Nat) : Nat := [1, 1, 1, 8, 8, 4, 2, 1].getD service 1

def serviceWeight (d : Dev) (port service : Nat) : Nat :=
  let w := tget 0 d.fab.weights (port * 8 + service)
  if w = 0 then defaultWeight service else w

def serviceQuantum (d : Dev) (port service : Nat) : Nat := serviceWeight d port service * 64 * 256
def subQuantum (d : Dev) (port sub : Nat) : Nat := (subRec d port sub).weight * 8 * 256
def subDrrKey (port service sub : Nat) : Nat := (port * 8 + service) * 2048 + sub

/-- Grant rounds to services and then to subscribers, and take the turn. -/
def grantService (d : Dev) (port : Nat) (services : List Nat) (rounds chosen : Nat) : Dev :=
  d.onFab fun x =>
    { x with
      serviceTurn := tput 0 x.serviceTurn port chosen
      serviceDeficit := services.foldl (fun t s =>
        tmod 0 t (port * 8 + s) fun v => v + (rounds * serviceQuantum d port s : Nat)) x.serviceDeficit }

def grantSub (d : Dev) (port service : Nat) (subs : List Nat) (rounds chosen : Nat) : Dev :=
  d.onFab fun x =>
    { x with
      subTurn := tput 0 x.subTurn (port * 8 + service) chosen
      subDeficit := subs.foldl (fun t s =>
        tmod 0 t (subDrrKey port service s) fun v => v + (rounds * subQuantum d port s : Nat)) x.subDeficit }

/-- A queue head that may leave a port: its service, subscriber, enqueue stamp, charge in bytes, and its number. -/
structure Cand where
  service : Nat
  sub : Nat
  stamp : Nat
  charge : Nat
  id : Nat
  /-- it is a message in progress -/
  started : Bool
deriving DecidableEq, Repr

/-- The subscriber's turn within a service: the device with rounds granted, and the candidate. -/
def pickSub (d : Dev) (port service : Nat) (cs : List Cand) : Dev × Option Cand :=
  let cs := cs.filter (·.service == service)
  let subs := (cs.map (·.sub)).eraseDups
  match drrPick subs (fun u => tget 0 d.fab.subDeficit (subDrrKey port service u)) (subQuantum d port)
      (tget 0 d.fab.subTurn (port * 8 + service)) with
  | none => (d, none)
  | some (u, r) => (grantSub d port service subs r u, cs.find? (·.sub == u))

/-- The oldest of a list of candidates. -/
def oldest : List Cand → Option Cand
  | [] => none
  | c :: cs =>
    match oldest cs with
    | none => some c
    | some k => if k.stamp < c.stamp then some k else some c

/-- R325: the candidate chosen, and whether a guarantee paid for it. -/
def pickCand (d : Dev) (port : Nat) (cs : List Cand) : Dev × Option (Cand × Bool) :=
  let strict := fun (sv : Nat) =>
    let here := cs.filter (·.service == sv)
    (here.find? (·.started), here)
  let tryStrict := fun (sv : Nat) =>
    match strict sv with
    | (some c, _) => (d, some (c, false))
    | (none, here) =>
      match pickSub d port sv here with
      | (d', some c) => (d', some (c, false))
      | (d', none) => (d', none)
  match tryStrict 0 with
  | (d', some r) => (d', some r)
  | _ =>
    match tryStrict 1 with
    | (d', some r) => (d', some r)
    | _ =>
      match tryStrict 2 with
      | (d', some r) => (d', some r)
      | _ =>
        let weighted := cs.filter fun c => decide (3 ≤ c.service)
        match oldest (weighted.filter fun c => guaranteeOk d port c.sub && (c.started || shaperOk d port c.sub)) with
        | some c => (d, some (c, true))
        | none =>
          match weighted.find? (·.started) with
          | some c => (d, some (c, false))
          | none =>
            let fresh := weighted.filter fun c => shaperOk d port c.sub
            let services := (fresh.map (·.service)).eraseDups
            match drrPick services (fun s => tget 0 d.fab.serviceDeficit (port * 8 + s)) (serviceQuantum d port)
                (tget 0 d.fab.serviceTurn port) with
            | none => (d, none)
            | some (sv, r) =>
              match pickSub (grantService d port services r sv) port sv fresh with
              | (d', some c) => (d', some (c, false))
              | (d', none) => (d', none)

/-- Charge a message when its first flit is sent (R326). -/
def chargeCand (d : Dev) (port : Nat) (c : Cand) (guaranteed : Bool) : Dev :=
  let r := subRec d port c.sub
  let comp := r.composition
  d.onFab fun x =>
    { x with
      subDeficit := tmod 0 x.subDeficit (subDrrKey port c.service c.sub) fun v => v - (c.charge : Int)
      serviceDeficit := if 3 ≤ c.service then tmod 0 x.serviceDeficit (port * 8 + c.service) fun v => v - (c.charge : Int)
        else x.serviceDeficit
      shapers := if 3 ≤ c.service ∧ r.rate ≠ 0 then
          tmod {} x.shapers (subKey port c.sub) fun b => bucketDebit b r.rate (r.burst * 102400) d.now c.charge
        else x.shapers
      guarantees := if guaranteed then
          tmod {} x.guarantees (port * 64 + comp) fun b => bucketDebit b (guaranteeRate d comp) 6553600 d.now c.charge
        else x.guarantees }

/-! ### Link ports (R324) -/

/-- A message has a flit to send now. -/
def hasFlit (m : FMsg) : Bool := decide (m.sent < m.chunks.length) || m.aborted

def candOf (m : FMsg) : Cand :=
  { service := m.service, sub := m.subscriber, stamp := m.stamp, charge := flitsOf m * 256, id := m.id,
    started := decide (0 < m.sent) }

/-- Candidates of one VC: the message in progress, or the heads of its queues; each needs a credit. -/
def vcCands (d : Dev) (n vc : Nat) : List Cand :=
  if credits d n vc = 0 then []
  else
    let q := queuedOn d n vc
    match q.find? fun m => decide (0 < m.sent) with
    | some m => if hasFlit m then [candOf m] else []
    | none =>
      let heads := q.filter fun m =>
        (q.find? fun k => k.service == m.service && k.subscriber == m.subscriber).any (·.id == m.id)
      (heads.filter hasFlit).map candOf

/-- Rebuild a buffered flit with fresh header fields. -/
def kindOf (f : Bytes) : FlitKind :=
  let h := flitHdr f
  { ftype := flitType f, vc := flitVc f, som := bitOf h 38, eom := bitOf h 39, abort := bitOf h 34, seq := flitSeq f,
    payload := cut f 12 (flitLen f) }

/-- HOPS advances by one at each node that forwards, and a head that leaves on VC4 has ESCAPED set (R276, R277). -/
def stampHead (m : FMsg) (vc : Nat) : FMsg :=
  if m.sent ≠ 0 then m
  else if m.inLink.isSome then onHead m (stampHop (vc == 4))
  else if vc = 4 then onHead m setEscaped
  else m

/-- TX_TICK of an own message is the tick of its first flit (Table 11-1). -/
def stampTx (m : FMsg) (now : Nat) : FMsg :=
  if m.inLink.isNone ∧ m.sent = 0 then onHead m fun b => setAt b 0x28 (toLe 4 now) else m

/-- The connection learns the tick at which its DATA message was handed to a link (R303, Table 11-1). -/
def noteTx (d : Dev) (m : FMsg) : Dev :=
  match m.conn with
  | some (i, q) =>
    if m.sent = 0 then
      d.onConn i fun c => { c with sent := modWhere (·.seq == q) (fun t => { t with sentAt := d.now }) c.sent }
    else d
  | none => d

/-- Send the next flit of a message on its link. -/
def sendNext (d : Dev) (n : Nat) (m : FMsg) : Dev :=
  let d := noteTx d m
  let vc := match m.route with | .out _ v => v | _ => m.vc
  let m := stampHead (stampTx m d.now) vc
  let ending := m.aborted && decide (m.chunks.length ≤ m.sent)
  let last := ending || (m.eom && !m.aborted && decide (m.sent + 1 = m.chunks.length))
  let l := d.link n
  let k : FlitKind := { ftype := 1, vc := vc, som := decide (m.sent = 0), eom := last, abort := ending, seq := l.txSeq,
                        payload := if ending then [] else m.chunks.getD m.sent [] }
  let d := d.onLink n fun l =>
    { laneSend l k with
      txSeq := (l.txSeq + 1) % 4096, sent := tmod 0 l.sent vc fun v => (v + 1) % 4096
      replay := l.replay ++ [(l.txSeq, flitBytes l k)] }
  let d := bandwidth (laneCount (laneCount d n 0x1400 1) n 0x1420 k.payload.length) (0xF100 + n) 256
  let d := if m.sent = 0 ∧ vc = 4 then laneCount d n 0x1480 1 else d
  let m' := { m with sent := m.sent + 1 }
  let d := freeFlits (setMsg d m') m' (min m'.sent m'.chunks.length)
  if last then d.onFab fun x => { x with msgs := dropWhere (·.id == m.id) x.msgs } else d

/-- The ALIGN flit of a superframe position (Table 10-6). -/
def alignPayload (pos : Nat) : Bytes := padTo 240 (toLe 2 1 ++ toLe 2 pos)

/-- FLIT_SLOT (R324): replay, data, then control or idle. In ALIGN the flits are ALIGN flits, and in IDENTIFY, where no data
flit may go, idle ones (R260, R266). -/
def execFlitSlot (link : Nat) (s : State) : Out :=
  s.act fun d =>
    let l := d.link link
    if d.linkUp link = true ∧ l.state = .align then
      d.onLink link fun l => laneSend l { ftype := 2, seq := l.txSeq, payload := alignPayload l.txPos }
    else if d.linkUp link = true ∧ l.state = .identify then d.onLink link fun l => laneSend l { ftype := 0, seq := l.txSeq }
    else d.when (d.active link) fun d =>
    match l.resend with
    | q :: rest =>
      match l.replay.find? (·.1 == q) with
      | some (_, f) => (laneCount d link 0x1440 1).onLink link fun l => { laneSend l (kindOf f) with resend := rest }
      | none => d.onLink link fun l => { l with resend := rest }
    | [] =>
      let cs := if l.replay.length < 1024 then (List.range 5).flatMap (vcCands d link) else []
      match pickCand d link cs with
      | (d', some (c, g)) =>
        match d'.fab.msgs.find? (·.id == c.id) with
        | some m =>
          let d' := if c.started then d' else
            laneCount (sampleDeq (chargeCand d' link c g) (portQueue link c.service) (d.now - c.stamp)) link
              (0x1C00 + 0x10 * c.service) c.charge
          sendNext d' link m
        | none => d'
      | (_, none) =>
        match l.ctrl with
        | p :: rest => d.onLink link fun l => { laneSend l { ftype := 2, seq := l.txSeq, payload := p } with ctrl := rest }
        | [] => d.onLink link fun l => laneSend l { ftype := 0, seq := l.txSeq }

/-! ### Host port (R329) -/

/-- Charged size of a transfer of the host port: its payload in whole 64-byte units (R323). -/
def hostCharge (x : HostXfer) : Nat :=
  let n := match x with
    | .write _ b => b.length
    | .uioWrite _ _ b => b.length
    | .mailbox _ b => b.length
    | .msi _ => 4
    | .context _ _ => 256
    | _ => 0
  (n + 63) / 64 * 64

/-- Candidates of the host port: the heads of its queues; service 6 gives way while a demand tier-2 read waits. -/
def hostCands (d : Dev) : List Cand :=
  let q := d.hif.queue
  let demand := q.any (·.service == 3)
  let idx := (List.range q.length).filterMap fun i =>
    match q[i]? with
    | none => none
    | some w =>
      if (q.take i).any (fun v => v.service == w.service && v.subscriber == w.subscriber) then none
      else if demand && w.service == 6 then none
      else some { service := w.service, sub := w.subscriber, stamp := w.stamp, charge := hostCharge w.xfer, id := i,
                  started := false }
  idx

/-- HOST_PORT_SCHEDULE (R329): the controller has room for one transfer. -/
def execHostPortSchedule (s : State) : Out :=
  s.act fun d => d.when d.hostUp fun d =>
    match pickCand d 32 (hostCands d) with
    | (d', some (c, g)) =>
      match d'.hif.queue[c.id]? with
      | none => d'
      | some w =>
        let d' := sampleDeq (chargeCand d' 32 c g) (portQueue 32 c.service) (d.now - c.stamp)
        let d' := bandwidth (count d' Config.clover (0x2880 + 0x10 * c.service) c.charge) 0xF120 c.charge
        d'.onHif fun h => { h with queue := h.queue.eraseIdx c.id, pin := some w.xfer }
    | (_, none) => d

end Sys2Proof.Machine
end

