-- ==== Sys2Proof/Machine/TransportOps.lean ====
section
/-! DEFINITION. Shared operations of the reliable transport: building and sending messages, connections, windows,
acknowledgements and teardown (spec 11). -/

namespace Sys2Proof.Machine

/-! ### Building messages -/

/-- The Campion die that holds a connection's context (spec 11, The connection cache). -/
def homeDie (i : Nat) : Nat := 16 + i % 8

/-- In place of a connection: a message of the node to itself. -/
def ownConn : Nat := 1048576

/-- In place of a connection: the one that carried the work has been torn down (R291). -/
def goneConn : Nat := 1048577

/-- A connection's generation (R289). -/
def connGen (d : Dev) (i : Nat) : Nat := m32 ((Config.connGeneration d.bootDraw).toNat + (d.conn i).gens)

/-- A domain as this node sees it. -/
def Dev.domain (d : Dev) (f : Nat) : Domain := tget {} d.mbr.domains f

/-- The node's membership epoch: that of its own failure domain (R347). -/
def nodeEpoch (d : Dev) : Nat := (d.domain d.mbr.domain).epoch

/-- The route header of a message of the node's own (Table 10-11). -/
def routeHeader (d : Dev) (dest vc service tenant bytes : Nat) : Bytes :=
  toLe 4 (dest % 2 ^ 20) ++ toLe 4 (d.regs.nodeId + 2 ^ 20 * vc + 2 ^ 23 * service) ++ toLe 4 (nodeEpoch d) ++
    toLe 2 tenant ++ toLe 2 (flitCount bytes)

/-- What distinguishes one transport header from another (Table 11-1). -/
structure THdr where
  ttype : Nat
  tflags : Nat := 0
  dstConn : Nat := 0
  dstGen : Nat := 0
  srcConn : Nat := 0
  seq : Nat := 0
  ack : Nat := 0
  echo : Nat := 0
deriving DecidableEq, Repr

/-- The transport header; TX_TICK is set when the first flit goes to a link. -/
def thdrBytes (h : THdr) : Bytes :=
  toLe 1 h.ttype ++ toLe 1 h.tflags ++ zeros 2 ++ toLe 4 h.dstConn ++ toLe 4 h.dstGen ++ toLe 4 h.srcConn ++
    toLe 4 h.seq ++ toLe 4 h.ack ++ zeros 4 ++ toLe 4 h.echo

/-- A whole message of the node's own. -/
def buildMsg (d : Dev) (dest vc service tenant : Nat) (h : THdr) (body : Bytes) : Bytes :=
  routeHeader d dest vc service tenant (48 + body.length) ++ thdrBytes h ++ body

/-! ### Fields of a message -/

def msgType (b : Bytes) : Nat := fld b 0x10 1
def msgTflags (b : Bytes) : Nat := fld b 0x11 1
def msgDstConn (b : Bytes) : Nat := fld b 0x14 4 % 2 ^ 20
def msgDstGen (b : Bytes) : Nat := fld b 0x18 4
def msgSrcConn (b : Bytes) : Nat := fld b 0x1C 4 % 2 ^ 20
def msgSeq (b : Bytes) : Nat := fld b 0x20 4
def msgAck (b : Bytes) : Nat := fld b 0x24 4
def msgTx (b : Bytes) : Nat := fld b 0x28 4
def msgEcho (b : Bytes) : Nat := fld b 0x2C 4
/-- The body of a message (offset 0x30). -/
def msgBody (b : Bytes) : Bytes := b.drop 0x30
/-- The MSG_TYPE of a DATA or CTRL body. -/
def bodyType (b : Bytes) : Nat := fld b 0x30 1

/-- No reserved bit of the route header or the transport header is set, and no field that its TTYPE fixes at 0 (R7, Tables
10-11 and 11-1). -/
def headersOk (b : Bytes) : Bool :=
  let t := msgType b
  decide (fld b 0 4 < 2 ^ 26) && decide (fld b 4 4 < 2 ^ 27) && decide (fld b 0xE 2 < 2048) && decide (fld b 0x11 1 < 4) &&
    (t == 0 || (!(bitOf (fld b 0x11 1) 0) && fld b 0x20 4 == 0)) && (t != 1 || fld b 0x24 4 == 0) &&
    (t == 2 || t == 3 || fld b 0x2C 4 == 0) && fld b 0x12 2 == 0 && decide (fld b 0x14 4 < 2 ^ 20) &&
    decide (fld b 0x1C 4 < 2 ^ 20)

/-! ### Handing messages to the fabric -/

/-- A message enters the router as one of the node's own, and its head chooses its way. -/
def pushMsg (d : Dev) (vc service sub : Nat) (bytes : Bytes) (conn : Option (Nat × Nat)) : Dev :=
  let m : FMsg := { id := d.fab.nextMsg, inLink := none, vc := vc, chunks := chunksOf (flitCount bytes.length) bytes,
                    eom := true, service := service, subscriber := sub, stamp := d.now, wait := d.regs.escapeWait,
                    conn := conn, entry := routeEntry d (msgDest bytes) }
  routeMsg (d.onFab fun x => { x with msgs := x.msgs ++ [m], nextMsg := x.nextMsg + 1 }) m false

/-- A message enters the node's own queues, to wait for its work. -/
def inboxPush (d : Dev) (bytes : Bytes) (vc conn action inLink : Nat) : Dev :=
  d.onTr fun x =>
    { x with
      inbox := x.inbox ++ [{ id := x.nextIn, bytes := bytes, vc := vc, conn := conn, action := action, inLink := inLink,
                             at_ := d.now }]
      nextIn := x.nextIn + 1 }

/-- Send a membership message (R346): VC0, service 0, CTRL, no connection; to itself it is delivered at once. -/
def sendVc0 (d : Dev) (dest : Nat) (body : Bytes) : Dev :=
  let b := buildMsg d dest 0 0 0 { ttype := 1 } body
  if dest = d.regs.nodeId then inboxPush d b 0 ownConn 0 0 else pushMsg d 0 0 1 b none

/-- A tag of the node's own for REQUEST_ID fields. -/
def freshTag (d : Dev) : Nat × Dev :=
  (m32 (d.mbr.nextAsk + 1), d.onMbr fun m => { m with nextAsk := m32 (m.nextAsk + 1) })

/-! ### Windows (R302, R303) -/

/-- Bytes of a DATA message in flight: 48 plus its body. -/
def txBytes (t : TxMsg) : Nat := 48 + t.body.length

/-- Bytes in flight on a connection. -/
def inFlight (c : Conn) : Nat := (c.sent.map txBytes).sum

/-- A new DATA message may be sent (spec 11, Congestion control). -/
def windowOk (c : Conn) (t : TxMsg) : Bool :=
  decide (c.sent.length < 256) && (decide (inFlight c + txBytes t ≤ c.window) || c.sent.isEmpty)

/-- The context lies in its home die's cache, and the die runs. -/
def connCached (d : Dev) (i : Nat) : Bool := (tget [] d.tr.cache (homeDie i)).contains i && d.ready (homeDie i)

/-- RTO in ticks (Table 11-6). -/
def rto (c : Conn) : Nat :=
  let base := if c.sampled then max ((c.srtt8 + 4 * c.rttvar8 + 7) / 8) 1000 else 10000
  min (base * 2 ^ min c.expiries 16) 1000000

/-- A delay sample (R303). -/
def onSample (d : Dev) (dd hops acked : Nat) (c : Conn) : Conn :=
  let d8 := 8 * dd
  let rv := if c.sampled then (3 * c.rttvar8 / 4) + (max c.srtt8 d8 - min c.srtt8 d8) / 4 else d8 / 2
  let sr := if c.sampled then (7 * c.srtt8 / 8) + d8 / 8 else d8
  let c := { c with srtt8 := sr, rttvar8 := rv, sampled := true }
  let target := d.regs.ccBase + hops * d.regs.ccPerHop
  let c :=
    if dd ≤ target then { c with window := c.window + 4096 * acked / c.window }
    else if c.cutMade = false ∨ c.srtt8 ≤ (d.now - c.lastCut) * 8 then
      { c with window := c.window - 4 * c.window * (dd - target) / (5 * dd), lastCut := d.now, cutMade := true }
    else c
  { c with window := min (max c.window 4096) 16777216 }

/-! ### Sending DATA -/

/-- Hand one DATA message of a connection to the fabric. A DATA message acknowledges everything below EXPECTED; nothing
is left to acknowledge when the map holds nothing above it. -/
def transmit (d : Dev) (i : Nat) (t : TxMsg) (again : Bool) : Dev :=
  let c := d.conn i
  let h : THdr := { ttype := 0, tflags := b2n t.fence + 2 * b2n again, dstConn := c.peerConn, dstGen := c.peerGen,
                    srcConn := i, seq := t.seq, ack := c.expected }
  let b := buildMsg d c.peer t.vc t.service c.tenant h t.body
  let d := d.onConn i fun c =>
    { c with dataAt := d.now, unacked := if c.map = 0 then 0 else c.unacked }
  let d := count d (homeDie i) (if again then 0x1810 else 0x1800) 1
  pushMsg d t.vc t.service t.subscriber b (some (i, t.seq))

/-- A connection may carry DATA: OPEN or CLOSING, and its context is cached. -/
def connSends (d : Dev) (i : Nat) : Bool :=
  let c := d.conn i
  (c.state == .open_ || c.state == .closing) && connCached d i

/-- Send what the window allows, at most `n` messages. -/
def pumpN : Nat → Nat → Dev → Dev
  | 0, _, d => d
  | n + 1, i, d =>
    let c := d.conn i
    match c.queue with
    | [] => d
    | t :: rest =>
      if connSends d i && windowOk c t then
        let t := { t with seq := c.nextSeq, sentAt := d.now, resent := false }
        let d := d.onConn i fun c =>
          { c with
            queue := rest, nextSeq := m32 (c.nextSeq + 1), sent := c.sent ++ [t]
            timerAt := if c.sent.isEmpty then d.now else c.timerAt
            progressAt := if c.sent.isEmpty then d.now else c.progressAt
            expiries := if c.sent.isEmpty then 0 else c.expiries }
        pumpN n i (transmit d i t false)
      else d

/-- Send what the window of a connection allows. -/
def pump (d : Dev) (i : Nat) : Dev := pumpN (d.conn i).queue.length i d

/-- Send a DATA message again (R294, R296). -/
def resend (d : Dev) (i : Nat) (t : TxMsg) : Dev :=
  let t := { t with resent := true, sentAt := d.now, retryAt := none }
  transmit (d.onConn i fun c => { c with sent := modWhere (·.seq == t.seq) (fun _ => t) c.sent }) i t true

/-! ### The connection cache (R299 to R301) -/

/-- Something of the connection waits in the node: it is not evicted. -/
def connBusy (d : Dev) (i : Nat) : Bool :=
  d.tr.search.any (·.conn == i) || d.tr.inbox.any (·.conn == i) || d.tr.waiting.any (·.conn == i)

/-- The spill area can be reached (R301). -/
def spillUp (d : Dev) : Bool := d.regs.spillValid && d.hostUp

/-- Host address of a spilled context (R299). -/
def spillAddr (d : Dev) (i : Nat) : Nat := d.regs.spillBase + 256 * i

/-- Make a context the most recently used of its die. -/
def cacheTouch (d : Dev) (i : Nat) : Dev :=
  d.onTr fun x => { x with cache := tmod [] x.cache (homeDie i) fun l => l.erase i ++ [i] }

/-- Make room on a home die: evict the least recently used context with nothing waiting (R299); none when there is no
room. -/
def cacheRoom (d : Dev) (die : Nat) : Option Dev :=
  let l := tget [] d.tr.cache die
  if l.length < 2048 then some d
  else if spillUp d then
    match l.find? fun i => !(connBusy d i) with
    | none => none
    | some i =>
      some ((hostPut d 2 (.context (spillAddr d i) i)).onTr fun x =>
        { x with cache := tput [] x.cache die (l.erase i), spilled := tput false x.spilled i true })
  else none

/-- Start the fetch of a spilled context (R299). -/
def fetchContext (d : Dev) (i : Nat) : Dev :=
  if d.tr.fetching.contains i then d
  else
    let d := count d (homeDie i) 0x1840 1
    (ioRead d 2 (.spill i) (spillAddr d i) 256).onTr fun x => { x with fetching := x.fetching ++ [i] }

/-- A context is wanted: mark it used, or fetch it. -/
def wantContext (d : Dev) (i : Nat) : Dev :=
  if connCached d i then cacheTouch d i
  else if tget false d.tr.spilled i && spillUp d then fetchContext d i
  else d

/-! ### Opening and using connections -/

/-- The lowest CLOSED context whose home die runs and has room, with the room made. -/
def allocConn (d : Dev) : Option (Nat × Dev) :=
  ((List.range (min 1048576 (8 * (d.tr.conns.length + 1)))).filter fun i =>
    (d.conn i).state == .closed && d.ready (homeDie i)).findSome? fun i =>
      match cacheRoom d (homeDie i) with
      | some d => some (i, cacheTouch d i)
      | none => none

/-- A context starts a new life in its present generation (R289). -/
def freshConn (c : Conn) (state : ConnState) (tenant peer now : Nat) : Conn :=
  { state := state, gens := c.gens, tenant := tenant, peer := peer, enteredAt := now, dataAt := now }

/-- A connection control body (Table 11-3). -/
def ctrlBody (type status tenant gen request : Nat) : Bytes :=
  toLe 1 type ++ toLe 1 status ++ toLe 2 tenant ++ toLe 4 gen ++ toLe 4 request ++ zeros 4

/-- Send a control message of a connection: CONNECT and CLOSE on VC2 under service 3, replies on VC1 under 2. -/
def sendCtrl (d : Dev) (i type status request : Nat) : Dev :=
  let c := d.conn i
  let vc := if type = 0x10 ∨ type = 0x12 then 2 else 1
  let h : THdr := { ttype := 1, dstConn := if type = 0x10 then 0 else c.peerConn,
                    dstGen := if type = 0x10 then 0 else c.peerGen, srcConn := i }
  pushMsg d vc (if vc = 2 then 3 else 2) 1
    (buildMsg d c.peer vc (if vc = 2 then 3 else 2) c.tenant h (ctrlBody type status c.tenant (connGen d i) request)) none

/-- Open a connection to a peer (R286 steps 1 and 2). -/
def openConn (d : Dev) (tenant peer : Nat) : Option (Nat × Dev) :=
  match allocConn d with
  | none => none
  | some (i, d) =>
    let (tag, d) := freshTag d
    let d := d.onConn i fun c =>
      { freshConn c .connecting tenant peer d.now with initiator := true, requestId := tag, sends := 1, sendAt := d.now }
    some (i, sendCtrl d i 0x10 0 tag)

/-- The node's connection to a peer for a tenant that can take new operations. -/
def findConn (d : Dev) (tenant peer : Nat) : Option Nat :=
  (d.tr.conns.find? fun p =>
    p.2.tenant == tenant && p.2.peer == peer && (p.2.state == .open_ || p.2.state == .connecting)).map (·.1)

/-- A posted work request has come to a status; WORK_REQUEST_COMPLETE processes it (R315). The first status stands. -/
def workOutcome (d : Dev) (w status : Nat) : Dev :=
  d.onRma fun x =>
    { x with work := tupd x.work w fun k => if k.fired && k.outcome.isNone then { k with outcome := some status } else k }

/-- What a message of the node's own asked for will not be answered: the recovery attempt of a PAGE_FETCH fails (R49), and a
HOME_QUERY is forgotten. -/
def askLost (d : Dev) (body : Bytes) : Dev :=
  let tag := fld body 8 4
  if fld body 0 1 = 0x59 then
    d.onObj fun x =>
      { x with recoveries := x.recoveries.map fun p => if p.2.fetching = some tag then (p.1, { p.2 with expired := true }) else p }
  else if fld body 0 1 = 0x50 then d.onMbr fun x => { x with asks := dropWhere (·.requestId == tag) x.asks }
  else d

/-- What hangs on a message of the node's own ends with a status (R286, R291, R301). -/
def txLost (status : Nat) (d : Dev) (t : TxMsg) : Dev :=
  match t.op with
  | .work w => workOutcome d w status
  | _ => askLost d t.body

/-- What the node has asked a peer over a connection, and what has not been answered, ends with it (R291). -/
def asksLost (d : Dev) (tenant peer : Nat) : Dev :=
  let d := d.onMbr fun x => { x with asks := dropWhere (fun a => a.node == peer && objTenant a.tenantObject == tenant) x.asks }
  if tenant = 0 then
    d.onObj fun x =>
      { x with recoveries := x.recoveries.map fun p =>
          if p.2.fetching.isSome ∧ p.2.asked = peer then (p.1, { p.2 with expired := true }) else p }
  else d

/-- Queue a DATA message on a connection and send what its window allows. -/
def sendTx (d : Dev) (i : Nat) (t : TxMsg) : Dev :=
  pump (wantContext ((hubXfer d (homeDie i) 0 (txBytes t)).onConn i fun c => { c with queue := c.queue ++ [t] }) i) i

/-- Queue a DATA message to a node for a tenant, opening the connection when none is there (R314). A spilled
connection that cannot be reached ends the operation with DIE_LOST (R301); no free context, with BUSY. -/
def sendTo (d : Dev) (tenant peer : Nat) (t : TxMsg) : Dev :=
  if peer = d.regs.nodeId then
    inboxPush d (buildMsg d peer t.vc t.service tenant { ttype := 0 } t.body) t.vc ownConn 0 0
  else
    match findConn d tenant peer with
    | some i =>
      if tget false d.tr.spilled i && !(connCached d i) && !(spillUp d) then txLost St.dieLost d t else sendTx d i t
    | none =>
      match openConn d tenant peer with
      | some (i, d) => sendTx d i t
      | none => txLost St.busy d t

/-- A message of the node's own traffic: tenant 0, subscriber 1 (R321). -/
def sendNode (d : Dev) (peer vc service : Nat) (body : Bytes) : Dev :=
  sendTo d 0 peer { body := body, vc := vc, service := service, subscriber := 1 }

/-- SUBSCRIBER of a classification action (Table 09-3); 1 for a message that was not classified. -/
def actionSub (action : Nat) : Nat := if action = 0 then 1 else bitsOf action 34 11
/-- ADMIT and COMPOSITION of a classification action. -/
def actionAdmit (action : Nat) : Bool := bitOf action 33
def actionComposition (action : Nat) : Nat := bitsOf action 27 6

/-- Reply on the connection a message came on (R285). A reply whose connection has been torn down is discarded and
counted (R291). -/
def replyOn (d : Dev) (conn vc service sub : Nat) (body : Bytes) : Dev :=
  if conn = ownConn then
    inboxPush d (buildMsg d d.regs.nodeId vc service 0 { ttype := 0 } body) vc ownConn 0 0
  else if (d.conn conn).state = .open_ ∨ (d.conn conn).state = .closing then
    sendTx d conn { body := body, vc := vc, service := service, subscriber := sub }
  else d.onTr fun x => { x with late := x.late + 1 }

/-- Reply to a message of the inbox. -/
def reply (d : Dev) (m : Inb) (vc service : Nat) (body : Bytes) : Dev :=
  replyOn d m.conn vc service (actionSub m.action) body

/-! ### Acknowledging (R292 to R296) -/

/-- Shift the map over every leading accepted number (R292). -/
def advanceExpected : Nat → Nat → Nat → Nat × Nat
  | 0, e, m => (e, m)
  | n + 1, e, m => if m % 2 = 1 then advanceExpected n (m32 (e + 1)) (m / 2) else (e, m)

/-- How a DATA message sorts against EXPECTED and the map (R292). -/
inductive Sorted where
  | fresh | duplicate | beyond
deriving DecidableEq, Repr

def sortSeq (c : Conn) (s : Nat) : Sorted :=
  let k := dist32 s c.expected
  if k < 256 then (if bitOf c.map k then .duplicate else .fresh) else if 2147483648 ≤ k then .duplicate else .beyond

/-- Accept a sequence number: the map, EXPECTED, and what the next ACK echoes (R292, R294). -/
def acceptSeq (now s tx hops : Nat) (c : Conn) : Conn :=
  let k := dist32 s c.expected
  let m := if bitOf c.map k then c.map else c.map + 2 ^ k
  let (e, m) := advanceExpected 256 c.expected m
  { c with
    expected := e, map := m, unacked := c.unacked + 1, firstAt := if c.unacked = 0 then now else c.firstAt
    echoTick := tx, echoHops := hops, gotData := true, dataAt := now
    above := (c.above ++ [(s, now)]).filter fun p => decide (dist32 p.1 e < 256) }

/-- ACK body (Table 11-5). -/
def ackBody (c : Conn) : Bytes := toLe 32 (c.map / 2 * 2) ++ toLe 1 c.echoHops ++ zeros 7

/-- Send an ACK on a connection (R294). -/
def ackSend (d : Dev) (i : Nat) : Dev :=
  let c := d.conn i
  let h : THdr := { ttype := 2, dstConn := c.peerConn, dstGen := c.peerGen, srcConn := i, ack := c.expected,
                    echo := c.echoTick }
  let d := pushMsg d 1 2 1 (buildMsg d c.peer 1 2 c.tenant h (ackBody c)) none
  d.onConn i fun c => { c with unacked := 0 }

/-- NAK body (Table 11-5). -/
def nakBody (seq reason retry : Nat) : Bytes := toLe 4 seq ++ toLe 1 reason ++ zeros 3 ++ toLe 4 retry

/-- Send a NAK on a connection, echoing the message that caused it (R296). -/
def nakSend (d : Dev) (i seq reason retry echo : Nat) : Dev :=
  let c := d.conn i
  let h : THdr := { ttype := 3, dstConn := c.peerConn, dstGen := c.peerGen, srcConn := i, ack := c.expected,
                    echo := echo }
  let d := if reason = 2 then count d (homeDie i) 0x1860 1 else d
  pushMsg d 1 2 1 (buildMsg d c.peer 1 2 c.tenant h (nakBody seq reason retry)) none

/-- Accept a DATA message on its connection; the 8th acceptance not acknowledged sends an ACK at once (R294). -/
def acceptMsg (d : Dev) (i : Nat) (b : Bytes) : Dev :=
  if i = ownConn then d
  else
    let d := d.onConn i (acceptSeq d.now (msgSeq b) (msgTx b) (msgHops b))
    if 8 ≤ (d.conn i).unacked then ackSend d i else d

/-- A number is covered by ACK and MAP. -/
def covered (ack map s : Nat) : Bool :=
  let k := dist32 s ack
  decide (2147483648 ≤ k) || (decide (k < 256) && bitOf map k)

/-- What an acknowledgement of one message completes (R314): a SEND, or one of MERGE_FORWARD's parts. -/
def txAcked (d : Dev) (t : TxMsg) : Dev :=
  match t.op with
  | .work w =>
    match tfind d.rma.work w with
    | none => d
    | some k =>
      if fld k.record 0 1 = 1 then d
      else
        let d := d.onRma fun x => { x with work := tupd x.work w fun k => { k with unacked := k.unacked - 1 } }
        if k.unacked ≤ 1 then workOutcome d w St.ok else d
  | _ => d

/-- Everything that ACK and MAP cover leaves the sender's list (R294). -/
def ackProcess (d : Dev) (i ack map : Nat) : Dev :=
  let c := d.conn i
  let gone := c.sent.filter fun t => covered ack map t.seq
  if gone.isEmpty then d
  else
    let keep := c.sent.filter fun t => !(covered ack map t.seq)
    let oldest := (c.sent.head?.map (·.seq)) != (keep.head?.map (·.seq))
    let d := d.onConn i fun c =>
      { c with sent := keep, progressAt := d.now, timerAt := if oldest then d.now else c.timerAt,
               expiries := if oldest then 0 else c.expiries }
    pump (gone.foldl txAcked d) i

/-! ### Teardown (R289, R291) -/

/-- CONN_CLOSE commands complete when every connection they named has entered QUARANTINE. -/
def closeDone (d : Dev) : Dev :=
  let cmds := d.hif.rings.flatMap fun p => p.2.cmds.map fun c => (p.1, c)
  (cmds.filter fun p => p.2.phase == .running && fld p.2.desc 0 1 == 0x28 &&
      !(d.tr.conns.any fun q => q.2.wantClose && q.2.tenant == fld p.2.desc 8 2 && q.2.peer == fld p.2.desc 0x14 4)).foldl
    (fun d p => cmdDone d p.1 p.2.index St.ok p.2.result) d

/-- The transport's part of entering QUARANTINE: the generation advances, what the node originated ends, and what it
received and has not begun is dropped. -/
def quarantineCore (d : Dev) (i status : Nat) : Dev :=
  let c := d.conn i
  if c.state = .closed ∨ c.state = .quarantine then d
  else
    let d := (c.sent ++ c.queue).foldl (txLost status) d
    let lost := (d.rma.ops.filter fun o => o.issued && o.conn == i).map (·.reg)
    let d := lost.foldl (fun d w => workOutcome d w status) d
    let d := d.onConn i fun c =>
      { state := .quarantine, gens := c.gens + 1, tenant := c.tenant, peer := c.peer, enteredAt := d.now }
    let drop := ((d.tr.inbox.filter (·.conn == i)).length + (d.tr.waiting.filter (·.conn == i)).length)
    let d := d.onTr fun x =>
      { x with inbox := dropWhere (·.conn == i) x.inbox, waiting := dropWhere (·.conn == i) x.waiting,
               search := dropWhere (·.conn == i) x.search, late := x.late + drop }
    closeDone (d.onRma fun x => { x with ops := dropWhere (fun o => o.issued && o.conn == i) x.ops })

end Sys2Proof.Machine
end

