-- ==== Sys2Proof/Machine/ObjOps.lean ====
section
/-! DEFINITION. Shared operations on objects, shards, page table entries, frame runs and page states (spec 02, 06). -/

namespace Sys2Proof.Machine

/-! ### Objects and shards -/

def Obj.geom (o : Obj) : Geom := ⟨o.format, o.tCode, o.hkv, o.dCode⟩

/-- An object held by the node. -/
def Dev.objAt (d : Dev) (n : Nat) : Option Obj := tfind d.obj.objs n

/-- Change an object held by the node. -/
def Dev.onObjAt (d : Dev) (n : Nat) (f : Obj → Obj) : Dev := d.onObj fun x => { x with objs := tupd x.objs n f }

/-- The shard of an object that covers a page, with its number. -/
def Obj.shardFor (o : Obj) (page : Nat) : Option (Nat × Shard) :=
  o.shards.find? fun p => decide (p.2.first ≤ page) && (p.2.isOpen || decide (page ≤ p.2.last))

/-- The node holds a role in a shard record. -/
def holdsRole (self : Nat) (s : Shard) : Bool :=
  s.primary == some self || s.mirror == some self || s.shadow == some self

/-- The other replica of a shard: the mirror for the primary, the primary otherwise. -/
def otherReplica (self : Nat) (s : Shard) : Option Nat := if s.primary = some self then s.mirror else s.primary

/-- The layer and page lie in the object's geometry and in a shard the node holds (R36). -/
def pageInObj (o : Obj) (layer page : Nat) : Bool :=
  decide (layer < o.layers) && decide (page < o.geom.pages) && (o.shardFor page).isSome

/-! ### Page table entries -/

/-- The entry of a page (R38). -/
def Dev.entry (d : Dev) (key : Nat) : Entry := tget {} d.obj.pages key

def Dev.setEntry (d : Dev) (key : Nat) (e : Entry) : Dev := d.onObj fun x => { x with pages := tput {} x.pages key e }

/-- Follow a SHARED entry once (R58): the key whose entry owns the run. -/
def Dev.ownerKey (d : Dev) (key : Nat) : Nat :=
  let e := d.entry key
  if e.state = .shared then mkKey (keyTenant key) e.owner (keyLayer key) (keyPage key) else key

/-- The entry that owns a page's run (R58). -/
def Dev.ownerEntry (d : Dev) (key : Nat) : Entry := d.entry (d.ownerKey key)

/-- Keys of the pages of an object that have an entry. -/
def pagesOf (d : Dev) (obj : Nat) : List Nat := (d.obj.pages.map (·.1)).filter fun k => keyObj k == obj

def Entry.sealed (e : Entry) : Bool := e.state == .sealed || e.state == .suspectSealed
def Entry.grows (e : Entry) : Bool := e.state == .growing || e.state == .suspectGrowing
def Entry.suspect (e : Entry) : Bool := e.state == .suspectSealed || e.state == .suspectGrowing

/-- The 16 bytes of an entry (Table 02-4). -/
def entryBytes (e : Entry) : Bytes :=
  let st := match e.state with
    | .absent => 0 | .growing => 1 | .sealed => 2 | .suspectSealed => 3 | .suspectGrowing => 4 | .shared => 5
  toLe 5 e.frame ++ toLe 1 e.count ++ toLe 1 e.tier ++ toLe 1 st ++ toLe 3 e.refs ++ zeros 1 ++ toLe 4 e.owner

/-- Bytes of the image in an entry's tier-1 run. -/
def readEntry (k : Chip) (e : Entry) : Bytes := readTier1 k (4096 * e.frame) (4096 * e.count)

/-- VALID_TOKENS of a page as its header stands (R41); T for a sealed page. -/
def pageValid (k : Chip) (g : Geom) (e : Entry) : Nat :=
  if e.grows then fld (readTier1 k (4096 * e.frame + 0x10) 2) 0 2 else g.T

/-- Uncorrectable bursts under the header of a growing page: the fixed fill is no VALID_TOKENS (R188). -/
def headerBad (d : Dev) (e : Entry) : List Nat := if e.state = .growing then badBursts d (4096 * e.frame) 128 else []

/-- The run of an entry lies under a row operation: its reads wait (R219). -/
def entryBusy (d : Dev) (e : Entry) : Bool := e.tier == 1 && rangeBusy d (4096 * e.frame) (4096 * e.count)

/-- The highest page of a layer of an object that has an entry, with its key. -/
def tailKey (d : Dev) (obj layer : Nat) : Option Nat :=
  ((pagesOf d obj).filter fun k => keyLayer k == layer && (d.entry k).state != .absent).getLast?

/-- A layer's length in tokens on this node (R376): the first position of its last page plus its VALID_TOKENS. -/
def layerLength (k : Chip) (obj : Nat) (g : Geom) (layer : Nat) : Nat :=
  match tailKey k.dev obj layer with
  | none => (match (k.dev.objAt obj).bind fun o => o.shards.find? (·.2.isOpen) with | some (_, s) => s.first * g.T | none => 0)
  | some key => keyPage key * g.T + pageValid k g (k.dev.entry key)

/-! ### Compositions and slices (R22, R24) -/

/-- The local index of a composition, by its fabric-wide ID. -/
def compIndex (d : Dev) (id : Nat) : Option Nat :=
  if id = 0 then none else (d.mbr.compositions.find? fun p => p.2.id == id).map (·.1)

/-- The composition a slice is bound to. -/
def sliceComp (d : Dev) (n : Nat) : Option Nat := (d.mbr.compositions.find? fun p => p.2.slices.contains n).map (·.1)

/-- An object, or a deleted owner whose runs remain, as it was when it was deleted (R158). -/
def Dev.ownerObj (d : Dev) (n : Nat) : Option Obj := match d.objAt n with | some o => some o | none => tfind d.obj.orphans n

/-- Key of a page group of a layer (R24). -/
def groupKey (layer g : Nat) : Nat := layer * 16384 + g

/-- Some page of a page group of a layer holds a run, in either tier (R24; notes/assumptions/63.md). -/
def groupHeld (d : Dev) (obj layer g : Nat) : Bool :=
  d.obj.runs.any fun p => match p.2.use with
    | .image k | .reserve k | .load k =>
      keyObj k == obj && keyLayer k == layer && keyPage k / 16 == g && !p.2.left
    | _ => false

/-- The slice a page group of a layer was placed on, while it holds a run (R24). -/
def fixedSlice (d : Dev) (obj : Nat) (o : Obj) (layer g : Nat) : Option Nat :=
  if groupHeld d obj layer g then tfind o.groups (groupKey layer g) else none

/-- The slice on which R24's rule places a page group now. -/
def ruleSlice (d : Dev) (o : Obj) (g : Nat) : Option Nat :=
  match compIndex d o.composition, o.shardFor (16 * g) with
  | some c, some (_, sh) =>
    let k := tget ({} : Composition) d.mbr.compositions c
    if k.slices.isEmpty then none
    else some (k.slices.getD ((g - sh.first / 16) / max k.groupRun 1 % k.slices.length) 0)
  | _, _ => none

/-- The slice of a page group of a layer (R24): the one it was placed on, while it holds a run; otherwise by the rule. -/
def groupSlice (d : Dev) (obj layer g : Nat) : Option Nat :=
  match d.ownerObj obj with
  | none => none
  | some o => match fixedSlice d obj o layer g with | some s => some s | none => ruleSlice d o g

/-- The slices of a page group over all layers (R24, R94): those it was placed on in some layer, and the rule's where a
layer has none. -/
def groupSlices (d : Dev) (obj g : Nat) : List Nat :=
  match d.objAt obj with
  | none => []
  | some o =>
    let fixed := (o.groups.filter fun p => p.1 % 16384 == g).filterMap fun p => fixedSlice d obj o (p.1 / 16384) g
    (fixed ++ (if fixed.length < o.layers then (ruleSlice d o g).toList else [])).eraseDups

/-- The slice of a page. -/
def pageSlice (d : Dev) (key : Nat) : Option Nat := groupSlice d (keyObj key) (keyLayer key) (keyPage key / 16)

/-- The die of a page's slice; the Self-heal die when it has none. -/
def pageDie (d : Dev) (key : Nat) : Nat := match pageSlice d key with | some n => dieOfSlice n | none => Config.selfHeal

/-- Remember where a page group was placed. -/
def fixGroup (d : Dev) (key slice : Nat) : Dev :=
  d.onObjAt (keyObj key) fun o => { o with groups := tins o.groups (groupKey (keyLayer key) (keyPage key / 16)) slice }

/-! ### Frame runs (R37, R47, R51, R52) -/

/-- The run of an entry. -/
def Entry.run (e : Entry) : Nat := runKey e.tier e.frame

def Dev.onRun (d : Dev) (r : Nat) (f : Run → Run) : Dev := d.onObj fun x => { x with runs := tupd x.runs r f }

/-- A run becomes freed. One that last held a page keeps that page's tenant; what held a prefetch copy or a load area
belongs to no tenant until it is scrubbed (R51). -/
def freedRun (u : Run) : Run :=
  { u with use := .freed, left := false
           tenant := match u.use with | .copy _ => 0 | .load _ => 0 | _ => u.tenant }

/-- A run leaves its entry: freed at once without readers, otherwise when the last is done (R52). -/
def leaveRun (d : Dev) (r : Nat) : Dev := d.onRun r fun u => if u.refs = 0 then freedRun u else { u with left := true }

/-- A reader takes, or drops, a reference. -/
def refRun (d : Dev) (r : Nat) : Dev := d.onRun r fun u => { u with refs := u.refs + 1 }
def unrefRun (d : Dev) (r : Nat) : Dev := d.onRun r fun u => { u with refs := u.refs - 1 }

/-- Frames of a granule. -/
def granFrames : Nat := 262144

/-- The gaps between blocked intervals (first frame, count; ascending) from `lo` to `hi`. -/
def gapsOf (lo hi : Nat) : List (Nat × Nat) → List (Nat × Nat)
  | [] => if lo < hi then [(lo, hi - lo)] else []
  | (a, n) :: rest =>
    (if lo < a then [(lo, a - lo)] else []) ++ gapsOf (max lo (a + n)) hi rest

/-- A run blocks an allocation for a page of a tenant: every run but freed ones that last held a page of that tenant (R51).
An allocation for anything but a page names tenant 0, which is no run's: it takes scrubbed frames only. -/
def runBlocks (tenant : Nat) (r : Run) : Bool :=
  match r.use with
  | .freed => r.tenant != tenant || tenant == 0
  | _ => true

/-- Insert an interval in ascending order. -/
def insInterval (p : Nat × Nat) : List (Nat × Nat) → List (Nat × Nat)
  | [] => [p]
  | q :: l => if p.1 ≤ q.1 then p :: q :: l else q :: insInterval p l

/-- Free gaps of a stretch of frames of a tier for a tenant. -/
def freeGaps (d : Dev) (tier lo hi tenant : Nat) : List (Nat × Nat) :=
  let runs := (d.obj.runs.filter fun p =>
    runTier p.1 == tier && decide (runFrame p.1 < hi) && decide (lo < runFrame p.1 + p.2.count) &&
      (runBlocks tenant p.2 || (tier == 2 && p.2.scrubbing))).map
      fun p => (runFrame p.1, p.2.count)
  let bad := if tier = 1 then (d.lp.retired.filter fun p => decide (lo ≤ p.1) && decide (p.1 < hi)).map fun p => (p.1, 1) else []
  gapsOf lo hi (bad.foldl (fun l p => insInterval p l) runs)

/-- First frame of a granule of a slice. -/
def granFirst (slice g : Nat) : Nat := (slice * 48 + g) * granFrames

/-- The granule of a slice may be allocated from: it is not changing kind. -/
def granOpen (d : Dev) (slice g : Nat) : Bool :=
  match tfind d.lp.changing slice with
  | some c => !(c.todo.contains g)
  | none => true

/-- The granules of a slice's prefetch area that are not changing kind (R155, R183). -/
def areaOf (d : Dev) (slice : Nat) : List Nat := (tget [] d.obj.prefetchArea slice).filter (granOpen d slice)

/-- The granules of a slice's ordinary frames (R155). -/
def ordinary (d : Dev) (slice : Nat) : List Nat :=
  (List.range 48).filter fun g =>
    g != 0 && tget 0 d.obj.transit slice != g && !((tget [] d.obj.prefetchArea slice).contains g) && granOpen d slice g

/-- Gaps of at least `n` frames in some granules of a slice. -/
def gapsIn (d : Dev) (slice tenant n : Nat) (gs : List Nat) : List (Nat × Nat) :=
  (gs.flatMap fun g => freeGaps d 1 (granFirst slice g) (granFirst slice g + granFrames) tenant).filter fun p =>
    decide (n ≤ p.2)

/-- Choose a place for `n` frames in one of the gaps: the choice is the node's own (a free value). -/
def chooseGap (d : Dev) (n : Nat) (gaps : List (Nat × Nat)) : Option (Nat × Dev) :=
  match gaps with
  | [] => none
  | _ =>
    let (i, d) := d.draw
    let (j, d) := d.draw
    let p := gaps.getD (Config.gapChoice i % gaps.length) (0, 0)
    some (p.1 + Config.gapChoice j % (p.2 - n + 1), d)

/-- The parts of a freed run that an allocation leaves. -/
def carve (a n : Nat) (p : Nat × Run) : List (Nat × Run) :=
  let f := runFrame p.1
  let t := runTier p.1
  if a + n ≤ f ∨ f + p.2.count ≤ a then [p]
  else
    (if f < a then [(runKey t f, { p.2 with count := a - f })] else []) ++
      (if a + n < f + p.2.count then [(runKey t (a + n), { p.2 with count := f + p.2.count - (a + n) })] else [])

/-- A run comes into use. -/
def placeRun (d : Dev) (tier frame n tenant : Nat) (use : RunUse) : Dev :=
  let r : Run := { count := n, tenant := tenant, use := use }
  d.onObj fun x =>
    { x with runs := tins (x.runs.flatMap fun p => if runTier p.1 = tier then carve frame n p else [p])
               (runKey tier frame) r }

/-- Bytes that the structures of the pages of a slice and the match copies take in its node granule: 16 for each page table
entry of the slice, 16 for each second copy of slice n − 4, and a copy area with its overflow table (R185). The records' sizes are
not given (notes/assumptions/105.md). -/
def nodeBytes (d : Dev) (slice : Nat) : Nat :=
  let back := (slice + 60) % 64
  16 * (d.obj.pages.filter fun p => pageSlice d p.1 == some slice || pageSlice d p.1 == some back).length +
    (if d.mat.areas.contains slice then 33554432 + 256 * 2 ^ d.regs.overflowLog2 else 0)

/-- The node granules of both copies have room for one more page table entry (R185). -/
def nodeRoom (d : Dev) (slice : Nat) : Bool :=
  decide (nodeBytes d slice + 16 ≤ gib) && decide (nodeBytes d ((slice + 4) % 64) + 16 ≤ gib)

/-- A page that is to have a run has its page table entry, or there is room for one. -/
def entryRoom (d : Dev) (slice : Nat) (use : RunUse) : Bool :=
  match use with
  | .image key | .reserve key => (d.entry key).state != .absent || nodeRoom d slice
  | _ => true

/-- Allocate in a slice's tier 1: ordinary frames of the preferred kind, of the other kind, and then the transit reserve
when the policy allows it (R160, R186). -/
def allocTier1 (d : Dev) (slice n tenant : Nat) (bankFirst transit : Bool) (use : RunUse) : Option (Nat × Dev) :=
  if !(sliceReady d slice) || !(d.ready (dieOfSlice slice)) || !(entryRoom d slice use) then none
  else
    let ord := ordinary d slice
    let kind := fun b => ord.filter fun g => isBankOp d (slice * 48 + g) == b
    let t := tget 0 d.obj.transit slice
    let tries := [kind bankFirst, kind (!bankFirst)] ++ (if transit && t != 0 then [[t]] else [])
    match tries.findSome? fun gs => chooseGap d n (gapsIn d slice tenant n gs) with
    | some (f, d) => some (f, placeRun d 1 f n tenant use)
    | none => none

/-- Frames of the tier-2 window (R151). -/
def windowFrames (d : Dev) : Nat := ((d.obj.extents.map (·.2)).sum) / 4096

/-- Allocate in the tier-2 window. -/
def allocTier2 (d : Dev) (n tenant : Nat) (use : RunUse) : Option (Nat × Dev) :=
  let gaps := (freeGaps d 2 0 (windowFrames d) tenant).filter fun p => decide (n ≤ p.2)
  match chooseGap d n gaps with
  | some (f, d) => some (f, placeRun d 2 f n tenant use)
  | none => none

/-- Free ordinary frames of a slice for a tenant (R161). -/
def freeOrdinary (d : Dev) (slice tenant : Nat) : Nat :=
  ((gapsIn d slice tenant 1 (ordinary d slice)).map (·.2)).sum

/-- Host address of a tier-2 window offset (R151). -/
def windowAddr : List (Nat × Nat) → Nat → Nat
  | [], o => o
  | (b, n) :: rest, o => if o < n then b + o else windowAddr rest (o - n)

/-- Tier-1 shortage event (R160). -/
def shortage (d : Dev) (slice key : Nat) : Dev :=
  logFull d 0x0305 (dieOfSlice slice) (keyTenant key) 0 0 (toLe 1 slice ++ toLe 4 (keyObject key))

/-- The transit reserve may serve an object: its policy is not PIN_T1 (R155). -/
def mayTransit (d : Dev) (obj : Nat) : Bool := match d.objAt obj with | some o => o.policy != 0 | none => false

/-- Allocate a growing image's run and its seal reservation; neither stays when one cannot be found (R160). -/
def allocGrowing (d : Dev) (key : Nat) (g : Geom) (use : RunUse) : Option (Nat × Nat × Dev) :=
  match pageSlice d key with
  | none => none
  | some s =>
    let tr := mayTransit d (keyObj key)
    match allocTier1 d s g.growFrames (keyTenant key) true tr use with
    | none => none
    | some (f, d) =>
      match allocTier1 d s g.sealFrames (keyTenant key) false tr (.reserve key) with
      | none => none
      | some (r, d) => some (f, r, fixGroup d key s)

/-- The seal reservation of a growing page: its first frame. -/
def reservation (d : Dev) (key : Nat) : Option (Nat × Run) :=
  (d.obj.runs.find? fun p => p.2.use == .reserve key).map fun p => (runFrame p.1, p.2)

/-- Drop a growing page's reservation, unused: its frames are freed. -/
def dropReservation (d : Dev) (key : Nat) : Dev :=
  match reservation d key with
  | some (f, _) => leaveRun d (runKey 1 f)
  | none => d

/-! ### Entries and their runs -/

/-! ### Prefetch copies (R168) -/

/-- The valid prefetch copy of a page, if one has arrived. -/
def copyFor (d : Dev) (key : Nat) : Option Copy :=
  let e := d.entry key
  d.obj.copies.find? fun c => c.key == key && c.srcFrame == e.frame && c.srcTier == e.tier && c.ready

/-- Release a prefetch copy: its run leaves. -/
def dropCopy (d : Dev) (id : Nat) : Dev :=
  match d.obj.copies.find? (·.id == id) with
  | none => d
  | some c =>
    (leaveRun d (runKey 1 c.frame)).onObj fun x => { x with copies := dropWhere (·.id == id) x.copies }

/-- The copies of a page that no longer name its run are released (R168). -/
def dropStaleCopies (d : Dev) (key : Nat) : Dev :=
  let e := d.entry key
  (d.obj.copies.filter fun c => c.key == key && !(c.srcFrame == e.frame && c.srcTier == e.tier)).foldl
    (fun d c => dropCopy d c.id) d

/-- Moves stop: their destination runs are freed unused (R165). -/
def dropMoves (d : Dev) (p : Move → Bool) : Dev :=
  ((d.obj.moves.filter p).foldl (fun d m => match m.dst with | some (t, f, _) => leaveRun d (runKey t f) | none => d) d).onObj
    fun x => { x with moves := dropWhere p x.moves }

/-- The entry of a page becomes ABSENT: its run leaves it. -/
def dropPage (d : Dev) (key : Nat) : Dev :=
  let e := d.entry key
  let d := if e.state = .absent ∨ e.state = .shared then d else leaveRun d e.run
  let d := if e.grows then dropReservation d key else d
  (dropMoves (dropStaleCopies (d.setEntry key {}) key) fun m => m.key == key && !m.scrub).onObj fun x =>
    { x with recoveries := tdel x.recoveries key, seals := x.seals.map fun p => (p.1, dropWhere (·.key == key) p.2) }

/-- One object fewer uses a run (R56, R61); the last one gone, the run leaves its entry. -/
def decRef (d : Dev) (key : Nat) : Dev :=
  let e := d.entry key
  if e.refs ≤ 1 then dropPage d key else d.setEntry key { e with refs := e.refs - 1 }

/-- Remove one page of an object that goes: a SHARED entry lets go of its owner's run (Table 02-6). -/
def removePage (d : Dev) (key : Nat) : Dev :=
  let e := d.entry key
  if e.state = .shared then (decRef d (d.ownerKey key)).setEntry key {} else decRef d key

/-- A load command, or a fork's copy, is about to create a page (R435). -/
def pageOpening (d : Dev) (key : Nat) : Bool :=
  d.obj.loads.any (·.1 == key) || d.obj.forks.any fun f => f.copies.contains key

/-! ### SUSPECT pages (R47, R49) -/

/-- A SEAL_FLUSH that waits for a page's seal completes with the status that ended the seal (Table 15-18). -/
def flushFail (d : Dev) (key status : Nat) : Dev :=
  if !(d.entry key).grows then d
  else (List.range 64).foldl (fun d ring =>
    ((d.ring ring).cmds.filter fun c => c.phase == .running && c.keys.contains key).foldl
      (fun d c => cmdFailState d ring c.index status) d) d

/-- An attempt to recover a page starts (R49). -/
def startRecovery (d : Dev) (key : Nat) (copyBack : Bool) : Dev :=
  d.onObj fun x => { x with recoveries := tins x.recoveries key { active := true, at_ := d.now, copyBack := copyBack } }

/-- A page enters its SUSPECT state, with its event record, and recovery starts (Table 02-6). -/
def suspectPage (d : Dev) (key : Nat) (copyBack : Bool) : Dev :=
  let e := d.entry key
  let st := match e.state with
    | .sealed => PageState.suspectSealed
    | .growing => .suspectGrowing
    | s => s
  if st = e.state then d
  else
    let d := (flushFail d key St.uncorrectable).setEntry key { e with state := st }
    let d := d.onObj fun x => { x with seals := x.seals.map fun p => (p.1, dropWhere (·.key == key) p.2) }
    startRecovery (logFull d 0x0301 (pageDie d key) (keyTenant key) 0 0 (keyBytes key)) key copyBack

/-- Bursts under the header of a layer's growing tail page that cannot be read: its VALID_TOKENS is not known (R188). -/
def tailUnread (d : Dev) (obj layer : Nat) : List Nat :=
  match tailKey d obj layer with
  | some key => if (d.entry key).grows then badBursts d (4096 * (d.entry key).frame) 128 else []
  | none => []

/-- The lengths of an object's layers can be read. -/
def tailsRead (d : Dev) (obj layers : Nat) : Bool := (List.range layers).all fun l => (tailUnread d obj l).isEmpty

/-- Tail pages whose headers cannot be read become SUSPECT (Table 07-4). -/
def tailsLost (d : Dev) (obj layers : Nat) : Dev :=
  (List.range layers).foldl (fun d l =>
    match tailKey d obj l, tailUnread d obj l with
    | some key, b :: bs =>
      if (d.entry key).suspect then d else suspectPage (badFound d (b :: bs) 2 (objTenant obj) St.uncorrectable) key false
    | _, _ => d) d

/-- A SEAL_FORMAT_FAULT record for a check of Table 05-4 above 1 (R148). -/
def formatFault (d : Dev) (key check : Nat) : Dev :=
  if check ≤ 1 then d
  else logFull d 0x0304 (pageDie d key) (keyTenant key) St.pageCrcMismatch 0 (keyBytes key ++ toLe 1 check)

/-- A recovery attempt fails (R49): PAGE_UNRECOVERABLE; a new attempt comes later. -/
def recoveryFailed (d : Dev) (key : Nat) : Dev :=
  let d := d.onObj fun x =>
    { x with recoveries := tupd x.recoveries key fun r => { r with active := false, fetching := none, at_ := d.now } }
  logFull d 0x0303 (pageDie d key) (keyTenant key) St.pageCrcMismatch 0 (keyBytes key)

/-! ### Where the policy wants a page (R156, R159, R161) -/

/-- The policy that governs an object's pages: a deleted owner's last policy stays with its runs (R158). -/
def policyOf (d : Dev) (obj : Nat) : Nat := match d.ownerObj obj with | some o => o.policy | none => 1

/-- The tier a policy directs a sealed page to: 1, 2, or its own under PREFER_T1 (Table 06-3). -/
def directedTier (policy tier : Nat) : Nat := if policy = 0 then 1 else if policy = 1 then tier else 2

/-- Queue a move of a page, unless one is queued. -/
def queueMove (d : Dev) (key priority : Nat) : Dev :=
  if d.obj.moves.any (·.key == key) then d
  else d.onObj fun x =>
    { x with moves := x.moves ++ [{ id := x.nextMove, key := key, priority := priority }], nextMove := x.nextMove + 1 }

/-- The priority of Table 06-4 of a move that a policy directs a page in a tier to; none when it stays. -/
def directedPriority (policy tier : Nat) : Option Nat :=
  if policy = 0 ∧ tier = 2 then some 3
  else if policy = 1 ∧ tier = 2 then some 5
  else if policy = 2 ∧ tier = 1 then some 4
  else if policy = 3 ∧ tier = 1 then some 2
  else none

/-- A sealed page that lies outside the tier its policy directs is queued to go there (Table 06-3, Table 06-4). -/
def directMove (d : Dev) (key : Nat) : Dev :=
  let e := d.entry key
  match if e.state = .sealed then directedPriority (policyOf d (keyObj key)) e.tier else none with
  | some p => queueMove d key p
  | none => d

/-- PLACEMENT event. -/
def placementEvent (d : Dev) (obj kind : Nat) : Dev :=
  logFull d 0x0306 Config.noDie (objTenant obj) 0 0 (toLe 4 (objId obj) ++ toLe 1 kind)

/-- A page of an object lies where its policy directs it: it grows, or it is sealed, not suspect, in that tier (R159). -/
def pagePlaced (policy : Nat) (e : Entry) : Bool :=
  match e.state with
  | .sealed => (directedPriority policy e.tier).isNone
  | .suspectSealed => false
  | _ => true

/-- The placement-complete event, once every sealed page that the object owns on the node lies in the tier its policy directs
and no move of one is left (R159). -/
def placeCheck (d : Dev) (obj : Nat) : Dev :=
  match d.objAt obj with
  | none => d
  | some o =>
    if o.placing && !(d.obj.moves.any fun m => keyObj m.key == obj && !m.scrub) &&
        (d.obj.pages.all fun p => keyObj p.1 != obj || pagePlaced o.policy p.2) then
      placementEvent (d.onObjAt obj fun o => { o with placing := false }) obj 1
    else d

/-- A recovery succeeds (Table 02-6): 1 in place, 2 from the other replica. -/
def recoveryDone (d : Dev) (key how : Nat) : Dev :=
  let e := d.entry key
  let st := match e.state with
    | .suspectSealed => PageState.sealed
    | .suspectGrowing => .growing
    | s => s
  let d := (d.setEntry key { e with state := st }).onObj fun x => { x with recoveries := tdel x.recoveries key }
  let d := logFull d 0x0302 (pageDie d key) (keyTenant key) 0 0 (keyBytes key ++ toLe 1 how)
  placeCheck (directMove d key) (keyObj key)

/-! ### Retired frames (R189) -/

/-- The page whose run holds a tier-1 frame. -/
def pageAt (d : Dev) (frame : Nat) : Option Nat :=
  (d.obj.pages.find? fun p => p.2.tier == 1 && decide (p.2.frame ≤ frame) && decide (frame < p.2.frame + p.2.count)).map (·.1)

/-- A frame retired with its page in service: the run moves to a new one, priority 6 of Table 06-4 (R189). -/
def moveRetired (d : Dev) (frame : Nat) : Dev :=
  match pageAt d frame with
  | some key => if (d.entry key).state = .sealed then queueMove d key 6 else suspectPage d key false
  | none => d

/-- Uncorrectable bursts met by a reader that leaves the page in service: its run moves off the retired frames. -/
def badServed (d : Dev) (bursts : List Nat) (tenant status : Nat) : Dev :=
  (badFound d bursts 2 tenant status) |> fun d => bursts.foldl (fun d b => moveRetired d (b / 128)) d

end Sys2Proof.Machine
end

