-- ==== Sys2Proof/Machine/TierOps.lean ====
section
/-! DEFINITION. Tier 2 over unordered I/O, prefetch copies and the page buffers (spec 04, 06, R397, R398). -/

namespace Sys2Proof.Machine

/-! ### Unordered I/O -/

/-- The tier-2 path is up (Table 06-5). -/
def tier2Up (d : Dev) : Bool := d.obj.pathUp && d.cxlUp

/-- Memory reads a run of `n` bytes takes: one for each frame (R397). -/
def uioParts (n : Nat) : Nat := (n + 4095) / 4096

/-- There is room for `n` more UIO reads (R397). -/
def uioRoom (d : Dev) (n : Nat) : Bool := decide ((d.obj.uioReads.map (·.parts)).sum + n ≤ 512)

/-- Send the memory reads of a range of host addresses given by its pieces. -/
def uioSend (d : Dev) (service sub id : Nat) : List (Nat × Nat) → Dev
  | [] => d
  | (a, n) :: t => uioSend (hostPutSub d service sub (.uioRead id a n)) service sub id t

/-- The subscriber a tier-2 read is queued under (R321): that of the rule of the message that caused it (the first of several);
1 where no classified message did. -/
def uioSub (d : Dev) (use : UioUse) : Nat :=
  let ofSlot := fun (slot : Nat) => match tfind d.attn.requests slot with | some r => r.back.sub | none => 1
  match use with
  | .staged _ copy =>
    match (d.attn.staged.find? (·.id == copy)).bind fun c => c.joined.head? with
    | some j => ofSlot j.1
    | none => 1
  | .summary _ slot _ _ _ => ofSlot slot
  | .append held => match d.attn.held.find? (·.id == held) with | some h => actionSub h.action | none => 1
  | _ => 1

/-- Issue a UIO read of pieces of host memory (R154). -/
def uioIssue (d : Dev) (service : Nat) (use : UioUse) (pieces : List (Nat × Nat)) : Dev :=
  (uioSend d service (uioSub d use) d.obj.nextUio pieces).onObj fun x =>
    { x with uioReads := x.uioReads ++ [{ id := x.nextUio, use := use, parts := pieces.length, at_ := d.now }],
             nextUio := x.nextUio + 1 }

/-- The pieces of `n` bytes of the tier-2 window from a frame on. -/
def windowPieces (d : Dev) (frame n : Nat) : List (Nat × Nat) :=
  (List.range (uioParts n)).map fun i => (windowAddr d.obj.extents (4096 * (frame + i)), min 4096 (n - 4096 * i))

/-- Read the first `n` bytes of a tier-2 run (R397): service 3 for a demand read, 6 for the others (Table 12-1). -/
def uioReadBytes (d : Dev) (service : Nat) (use : UioUse) (frame n : Nat) : Dev :=
  let run := runKey 2 frame
  let id := d.obj.nextUio
  (refRun (uioIssue d service use (windowPieces d frame n)) run).onObj fun x =>
    { x with uioReads := modWhere (·.id == id) (fun r => { r with run := run }) x.uioReads }

/-- Read a whole tier-2 run. -/
def uioRead (d : Dev) (service : Nat) (use : UioUse) (frame frames : Nat) : Dev :=
  uioReadBytes d service use frame (4096 * frames)

/-- A UIO read is over: its reference goes (R398). -/
def uioOver (d : Dev) (r : UioRead) : Dev :=
  (unrefRun d r.run).onObj fun x => { x with uioReads := dropWhere (·.id == r.id) x.uioReads }

/-- Write bytes into the tier-2 window in writes of 256 bytes (R397), and how many there are. -/
def uioWrite (d : Dev) (move frame : Nat) : Nat → Nat → Bytes → Dev
  | 0, _, _ => d
  | n + 1, o, b =>
    uioWrite (hostPut (hubXfer d Config.clover (4096 * frame + o) (min 256 b.length)) 6 (.uioWrite move (windowAddr d.obj.extents (4096 * frame + o)) (b.take 256))) move frame n
      (o + 256) (b.drop 256)

def uioWrites (n : Nat) : Nat := (n + 255) / 256

/-- Keep the header CRC of an image that is written to tier 2 (DEDUCED, notes/assumptions/42.md). -/
def noteCrc (d : Dev) (key : Nat) (img : Bytes) : Dev := d.onObj fun x => { x with crcs := tins x.crcs key (fld img 0x14 4) }

/-! ### The page buffer (R113, R116, R171) -/

/-- Bytes of a slice's page buffer. -/
def bufferBytes : Nat := 8388608

/-- Bytes of a slice's page buffer in use. -/
def bufferUsed (d : Dev) (slice : Nat) : Nat := ((d.attn.staged.filter (·.slice == slice)).map (·.size)).sum

/-- Remove a staged copy: its reference on the run it was read from goes. -/
def dropStaged (d : Dev) (id : Nat) : Dev :=
  match d.attn.staged.find? (·.id == id) with
  | none => d
  | some c => (unrefRun d c.run).onAttn fun x => { x with staged := dropWhere (·.id == id) x.staged }

/-- A copy staged ahead that no context has joined. -/
def aheadOnly (slice : Nat) (c : Staged) : Bool := c.slice == slice && c.ahead.isSome && c.joined.isEmpty

/-- The copy staged ahead for the layer farthest away. -/
def farthest : List Staged → Option Staged
  | [] => none
  | c :: l => match farthest l with
    | none => some c
    | some e => if (e.ahead.getD 0) ≤ (c.ahead.getD 0) then some c else some e

/-- `n` more bytes fit in a slice's page buffer. -/
def bufferFits (d : Dev) (slice n : Nat) : Bool := decide (bufferUsed d slice + n ≤ bufferBytes)

/-- Release copies staged ahead, the nearest layer last, until `n` bytes fit or none is left (R171). -/
def bufferRoom (slice n : Nat) : Nat → Dev → Dev
  | 0, d => d
  | f + 1, d =>
    if bufferFits d slice n then d
    else
      match farthest (d.attn.staged.filter (aheadOnly slice)) with
      | none => d
      | some c => bufferRoom slice n f (dropStaged d c.id)

/-- Events of the Yarrow engines (Table 20-1): 0x0400 + 0x10 · event + instance. -/
def yarrow (d : Dev) (die event inst k : Nat) : Dev := count d die (0x400 + 0x10 * event + inst) k

/-- Output bytes of the expander that serves a slice's reads on its die (R149): the raw layout with its header, or in
verify mode the stored image (DESIGN CHOICE for the expander, notes/assumptions/101.md). -/
def expanded (d : Dev) (die slice n : Nat) : Dev := yarrow d die 6 (slice % 4) n

/-- A sealed image has been checked in verify mode on its page's die (R147): its stored bytes are that expander's output. -/
def verified (d : Dev) (key n : Nat) : Dev := expanded d (pageDie d key) ((pageSlice d key).getD 0) n

/-- A staged copy by number and die. -/
def Dev.stagedAt (d : Dev) (die id : Nat) : Option Staged := d.attn.staged.find? fun c => c.id == id && c.die == die

def Dev.onStaged (d : Dev) (id : Nat) (f : Staged → Staged) : Dev :=
  d.onAttn fun x => { x with staged := modWhere (·.id == id) f x.staged }

/-- A new staged copy, with a reference on the run it is read from. -/
def newStaged (d : Dev) (c : Staged) : Dev :=
  (refRun d c.run).onAttn fun x =>
    { x with staged := x.staged ++ [{ c with id := x.nextStaged }], nextStaged := x.nextStaged + 1 }

/-- A context may join a copy of the same page: its read is issued, it has not failed, it has room (R120, R121). -/
def joinable (c : Staged) (die key : Nat) (growing : Bool) (valid more : Nat) : Bool :=
  c.issued && !c.bad && !c.tierFail && c.die == die && c.key == key && c.growing == growing &&
    (!growing || c.valid == valid) && decide (c.joined.length + more ≤ 16)

end Sys2Proof.Machine
end

