-- ==== Sys2Proof/Machine/AttnOps.lean ====
section
/-! DEFINITION. Admission slots, attention requests, their query contexts, parts and endings (spec 04, R80 to R90). -/

namespace Sys2Proof.Machine

/-! ### Slots -/

def Dev.slot (d : Dev) (i : Nat) : Slot := tget {} d.attn.slots i
def Dev.onSlot (d : Dev) (i : Nat) (f : Slot → Slot) : Dev :=
  d.onAttn fun x => { x with slots := tmod {} x.slots i f }

/-- A slot's generation (R98). -/
def slotGen (d : Dev) (i : Nat) : Nat := ((Config.slotGeneration d.bootDraw).toNat + (d.slot i).gens) % 65536

/-- SLOT as it appears in messages (Table 04-3). -/
def slotHandle (d : Dev) (i : Nat) : Nat := slotGen d i * 65536 + i

/-- Key of a die's prefetch state for an object. -/
def prefetchKey (die obj : Nat) : Nat := die * 2 ^ 48 + obj

/-- The prefetch states of an object go with its last reserved query context on the node's dies (R166). -/
def forgetLayers (d : Dev) (obj : Nat) : Dev :=
  if d.attn.slots.any fun p => p.2.reserved && mkObj p.2.tenant p.2.object == obj then d
  else d.onObj fun x => { x with lastLayer := (List.range 16).foldl (fun t die => tput 0 t (prefetchKey die obj) 0) x.lastLayer }

/-- Free a slot and advance its generation (R98, R99). -/
def freeSlot (d : Dev) (i : Nat) : Dev :=
  let s := d.slot i
  forgetLayers (d.onSlot i fun s => { gens := s.gens + 1 }) (mkObj s.tenant s.object)

def Dev.request (d : Dev) (i : Nat) : Option Request := tfind d.attn.requests i
def Dev.onRequest (d : Dev) (i : Nat) (f : Request → Request) : Dev :=
  d.onAttn fun x => { x with requests := tupd x.requests i f }

/-- A request's context for a KV head on a die. -/
def Request.ctx (r : Request) (die head : Nat) : Option Ctx := r.ctxs.find? fun c => c.die == die && c.head == head

def Dev.onCtx (d : Dev) (slot die head : Nat) (f : Ctx → Ctx) : Dev :=
  d.onRequest slot fun r => { r with ctxs := modWhere (fun c => c.die == die && c.head == head) f r.ctxs }

/-! ### Ranges (R24, R83, R94, R113) -/

/-- Page groups of a range of pages. -/
def rangeGroups (first last : Nat) : List Nat := (List.range (last / 16 + 1 - first / 16)).map (· + first / 16)

/-- The slices of a page group: in one layer, or over all layers for a reservation, which names none. -/
def slicesIn (d : Dev) (obj : Nat) (layer : Option Nat) (g : Nat) : List Nat :=
  match layer with | some l => (groupSlice d obj l g).toList | none => groupSlices d obj g

/-- Page groups of a range that lie on a die; in a layer, or in any layer. -/
def dieGroups (d : Dev) (obj : Nat) (layer : Option Nat) (die first last : Nat) : List Nat :=
  (rangeGroups first last).filter fun g => (slicesIn d obj layer g).any (dieOfSlice · == die)

/-- Yarrow dies that a range spans, ascending. -/
def rangeDies (d : Dev) (obj : Nat) (layer : Option Nat) (first last : Nat) : List Nat :=
  let dies := (rangeGroups first last).flatMap fun g => (slicesIn d obj layer g).map dieOfSlice
  (List.range 16).filter fun k => dies.contains k

/-- Pages of a range that lie in some page groups. -/
def groupPages (gs : List Nat) (first last : Nat) : List Nat :=
  gs.flatMap fun g => ((List.range 16).map (· + 16 * g)).filter fun p => decide (first ≤ p ∧ p ≤ last)

def maxLevel (nodes : List (Nat × Nat)) : Nat := (nodes.map (·.1)).foldl max 0

/-- Part credits per context (R94). -/
def partCredits (gs : List Nat) : Nat :=
  max 1 ((runsOf gs).map fun r => 2 * (maxLevel (decompose r.2 (r.2 - r.1 + 1) r.1) + 1)).sum

/-- Context store of one context, in bytes (R113). -/
def contextBytes (rows dim k pages : Nat) (bounded : Bool) : Nat :=
  rows * dim * 2 + rows * (4 * dim + 20) * (k + 2) + if bounded then rows * pages * 4 else 0

/-- What a reservation takes on each die of its range. -/
def holdsFor (d : Dev) (obj : Nat) (dim rows first last : Nat) (bounded : Bool) : List Hold :=
  (rangeDies d obj none first last).map fun die =>
    let gs := dieGroups d obj none die first last
    let slices := (slicesIn d obj none (gs.headD 0)).filter (dieOfSlice · == die)
    let f := contextBytes rows dim (maxLevel (decomposeAll gs)) (groupPages gs first last).length bounded
    { die := die, slice := slices.headD 0, blocks := (f + 1023) / 1024, credits := partCredits gs }

/-- Sum over what the reserved slots hold. -/
def holdSum (d : Dev) (f : Slot → Hold → Nat) : Nat :=
  (d.attn.slots.map fun p => ((p.2.holds.filter fun h => !(p.2.lostDies.contains h.die)).map (f p.2)).sum).sum

def contextsTaken (d : Dev) (slice : Nat) : Nat := holdSum d fun s h => if h.slice = slice then s.kvCount else 0
def blocksTaken (d : Dev) (slice : Nat) : Nat := holdSum d fun s h => if h.slice = slice then s.kvCount * h.blocks else 0
def creditsTaken (d : Dev) (die : Nat) : Nat := holdSum d fun s h => if h.die = die then s.kvCount * h.credits else 0
def poolTaken (d : Dev) : Nat := holdSum d fun s h => s.kvCount * h.credits

/-- Contexts, context store and credits are free on every die (R94, R112, R113). -/
def holdsFree (d : Dev) (kvCount : Nat) (hs : List Hold) : Bool :=
  hs.all (fun h => d.ready h.die && decide (contextsTaken d h.slice + kvCount ≤ 96) &&
      decide (blocksTaken d h.slice + kvCount * h.blocks ≤ 4096) &&
      decide (creditsTaken d h.die + kvCount * h.credits ≤ 16384)) &&
    decide (poolTaken d + (hs.map fun h => kvCount * h.credits).sum ≤ 131072)

/-! ### Answers -/

/-- Write a local command's reply to its output buffer and complete it (R437). -/
def localAnswer (d : Dev) (ring index status : Nat) (body : Bytes) : Dev :=
  match d.cmd ring index with
  | none => d
  | some c =>
    let d := hostPut d 1 (.write (fld c.desc 0x28 8) body)
    if status ≤ 2 then cmdDone d ring index status 0 else cmdFailState d ring index status

/-- Answer with a reply on VC1 under service 2, or to a local command. -/
def answer (d : Dev) (b : Back) (status : Nat) (body : Bytes) : Dev :=
  match b.cmd with
  | some (ring, index) => localAnswer d ring index status body
  | none => replyOn d b.conn 1 2 b.sub body

/-- ATTN_RESERVE_REPLY (Table 04-3). -/
def reserveReply (status flags dieCount tag slot contexts lease : Nat) : Bytes :=
  toLe 1 0x21 ++ toLe 1 status ++ toLe 1 flags ++ toLe 1 dieCount ++ toLe 4 tag ++ toLe 4 slot ++ toLe 4 contexts ++
    toLe 4 lease ++ zeros 4

/-! ### ATTN_RESERVE (Table 04-13) -/

/-- Who sends a message, as its framing gives it: tenant, node, and the classification's action (none for a local
command). -/
structure Sender where
  tenant : Nat
  node : Nat
  action : Option Nat
  /-- R7: no reserved bit of the message's headers is set -/
  clean : Bool := true
deriving DecidableEq, Repr

/-- The composition a message is admitted under: of its action when ADMIT is set; a local job's is its object's. -/
def admittedTo (d : Dev) (o : Obj) (w : Sender) : Option Nat :=
  match w.action with
  | none => compIndex d o.composition
  | some a => if actionAdmit a then some (actionComposition a) else none

/-- The composition a slot or request runs under is being restarted (R379). -/
def restarting (d : Dev) (c : Nat) : Bool := (tget ({} : Composition) d.mbr.compositions c).restarting.isSome

/-- The object and shard a range lies in. -/
def rangeShard (d : Dev) (o : Obj) (first last : Nat) : Option Shard :=
  match o.shardFor first with
  | some (_, s) => if holdsRole d.regs.nodeId s && (s.isOpen || decide (last ≤ s.last)) && decide (last < o.geom.pages)
      then some s else none
  | none => none

/-- Checks 1 to 10 of Table 04-13, in order. -/
def reserveChecks (d : Dev) (b : Bytes) (w : Sender) : List (Bool × Nat) :=
  let tenant := fld b 2 2
  let object := fld b 4 4
  let obj := mkObj tenant object
  let kvF := fld b 8 1
  let kvN := fld b 9 1
  let qt := fld b 0xA 1
  let gp := fld b 0xB 1
  let first := fld b 0xC 4
  let last := fld b 0x10 4
  let lease := fld b 0x18 4
  let o := d.objAt obj
  let g := (o.map Obj.geom).getD ⟨0, 0, 0, 0⟩
  let sh := o.bind fun o => rangeShard d o first last
  let comp := o.bind fun o => admittedTo d o w
  let hs := holdsFor d obj g.D (qt * gp) first last (bitOf (fld b 1 1) 0)
  [(tenant == w.tenant, St.tenantMismatch),
   (w.clean && decide (fld b 1 1 < 2) && decide (first < 2 ^ 18) && decide (last < 2 ^ 18) && tenant != 0 && object != 0,
     St.fieldInvalid),
   (b.length == 32 && kvN != 255 && qt != 255 && gp != 255, St.lengthInvalid),
   (o.isSome, St.noSuchObject),
   (decide (kvF < g.hkv) && decide (1 ≤ kvN ∧ kvN ≤ g.hkv - kvF) && decide (1 ≤ qt ∧ qt ≤ 16) && decide (1 ≤ gp ∧ gp ≤ 16) &&
      decide (first ≤ last) && (lease == 0 || decide (1000000 ≤ lease ∧ lease ≤ 4000000000)), St.fieldInvalid),
   (sh.isSome, St.noSuchPage),
   ((sh.map (·.epoch)).getD 0 == fld b 0x14 4, St.epochStale),
   (comp.isSome && (rangeGroups first last).all fun x =>
      !(groupSlices d obj x).isEmpty && (groupSlices d obj x).all fun n =>
        (tget ({} : Composition) d.mbr.compositions (comp.getD 64)).slices.contains n, St.fieldInvalid),
   (hs.all fun h => decide (h.blocks ≤ 1024), St.lengthInvalid),
   (holdsFree d kvN hs && decide (d.attn.slots.countP (·.2.reserved) < 6144) && !(restarting d (comp.getD 64)) &&
      d.mbr.drain.step == 0, St.busy)]

/-- The lowest FREE slot. -/
def freeSlotIndex (d : Dev) : Nat := ((List.range 6144).find? fun i => !(d.slot i).reserved).getD 0

/-- Handle an ATTN_RESERVE (R94 to R100). -/
def reserveOp (d : Dev) (b : Bytes) (w : Sender) (back : Back) (stale : Bool) : Dev :=
  let tag := fld b 0x1C 4
  let fail := if stale then some St.epochStale else firstFail (reserveChecks d b w)
  match fail with
  | some st => answer d back st (reserveReply st 0 0 (if st = St.tenantMismatch then 0 else tag) 0 0 0)
  | none =>
    let i := freeSlotIndex d
    let tenant := fld b 2 2
    let object := fld b 4 4
    let obj := mkObj tenant object
    let first := fld b 0xC 4
    let last := fld b 0x10 4
    let kvN := fld b 9 1
    let rows := fld b 0xA 1 * fld b 0xB 1
    let dim := match d.objAt obj with | some o => o.geom.D | none => 0
    let comp := match d.objAt obj with | some o => (admittedTo d o w).getD 0 | none => 0
    let hs := holdsFor d obj dim rows first last (bitOf (fld b 1 1) 0)
    let lease := if fld b 0x18 4 = 0 then 500000000 else fld b 0x18 4
    let d := d.onSlot i fun s =>
      { gens := s.gens, reserved := true, tenant := tenant, object := object, kvFirst := fld b 8 1, kvCount := kvN,
        queryTokens := fld b 0xA 1, group := fld b 0xB 1, first := first, last := last,
        bounded := bitOf (fld b 1 1) 0, lease := lease, leaseAt := d.now, requester := w.node,
        local_ := back.cmd.isSome, composition := comp, holds := hs }
    answer d back St.ok (reserveReply St.ok 0 hs.length tag (slotHandle d i) (kvN * hs.length) lease)

/-! ### Parts (R106 to R111) -/

/-- Fields of an ATTN_REQUEST body (Table 04-4). -/
def aqBounded (b : Bytes) : Bool := fld b 1 1 % 4 == 1
def aqTenant (b : Bytes) : Nat := fld b 2 2
def aqObject (b : Bytes) : Nat := fld b 4 4
def aqLayer (b : Bytes) : Nat := fld b 8 1
def aqKvFirst (b : Bytes) : Nat := fld b 9 1
def aqKvCount (b : Bytes) : Nat := fld b 0xA 1
def aqTokens (b : Bytes) : Nat := fld b 0xB 1
def aqGroup (b : Bytes) : Nat := fld b 0xC 1
def aqSlot (b : Bytes) : Nat := fld b 0x10 4
def aqTag (b : Bytes) : Nat := fld b 0x14 4
def aqFirst (b : Bytes) : Nat := fld b 0x18 4
def aqLast (b : Bytes) : Nat := fld b 0x1C 4
def aqWindow (b : Bytes) : Nat := fld b 0x24 4
def aqScale (b : Bytes) : F32 := BitVec.ofNat 32 (fld b 0x28 4)
/-- ε; the sign of zero is not a sign of ε (R86). -/
def aqEps (b : Bytes) : F32 := if fld b 0x2C 4 = 0x80000000 then 0 else BitVec.ofNat 32 (fld b 0x2C 4)
/-- end_i and start_i of query token `i` (R66). -/
def aqEnd (b : Bytes) (i : Nat) : Nat := fld b 0x20 4 + fld b (0x44 + i) 1
def aqStart (b : Bytes) (i : Nat) : Nat := if aqWindow b = 0 then 0 else aqEnd b i + 1 - aqWindow b
/-- The query of row (k, i, g), k counted from KV_FIRST (R102). -/
def aqQuery (b : Bytes) (dim k i g : Nat) : List EVal :=
  let q := cut b (0x60 + ((k * aqTokens b + i) * aqGroup b + g) * dim * 2) (2 * dim)
  (List.range dim).map fun j => decodeElem (if bitOf (fld b 1 1) 2 then 1 else 0) (fld q (2 * j) 2)

/-- The smallest start_i and the largest end_i of a request. -/
def aqSpan (b : Bytes) : Nat × Nat :=
  let is := List.range (aqTokens b)
  ((is.map (aqStart b)).foldl min (aqStart b 0), (is.map (aqEnd b)).foldl max 0)

/-- A row record (Table 04-7). -/
def rowRecord (token head : Nat) (p : Partial) : Bytes :=
  toLe 1 token ++ toLe 1 head ++ toLe 1 p.flags ++ zeros 1 ++ toLe 4 p.m.toNat ++ toLe 4 p.l.toNat ++ toLe 4 p.count ++
    toLe 4 p.bound.toNat ++ p.o.flatMap fun x => toLe 4 x.toNat

/-- Row records in ascending query token and group head (R107). -/
def rowRecords (group : Nat) (ps : List Partial) : Bytes :=
  (List.zip (List.range ps.length) ps).flatMap fun p => rowRecord (p.1 / group) (p.1 % group) p.2

/-- An ATTN_PARTIAL (Table 04-6) that echoes a request's fields. -/
def partBytes (b : Bytes) (status head flags level index rows part total ticks epoch : Nat) (body : Bytes) : Bytes :=
  toLe 1 0x24 ++ toLe 1 status ++ toLe 2 (aqTenant b) ++ toLe 4 (aqObject b) ++ toLe 1 (aqLayer b) ++ toLe 1 head ++
    toLe 1 flags ++ toLe 1 level ++ toLe 2 index ++ toLe 2 rows ++ toLe 4 (aqTag b) ++ toLe 2 part ++ toLe 2 total ++
    toLe 4 ticks ++ cut b 0x38 4 ++ cut b 0x3C 4 ++ cut b 0x40 4 ++ toLe 4 epoch ++ zeros 4 ++ body

/-- Size of a full part (R437). -/
def partSize (b : Bytes) (dim : Nat) : Nat := 48 + aqTokens b * aqGroup b * (20 + 4 * dim)

/-! ### Stragglers (R380 to R382) -/

/-- A number goes to its place in a rising list. -/
def sortInsert (a : Nat) : List Nat → List Nat
  | [] => [a]
  | b :: t => if a ≤ b then a :: b :: t else b :: sortInsert a t

/-- The median of a list. -/
def median (l : List Nat) : Nat := (l.foldr sortInsert []).getD (l.length / 2) 0

/-- The service index of a composition, in 1/16 tick per page (R380). -/
def serviceIndex (d : Dev) (c : Nat) : Option Nat :=
  match tget [] d.attn.services c with | [] => none | l => some (median l)

/-- The indices of a composition held from the last second, its own included, at most 256. -/
def freshIndices (d : Dev) (c : Nat) : List Nat :=
  let k := tget ({} : Composition) d.mbr.compositions c
  (((serviceIndex d c).toList) ++ ((k.indices.filter fun x => decide (d.now < x.2.2 + 100000000)).map (·.2.1))).take 256

/-- The straggler index of a composition as a ratio: service index and median (R382). -/
def straggler (d : Dev) (c : Nat) : Option (Nat × Nat) :=
  let l := freshIndices d c
  match serviceIndex d c with
  | some s => if 5 ≤ l.length ∧ median l ≠ 0 then some (s, median l) else none
  | none => none

/-- PREFER_MIRROR of a composition now: set above 1.5, cleared at 1.25 or below, else as it was (R382). -/
def prefersMirror (d : Dev) (c : Nat) : Bool :=
  let was := (tget ({} : Composition) d.mbr.compositions c).preferMirror
  match straggler d c with
  | none => was
  | some (s, k) => decide (3 * k < 2 * s) || (was && decide (5 * k < 4 * s))

/-- PREFER_MIRROR of a composition is kept as it is now (R382). -/
def preferOp (d : Dev) (c : Nat) : Dev :=
  d.onMbr fun m => { m with compositions := tupd m.compositions c fun x => { x with preferMirror := prefersMirror d c } }

/-- PREFER_MIRROR of a part (R110, R382): the composition's flag, while the part's shard is PAIRED; in every part during
a drain (Table 17-7 step 1). -/
def preferMirror (d : Dev) (slot : Nat) : Bool :=
  let s := d.slot slot
  d.mbr.drain.step != 0 || prefersMirror d s.composition &&
    match (d.objAt (mkObj s.tenant s.object)).bind fun o => o.shardFor s.first with
    | some (_, sh) => sh.state == 0
    | none => false

/-- Keep a part of a request that was forwarded to a shadow (R376). -/
def keepOwnPart (d : Dev) (slot k total : Nat) (part : Bytes) : Dev :=
  if d.mbr.shadowings.any fun p => p.2.compared.any (·.slot == some slot) then
    let keep := fun (c : Compared) => { c with own := tins c.own k part, total := total }
    d.onMbr fun m =>
      { m with shadowings := m.shadowings.map fun p =>
          (p.1, { p.2 with compared := modWhere (·.slot == some slot) keep p.2.compared }) }
  else d

/-- Send part `k` of a request, or write it to a local job's buffer. -/
def sendPart (d : Dev) (slot : Nat) (r : Request) (k : Nat) (bytes : Bytes) (dim : Nat) : Dev :=
  let d := keepOwnPart d slot k r.parts.length bytes
  match r.back.cmd with
  | none => replyOn d r.back.conn 1 1 r.back.sub bytes
  | some (ring, index) =>
    match d.cmd ring index with
    | none => d
    | some c => hostPut d 1 (.write (fld c.desc 0x28 8 + k * partSize r.body dim) bytes)

/-- FLAGS of a part. -/
def partFlags (d : Dev) (slot : Nat) (r : Request) : Nat := b2n (aqBounded r.body) + 2 * b2n (preferMirror d slot)

/-- An error part for part number `k` (R109). -/
def errorPart (d : Dev) (slot : Nat) (r : Request) (k head status : Nat) : Bytes :=
  partBytes r.body status head (partFlags d slot r) 0xFF 0 0 k r.parts.length (d.now - r.arrived) r.epoch []

/-! ### Endings (R99, R109, R123, R124) -/

/-- A context's references on runs go. -/
def dropCtxRuns (d : Dev) (c : Ctx) : Dev :=
  (c.resolved.filter (!·.finished)).foldl (fun d p => unrefRun d p.run) d

/-- Take a slot's contexts on a die (all dies when none is given) out of the staged copies: a copy without a context is
released; while its read is pending it is kept until it arrives (R122, R124). -/
def unjoin (d : Dev) (slot : Nat) (heads : Nat → Nat → Bool) : Dev :=
  let d := d.onAttn fun x =>
    { x with staged := x.staged.map fun c =>
        { c with joined := dropWhere (fun j => j.1 == slot && heads c.die j.2) c.joined } }
  (d.attn.staged.filter fun c => c.joined.isEmpty && c.ahead.isNone && (c.ready || !c.issued)).foldl
    (fun d c => dropStaged d c.id) d

/-- A slot's request is over: its contexts stop, and a release that waited is answered (R99, R124). -/
def requestGone (d : Dev) (slot : Nat) (r : Request) : Dev :=
  let d := unjoin (r.ctxs.foldl dropCtxRuns d) slot fun _ _ => true
  let d := d.onAttn fun x => { x with requests := tdel x.requests slot }
  let forget := fun (c : Compared) => { c with slot := none }
  let d := d.onMbr fun m =>
    { m with shadowings := m.shadowings.map fun p =>
        (p.1, { p.2 with compared := modWhere (·.slot == some slot) forget p.2.compared }) }
  match (d.slot slot).releasing with
  | [] => d
  | rs =>
    let h := slotHandle d slot
    rs.foldl (fun d r => answer d r.1 St.ok (reserveReply St.ok 1 0 r.2 h 0 0)) (freeSlot d slot)

/-- The status of a local job that ends (R437). -/
def localDone (d : Dev) (r : Request) (status ticks : Nat) : Dev :=
  match r.back.cmd with
  | none => d
  | some (ring, index) =>
    d.onCmd ring index fun c =>
      { c with phase := .done, status := status, result := r.parts.length + 4294967296 * ticks,
               failOffset := if status ≤ 2 then 0xFFFF else Config.failOffset 0x1D status }

/-- A request ends with a status other than success: one error part for each part not handed over (R109). -/
def requestEnd (d : Dev) (slot status : Nat) : Dev :=
  match d.request slot with
  | none => d
  | some r =>
    let dim := match d.objAt (mkObj (aqTenant r.body) (aqObject r.body)) with | some o => o.geom.D | none => 64
    let d := ((List.zip (List.range r.parts.length) r.parts).filter (!·.2.handed)).foldl
      (fun d p => sendPart d slot r p.1 (errorPart d slot r p.1 p.2.head status) dim) d
    let d := ((r.ctxs.map (·.die)).eraseDups).foldl (fun d k => countEnded d status k) d
    requestGone (localDone d r status (d.now - r.arrived)) slot r

/-- Every request that meets a condition ends with a status. -/
def requestsEnd (d : Dev) (status : Nat) (p : Nat → Request → Bool) : Dev :=
  (d.attn.requests.filter fun q => p q.1 q.2).foldl (fun d q => requestEnd d q.1 status) d

/-- The connection of a request's requester has been torn down: its replies are discarded (R291). -/
def orphanBacks (d : Dev) (conn : Nat) : Dev :=
  let fix := fun (b : Back) => if b.cmd.isNone ∧ b.conn = conn then { b with conn := goneConn } else b
  let d := d.onRma fun x => { x with ops := modWhere (fun o => o.conn == conn) (fun o => { o with conn := goneConn }) x.ops }
  d.onAttn fun x =>
    { x with
      slots := x.slots.map fun p => (p.1, { p.2 with releasing := p.2.releasing.map fun q => (fix q.1, q.2) })
      requests := x.requests.map fun p => (p.1, { p.2 with back := fix p.2.back })
      acks := x.acks.map fun a => if a.conn = conn then { a with conn := goneConn } else a
      held := x.held.map fun h => if h.conn = conn then { h with conn := goneConn } else h }

/-- A context enters QUARANTINE other than by CLOSE_REPLY: everything received on it ends (R291). -/
def connTeardown (d : Dev) (i status : Nat) : Dev :=
  if (d.conn i).state = .closed ∨ (d.conn i).state = .quarantine then d
  else
    let c := d.conn i
    let d := asksLost (quarantineCore d i status) c.tenant c.peer
    let gone := (d.attn.held.filter (·.conn == i)).length
    let d := d.onAttn fun x => { x with held := dropWhere (·.conn == i) x.held }
    let d := orphanBacks (d.onTr fun x => { x with late := x.late + gone }) i
    requestsEnd d St.deadlineExpired fun _ r => r.back.cmd.isNone && r.back.conn == goneConn

/-! ### ATTN_REQUEST (Table 04-5) -/

/-- The shard of a slot's range in the node's record. -/
def slotShard (d : Dev) (s : Slot) : Option Shard :=
  match (d.objAt (mkObj s.tenant s.object)).bind fun o => o.shardFor s.first with
  | some (_, sh) => if holdsRole d.regs.nodeId sh then some sh else none
  | none => none

/-- An FP32 field that is positive and normal (R70). -/
def scaleOk (x : Nat) : Bool := decide (x < 2 ^ 31) && bitsOf x 23 8 != 0 && bitsOf x 23 8 != 255

/-- ε of bounded mode (R86). -/
def epsOk (x : Nat) : Bool := bitsOf x 23 8 != 255 && (decide (x < 2 ^ 31) || x == 2 ^ 31)

/-- Checks 1 to 5 of Table 04-5. -/
def requestChecks1 (d : Dev) (b : Bytes) (w : Sender) : List (Bool × Nat) :=
  let o := d.objAt (mkObj (aqTenant b) (aqObject b))
  let dim := match o with | some o => o.geom.D | none => 0
  let q := aqKvCount b * aqTokens b * aqGroup b * dim * 2
  let i := aqSlot b % 65536
  let s := d.slot i
  [(aqTenant b == w.tenant, St.tenantMismatch),
   (w.clean && decide (fld b 1 1 < 8) && allZero (cut b 0xD 3) && decide (aqFirst b < 2 ^ 18) && decide (aqLast b < 2 ^ 18) &&
      decide (fld b 0x20 4 < 2 ^ 24) && decide (aqWindow b < 2 ^ 24) && bitsOf (fld b 0x40 4) 16 15 == 0 &&
      allZero (cut b 0x54 12) && aqTenant b != 0 && aqObject b != 0, St.fieldInvalid),
   (o.isSome, St.noSuchObject),
   (b.length == 96 + q && decide (q ≤ 262144) && aqKvCount b != 255 && aqTokens b != 255 && aqGroup b != 255,
     St.lengthInvalid),
   (decide (i < 6144) && s.reserved && aqSlot b == slotHandle d i && s.tenant == aqTenant b && s.object == aqObject b &&
      (match w.action with | none => true | some a => actionAdmit a && actionComposition a == s.composition) &&
      (w.action.isSome || fld b 0x40 4 == 0),
     St.fieldInvalid)]

/-- Checks 6 to 9 of Table 04-5. -/
def requestChecks2 (d : Dev) (b : Bytes) : List (Bool × Nat) :=
  let o := d.objAt (mkObj (aqTenant b) (aqObject b))
  let i := aqSlot b % 65536
  let s := d.slot i
  let sh := slotShard d s
  let mode := fld b 1 1 % 4
  let pages := match o with | some o => o.geom.pages | none => 0
  let layers := match o with | some o => o.layers | none => 0
  [((d.request i).isNone, St.busy),
   (decide (mode < 2) && (mode == 0 || s.bounded) && decide (aqLayer b < layers) && decide (s.kvFirst ≤ aqKvFirst b) &&
      decide (1 ≤ aqKvCount b ∧ aqKvFirst b + aqKvCount b ≤ s.kvFirst + s.kvCount) &&
      decide (1 ≤ aqTokens b ∧ aqTokens b ≤ s.queryTokens) && aqGroup b == s.group && decide (aqFirst b ≤ aqLast b) &&
      scaleOk (fld b 0x28 4) && (if mode = 1 then epsOk (fld b 0x2C 4) else fld b 0x2C 4 == 0) &&
      fld b 0x30 4 != 0xFFFFFFFF && allZero (cut b (0x44 + aqTokens b) (16 - aqTokens b)) &&
      decide ((aqSpan b).2 ≤ 16777215), St.fieldInvalid),
   (match sh with | some s => s.epoch == fld b 0x34 4 | none => true, St.epochStale),
   (sh.isSome && decide (s.first ≤ aqFirst b) && decide (aqLast b ≤ s.last) && decide (aqLast b < pages) &&
      (match sh with | some x => x.isOpen || decide (aqLast b ≤ x.last) | none => false), St.noSuchPage)]

/-- PREFER_MIRROR of a request that is refused, from the object and range it names (R110, R382); a drain sets it in every
part (Table 17-7 step 1). -/
def refusedMirror (d : Dev) (b : Bytes) : Bool :=
  d.mbr.drain.step != 0 ||
    match d.objAt (mkObj (aqTenant b) (aqObject b)) with
    | none => false
    | some o =>
      (match compIndex d o.composition with
        | some c => prefersMirror d c
        | none => false) &&
        match o.shardFor (aqFirst b) with | some (_, sh) => sh.state == 0 | none => false

/-- The part of a request that is refused by its checks (R93, R108): a TENANT_MISMATCH echoes nothing of the body. -/
def refusedPart (d : Dev) (b : Bytes) (tenant status ticks : Nat) : Bytes :=
  if status = St.tenantMismatch then
    partBytes (zeros 2 ++ toLe 2 tenant ++ zeros 92) status 0 (2 * b2n (d.mbr.drain.step != 0)) 0xFF 0 0 0 1 ticks 0 []
  else
    partBytes (padTo 96 b) status (aqKvFirst b) (b2n (aqBounded b) + 2 * b2n (refusedMirror d b)) 0xFF 0 0 0 1 ticks 0 []

/-- Refuse a request with one part, or end the local job with it (R437). -/
def refuseRequest (d : Dev) (b : Bytes) (tenant : Nat) (back : Back) (status arrived : Nat) : Dev :=
  let part := refusedPart d b tenant status (d.now - arrived)
  match back.cmd with
  | none => replyOn d back.conn 1 1 back.sub part
  | some (ring, index) =>
    match d.cmd ring index with
    | none => d
    | some c =>
      let d := hostPut d 1 (.write (fld c.desc 0x28 8) part)
      d.onCmd ring index fun c =>
        { c with phase := .done, status := status, result := 1 + 4294967296 * (d.now - arrived),
                 failOffset := Config.failOffset 0x1D status }

/-- The contexts of a request (R112). -/
def contextsOf (d : Dev) (obj : Nat) (b : Bytes) : List Ctx :=
  (rangeDies d obj (aqLayer b) (aqFirst b) (aqLast b)).flatMap fun die =>
    let ps := groupPages (dieGroups d obj (aqLayer b) die (aqFirst b) (aqLast b)) (aqFirst b) (aqLast b)
    (List.range (aqKvCount b)).map fun k => { die := die, head := aqKvFirst b + k, todo := ps }

/-- The parts of a request, in part number order (R83, R108). -/
def partsOf (d : Dev) (obj : Nat) (b : Bytes) : List Part :=
  (rangeDies d obj (aqLayer b) (aqFirst b) (aqLast b)).flatMap fun die =>
    let ns := if aqBounded b then [(0xFF, 0)] else decomposeAll (dieGroups d obj (aqLayer b) die (aqFirst b) (aqLast b))
    (List.range (aqKvCount b)).flatMap fun k =>
      ns.map fun n => { die := die, head := aqKvFirst b + k, level := n.1, index := n.2 }

/-! ### Prefetch trigger (R166, R167) -/

/-- The sealed pages of an object's layer on a die that a trigger takes. -/
def triggerPages (d : Dev) (obj die layer : Nat) (b : Bytes) (T : Nat) : List Nat :=
  let span := aqSpan b
  ((pagesOf d obj).filter fun k =>
    let e := d.entry k
    let p := keyPage k
    keyLayer k == layer && (e.state == .sealed || (e.state == .shared && (d.ownerEntry k).state == .sealed)) &&
      decide (aqFirst b ≤ p ∧ p ≤ aqLast b) && decide (p * T ≤ span.2 ∧ span.1 < (p + 1) * T) &&
      (groupSlice d obj layer (p / 16)).map dieOfSlice == some die)

/-- A request at a new layer queues prefetch of the next layers' pages and discards the unissued (R166, R167). -/
def prefetchTrigger (d : Dev) (obj : Nat) (b : Bytes) (die : Nat) : Dev :=
  match d.objAt obj with
  | none => d
  | some o =>
    if o.policy = 3 ∨ tget 0 d.obj.lastLayer (prefetchKey die obj) = aqLayer b + 1 then d
    else
      let n := min o.depth (o.layers - 1)
      let items := (List.range n).flatMap fun k =>
        (triggerPages d obj die ((aqLayer b + k + 1) % o.layers) b o.geom.T).flatMap fun key =>
          let ok := d.ownerKey key
          let s := (pageSlice d key).getD 64
          let c := tget ({} : Composition) d.mbr.compositions ((sliceComp d s).getD 64)
          (if o.policy != 0 && (d.entry ok).tier == 2 && (copyFor d ok).isNone && !(tget [] d.obj.prefetchArea s).isEmpty
            then [({ tenantObject := obj, key := ok, stage := false, near := k + 1 } : Prefetch)] else []) ++
            (if c.staging != 0 then [{ tenantObject := obj, key := ok, stage := true, near := k + 1 }] else [])
      d.onObj fun x =>
        { x with
          lastLayer := tput 0 x.lastLayer (prefetchKey die obj) (aqLayer b + 1)
          prefetch := tmod [] x.prefetch die fun l => dropWhere (fun p => p.tenantObject == obj && !p.issued) l ++ items }

/-! ### Forwarding to a shadow (R376) -/

/-- A forwarded request fits the slot held on the shadow: it was reserved with the shape of `s`. -/
def shadowFits (s own : Slot) : Bool :=
  own.kvFirst == s.kvFirst && own.kvCount == s.kvCount && own.queryTokens == s.queryTokens && own.group == s.group &&
    own.first == s.first && own.last == s.last && !own.bounded

/-- Every end_i of a request lies below the layer's length here and in what the shadow has acknowledged. -/
def shadowEligible (k : Chip) (obj : Nat) (sh : Shadowing) (b : Bytes) : Bool :=
  match k.dev.objAt obj with
  | none => false
  | some o =>
    (tailUnread k.dev obj (aqLayer b)).isEmpty && decide ((aqSpan b).2 < layerLength k obj o.geom (aqLayer b)) &&
      !(sh.unacked.any fun u => u.1 == aqLayer b && decide (u.2 ≤ (aqSpan b).2))

/-- ATTN_RESERVE for a slot on a shadow with the shape of an own slot. -/
def shadowReserve (s : Slot) (epoch tag : Nat) : Bytes :=
  toLe 1 0x20 ++ zeros 1 ++ toLe 2 s.tenant ++ toLe 4 s.object ++ toLe 1 s.kvFirst ++ toLe 1 s.kvCount ++
    toLe 1 s.queryTokens ++ toLe 1 s.group ++ toLe 4 s.first ++ toLe 4 s.last ++ toLe 4 epoch ++ zeros 4 ++ toLe 4 tag

/-- The primary forwards every SAMPLE-th eligible dense request to the shadow, on a slot it reserves there. -/
def shadowForward (k : Chip) (slot : Nat) (b : Bytes) (sub : Nat) : Dev :=
  let d := k.dev
  let obj := mkObj (aqTenant b) (aqObject b)
  match (d.objAt obj).bind fun o => o.shardFor (aqFirst b) with
  | none => d
  | some (n, sh) =>
    let key := obj * 256 + n
    match tfind d.mbr.shadowings key with
    | none => d
    | some w =>
      if aqBounded b || sh.primary != some d.regs.nodeId || !w.toSend.isEmpty || w.digest.isSome then d
      else
        let d := d.onMbr fun m => { m with shadowings := tupd m.shadowings key fun w => { w with seen := w.seen + 1 } }
        let s := d.slot slot
        if w.seen + 1 < w.sample ∨ 16 ≤ w.compared.length ∨ shadowEligible k obj w b = false then d
        else
          match d.attn.own.find? fun x => x.object == obj && x.shard == n && x.node == w.shadow with
          | none =>
            let (tag, d) := freshTag d
            let own : OwnSlot := { node := w.shadow, requestId := tag, object := obj, shard := n, shape := s }
            sendTo (d.onAttn fun x => { x with own := x.own ++ [own] }) (aqTenant b) w.shadow
              { body := shadowReserve s sh.epoch tag, vc := 2, service := 5, subscriber := sub }
          | some own =>
            match own.handle with
            | none => d
            | some h =>
              if shadowFits s own.shape then
                let (tag, d) := freshTag d
                let body := setAt (setAt (setAt b 0x10 (toLe 4 h)) 0x14 (toLe 4 tag)) 0x38 (zeros 12)
                let limit := if fld b 0x30 4 = 0 then 10000000 else fld b 0x30 4
                let c : Compared := { request := tag, slot := some slot, until_ := d.now + limit }
                let d := d.onMbr fun m =>
                  { m with shadowings := tupd m.shadowings key fun w => { w with seen := 0, compared := w.compared ++ [c] } }
                sendTo d (aqTenant b) w.shadow { body := body, vc := 2, service := 5, subscriber := sub }
              else d

/-! ### Admission -/

/-- Handle an ATTN_REQUEST (R104, R105). `outLen` is a local job's RESULT_LEN. -/
def requestOp (k : Chip) (b : Bytes) (w : Sender) (back : Back) (arrived : Nat) (outLen : Option Nat) (stale : Bool) :
    Dev :=
  let d := k.dev
  match if stale then some St.epochStale else firstFail (requestChecks1 d b w) with
  | some st => refuseRequest d b w.tenant back st arrived
  | none =>
    let i := aqSlot b % 65536
    let d := d.onSlot i fun s => { s with leaseAt := max s.leaseAt arrived, guardAt := none }
    match firstFail (requestChecks2 d b) with
    | some st => refuseRequest d b w.tenant back st arrived
    | none =>
      let obj := mkObj (aqTenant b) (aqObject b)
      let s := d.slot i
      let limit := if fld b 0x30 4 = 0 then 10000000 else fld b 0x30 4
      let dim := match d.objAt obj with | some o => o.geom.D | none => 64
      let r : Request :=
        { serial := d.attn.nextRequest, body := b, back := back, arrived := arrived, deadline := limit, epoch := fld b 0x34 4,
          composition := s.composition, ctxs := contextsOf d obj b, parts := partsOf d obj b
          pages := aqLast b + 1 - aqFirst b }
      if (match outLen with | some n => decide (n < r.parts.length * partSize b dim) | none => false) then
        refuseRequest d b w.tenant back St.lengthInvalid arrived
      else
        let d := d.onAttn fun x => { x with requests := tins x.requests i r, nextRequest := x.nextRequest + 1 }
        let d := ((r.ctxs.map (·.die)).eraseDups).foldl (fun d die => hubXfer d die 0 b.length) d
        let d := r.ctxs.foldl (fun d c => yarrow d c.die 0 (((s.holds.find? (·.die == c.die)).map (·.slice)).getD 0 % 4) 1) d
        if s.lostDies.isEmpty ∧ s.holds.all (fun h => d.ready h.die) then
          let d := ((r.ctxs.map (·.die)).eraseDups).foldl (fun d die => prefetchTrigger d obj b die) d
          shadowForward ⟨d, k.mem⟩ i b back.sub
        else requestEnd d i St.dieLost

/-! ### ATTN_RELEASE (Table 04-14) -/

/-- Handle an ATTN_RELEASE (R99, R100). -/
def releaseOp (d : Dev) (b : Bytes) (w : Sender) (back : Back) (stale : Bool) : Dev :=
  let h := fld b 4 4
  let tag := fld b 8 4
  let i := h % 65536
  let s := d.slot i
  let current := s.reserved && h == slotHandle d i
  let fail := if stale then some St.epochStale else firstFail
    [(fld b 2 2 == w.tenant, St.tenantMismatch), (w.clean && fld b 1 1 == 0 && fld b 2 2 != 0, St.fieldInvalid),
     (b.length == 12, St.lengthInvalid), (decide (i < 6144), St.fieldInvalid),
     (!current || s.tenant == fld b 2 2, St.tenantMismatch), (!current || s.requester == w.node, St.fieldInvalid)]
  match fail with
  | some st => answer d back st (reserveReply st 1 0 (if st = St.tenantMismatch ∧ fld b 2 2 ≠ w.tenant then 0 else tag) 0 0 0)
  | none =>
    if current then
      if (d.request i).isSome then d.onSlot i fun s => { s with releasing := s.releasing ++ [(back, tag)] }
      else answer (freeSlot d i) back St.ok (reserveReply St.ok 1 0 tag h 0 0)
    else answer d back St.ok (reserveReply St.ok 1 0 tag h 0 0)

/-! ### Messages of the inbox -/

/-- The sender of a message. -/
def senderOf (m : Inb) : Sender :=
  { tenant := msgTenant m.bytes, node := msgSrc m.bytes,
    action := if m.conn = ownConn ∧ m.action = 0 then none else some m.action, clean := headersOk m.bytes }

def backOf (m : Inb) : Back := { conn := m.conn, sub := actionSub m.action }

/-- `a` comes before `b` in sequence order. -/
def seqBefore (a b : Nat) : Bool := decide (1 ≤ dist32 b a) && decide (dist32 b a < 2147483648)

/-- A connection's messages that have been taken up still execute: a request or a held append, a read of host memory for an
RMA_READ, or an RMA_WRITE's bytes on their way to host memory (R295). -/
def connExecutes (d : Dev) (i seq : Nat) : Bool :=
  d.attn.requests.any (fun p => p.2.back.cmd.isNone && p.2.back.conn == i) ||
    d.attn.held.any (fun h => h.conn == i && seqBefore (msgSeq h.bytes) seq) ||
    d.rma.ops.any (fun o => !o.issued && o.conn == i) || d.hif.queue.any (·.conn == i)

/-- FENCE holds a message until every message before it on its connection has executed (R295). -/
def fenceClear (d : Dev) (m : Inb) : Bool :=
  let s := msgSeq m.bytes
  bitOf (msgTflags m.bytes) 0 == false || m.conn == ownConn ||
    ((s == (d.conn m.conn).expected || seqBefore s (d.conn m.conn).expected) && !(connExecutes d m.conn s) &&
      d.tr.inbox.all (fun x => x.conn != m.conn || !(seqBefore (msgSeq x.bytes) s)) &&
      d.tr.search.all (fun x => x.conn != m.conn || !(seqBefore (msgSeq x.bytes) s)) &&
      d.tr.waiting.all (fun x => x.conn != m.conn || !(seqBefore (msgSeq x.bytes) s)))

/-- The message at a number of the inbox, if it has the wanted type and no fence holds it. -/
def Dev.msg (d : Dev) (id type : Nat) : Option Inb :=
  match d.tr.inbox.find? (·.id == id) with
  | none => none
  | some m =>
    if bodyType m.bytes = type ∧ fenceClear d m = true then some m else none

/-- A message leaves the inbox. -/
def Dev.take (d : Dev) (id : Nat) : Dev := d.onTr fun x => { x with inbox := dropWhere (·.id == id) x.inbox }

/-- A message of the inbox is acted on and leaves it. -/
def onMsg (d : Dev) (id type : Nat) (f : Dev → Inb → Dev) : Dev :=
  match d.msg id type with
  | some m => f (d.take id) m
  | none => d

/-- The same for work that reads tier 1. -/
def onMsgRead (k : Chip) (id type : Nat) (f : Chip → Inb → Dev) : Dev :=
  match k.dev.msg id type with
  | some m => f (k.onDev fun d => d.take id) m
  | none => k.dev

/-- The same for work that writes tier 1. -/
def onMsgMem (k : Chip) (id type : Nat) (f : Chip → Inb → Chip) : Chip :=
  match k.dev.msg id type with
  | some m => f (k.onDev fun d => d.take id) m
  | none => k

end Sys2Proof.Machine
end

