-- ==== Sys2Proof/Machine/EngineOps.lean ====
section
/-! DEFINITION. The run-ahead engines: resolving pages, staged copies, array passes, bounded mode, tree nodes (spec 04,
R80 to R90, R116 to R122). -/

namespace Sys2Proof.Machine

/-! ### A request's rows -/

/-- The geometry a request runs with. -/
def reqGeom (d : Dev) (b : Bytes) : Geom :=
  match d.objAt (mkObj (aqTenant b) (aqObject b)) with | some o => o.geom | none => ⟨0, 0, 0, 0⟩

/-- The rows of a KV head: query token and query, in ascending query token and group head. -/
def headRows (b : Bytes) (dim head : Nat) : List (Nat × List EVal) :=
  (List.range (aqTokens b)).flatMap fun i =>
    (List.range (aqGroup b)).map fun g => (i, aqQuery b dim (head - aqKvFirst b) i g)

/-- A slot of a page is included for query token `i` (R66). -/
def included (b : Bytes) (T page i t : Nat) : Bool :=
  decide (aqStart b i ≤ page * T + t) && decide (page * T + t ≤ aqEnd b i)

/-- Included tokens of a page for query token `i`, of its first `valid`. -/
def includedCount (b : Bytes) (T page valid i : Nat) : Nat :=
  let lo := max (aqStart b i) (page * T)
  let hi := min (aqEnd b i + 1) (page * T + valid)
  hi - lo

/-- Some row includes a token of the page. -/
def anyIncluded (b : Bytes) (T page valid : Nat) : Bool :=
  (List.range (aqTokens b)).any fun i => decide (0 < includedCount b T page valid i)

/-- The page partials of every row of a KV head (R73). -/
def pageRows (b : Bytes) (g : Geom) (raw : Bytes) (head page valid : Nat) : List Partial :=
  let toks := (List.range valid).map fun t => (t, tokenOf g raw head t)
  (headRows b g.D head).map fun r =>
    pagePartial r.2 (aqScale b) ((toks.filter fun p => included b g.T page r.1 p.1).map (·.2))

/-! ### Resolving pages (R41, R50, R58, R116, R150) -/

/-- The slice that holds a page: of its tier-1 run, else by its page group. -/
def entrySlice (d : Dev) (key : Nat) (e : Entry) : Nat :=
  if e.tier = 1 then e.frame / (48 * granFrames) else (pageSlice d key).getD 0

/-- VALID_TOKENS as the walker read it for this request, if it has resolved the page already (R41). -/
def snapshot (r : Request) (page : Nat) : Option Nat :=
  (r.ctxs.findSome? fun c => c.resolved.find? fun p => p.page == page && !p.waited).map (·.valid)

/-- A page of a context lies at most 64 pages ahead of its oldest unfinished page (R116). -/
def mayRunAhead (c : Ctx) (page : Nat) : Bool :=
  decide (((c.resolved.dropWhile (·.finished)).takeWhile (·.page != page)).length ≤ 64)

/-- The depths of the engine queues whose fullness the model sees (Table 04-9): requests at admission, page reads in the
fetch queue, compressed pages in an expander, parts in the result queue. -/
def admissionDepth : Nat := 64
def fetchDepth : Nat := 256
def expanderDepth : Nat := 2
def resultDepth : Nat := 64

/-- Page reads of a die that wait for their issue: its fetch queue (Table 04-9). -/
def fetchQueue (d : Dev) (die : Nat) : Nat := d.attn.staged.countP fun c => c.die == die && !c.issued

/-- Where a page is read from (R150): its run and whether by unordered I/O; none when the tier-2 path is down. -/
def pageSource (d : Dev) (key : Nat) (e : Entry) : Option (Nat × Bool) :=
  if e.tier = 1 then some (e.run, false)
  else
    match copyFor d key with
    | some c => some (runKey 1 c.frame, false)
    | none => if tier2Up d then some (e.run, true) else none

/-- Join a staged copy of a page, or queue a read of it; none when the page buffer has no room. The path being down ends
the request (Table 06-5). -/
def wantCopy (d : Dev) (slot die head key : Nat) (e : Entry) (growing : Bool) (valid : Nat) (g : Geom) :
    Option (Option Nat) × Dev :=
  -- the walker releases a prefetch copy that it finds invalid (R168)
  let d := dropStaleCopies d key
  match d.attn.staged.find? fun c => joinable c die key growing valid 1 with
  | some c =>
    let d := d.onStaged c.id fun c => { c with joined := c.joined ++ [(slot, head)] }
    (some (some c.id), yarrow d die 3 (c.slice % 4) 1)
  | none =>
    match pageSource d key e with
    | none => (some none, requestEnd d slot St.tierReadFailed)
    | some (run, uio) =>
      let slice := entrySlice d key e
      if fetchDepth ≤ fetchQueue d die then (none, d)
      else
        let d := bufferRoom slice (g.raw + 128) d.attn.staged.length d
        if bufferFits d slice (g.raw + 128) then
          let id := d.attn.nextStaged
          (some (some id), newStaged d
            { id := id, die := die, slice := slice, key := key, valid := valid, growing := growing, run := run, uio := uio,
              joined := [(slot, head)], size := g.raw + 128 })
        else (none, d)

/-- VALID_TOKENS of a growing page cannot be read (R188): the request ends, and the page becomes SUSPECT (Table 07-4). -/
def headerLost (d : Dev) (slot key : Nat) (bursts : List Nat) : Dev :=
  suspectPage (requestEnd (badFound d bursts 2 (keyTenant key) St.uncorrectable) slot St.uncorrectable) key false

/-- Dense mode: resolve the next page of a context. -/
def resolveDense (k : Chip) (slot : Nat) (r : Request) (c : Ctx) : Dev :=
  let d := k.dev
  match c.todo with
  | [] => d
  | page :: rest =>
    let key := d.ownerKey (mkKey (aqTenant r.body) (aqObject r.body) (aqLayer r.body) page)
    let e := d.entry key
    let g := reqGeom d r.body
    if e.state = .absent then d.onCtx slot c.die c.head fun c => { c with todo := rest, waits := none }
    else if e.suspect then d.onCtx slot c.die c.head fun c => { c with waits := some key }
    else if !(mayRunAhead c page) then d
    else if let b :: bs := headerBad d e then headerLost d slot key (b :: bs)
    else
      let valid := (snapshot r page).getD (pageValid k g e)
      match wantCopy d slot c.die c.head key e e.grows valid g with
      | (none, d) => d
      | (some id, d) =>
        let p : Resolved := { key := key, page := page, run := e.run, valid := valid, copy := id }
        let d := yarrow (refRun d e.run) c.die 2 (entrySlice d key e % 4) 1
        d.onCtx slot c.die c.head fun c => { c with todo := rest, waits := none, resolved := c.resolved ++ [p] }

/-! ### Bounded mode (R87 to R90, R118) -/

/-- Page bounds of every row of a KV head from a sealed image's header and summary block (R87). -/
def imageBounds (b : Bytes) (g : Geom) (img : Bytes) (head : Nat) : List F32 :=
  let rows := headRows b g.D head
  if bitOf (readHdr img).flags 2 then rows.map fun _ => f32Inf
  else
    let sm := summaryOf img head
    rows.map fun r => pageBound r.2 (aqScale b) sm

/-- Bounds of +∞ for every row. -/
def infBounds (b : Bytes) : List F32 := List.replicate (aqTokens b * aqGroup b) f32Inf

/-- Insert a page by descending bound, ties by ascending page index (R88). -/
def orderInsert (p : Nat × F32) : List (Nat × F32) → List (Nat × F32)
  | [] => [p]
  | q :: l => if boundLt q.2 p.2 || (q.2 == p.2 && decide (p.1 < q.1)) then p :: q :: l else q :: orderInsert p l

/-- The larger of two bounds. -/
def boundMax (a b : F32) : F32 := if boundLt a b then b else a

/-- The die's contexts of a request. -/
def dieCtxs (r : Request) (die : Nat) : List Ctx := r.ctxs.filter (·.die == die)

/-- The request bound of a page on a die: the largest over the rows that include a token of it (R88). -/
def requestBound (b : Bytes) (T : Nat) (cs : List Ctx) (page valid : Nat) : F32 :=
  ((cs.flatMap fun c => (List.zip (List.range (tget [] c.bounds page).length) (tget [] c.bounds page)).filter fun p =>
      decide (0 < includedCount b T page valid (p.1 / max 1 (aqGroup b)))).map (·.2)).foldl boundMax f32NegInf

/-- Every context of the die has its pages' bounds. -/
def boundsReady (cs : List Ctx) : Bool :=
  cs.all fun c => c.todo.isEmpty && !c.boundsDone && c.resolved.all fun p => (tfind c.bounds p.page).isSome

/-- Order the die's pages once every bound is there (R88); pages without an included token are let go. -/
def orderPages (d : Dev) (slot die : Nat) : Dev :=
  match d.request slot with
  | none => d
  | some r =>
    let cs := dieCtxs r die
    if boundsReady cs then
      let g := reqGeom d r.body
      let keep := fun (p : Resolved) => anyIncluded r.body g.T p.page p.valid
      let pages := match cs with | [] => [] | c :: _ => c.resolved.filter keep
      let order := (pages.foldl (fun l p => orderInsert (p.page, requestBound r.body g.T cs p.page p.valid) l) []).map (·.1)
      let d := cs.foldl (fun d c => (c.resolved.filter fun p => !(order.contains p.page)).foldl
        (fun d p => unrefRun d p.run) d) d
      let rows := aqTokens r.body * aqGroup r.body
      d.onRequest slot fun r =>
        { r with ctxs := modWhere (·.die == die) (fun c =>
            { c with
              boundsDone := true, fold := List.replicate rows (emptyPartial g.D)
              stopped := if order.isEmpty then some [] else none
              resolved := order.filterMap fun p => c.resolved.find? (·.page == p) }) r.ctxs }
    else d

/-- A page's bounds are known for a context. -/
def setBounds (d : Dev) (slot die head page : Nat) (bs : List F32) : Dev :=
  orderPages (d.onCtx slot die head fun c => { c with bounds := tins c.bounds page bs }) slot die

/-- R of R89 and the test for every row of a context: the rows' skipped-mass bounds, and whether all are satisfied. -/
def testCtx (b : Bytes) (T : Nat) (c : Ctx) : List F32 × Bool :=
  let left := c.resolved.filter (!·.finished)
  let pages := left.foldl (fun l p => insInterval (p.page, p.valid) l) []
  let rs := (List.zip (List.range c.fold.length) c.fold).map fun q =>
    let i := q.1 / max 1 (aqGroup b)
    let mine := (pages.filter fun p => decide (0 < includedCount b T p.1 p.2 i)).map fun p =>
      (includedCount b T p.1 p.2 i, (tget [] c.bounds p.1).getD q.1 f32Inf)
    rowTest (aqEps b) q.2 mine
  (rs.map (·.2), rs.all (·.1))

/-- The die stops a bounded request when every row is satisfied or no page remains (R89, R90). -/
def stopTest (d : Dev) (slot die : Nat) : Dev :=
  match d.request slot with
  | none => d
  | some r =>
    let cs := dieCtxs r die
    let T := (reqGeom d r.body).T
    let done := cs.map fun c => (c.resolved.filter (·.finished)).length
    if cs.any (fun c => c.stopped.isSome) || done.any (fun n => n != done.headD 0) then d
    else if cs.all (fun c => (testCtx r.body T c).2 || c.resolved.all (·.finished)) then
      let d := cs.foldl dropCtxRuns d
      let d := d.onRequest slot fun r =>
        { r with ctxs := modWhere (·.die == die) (fun c =>
            { c with
              stopped := some ((c.resolved.filter (!·.finished)).map (·.page))
              resolved := c.resolved.filter (·.finished)
              fold := List.zipWith (fun (p : Partial) x => { p with bound := x }) c.fold (testCtx r.body T c).1 }) r.ctxs }
      unjoin d slot fun k _ => k == die
    else d

/-- A bounded context finishes a page that holds no included token after all, in its place in the order. -/
def finishEmpty (d : Dev) (slot : Nat) (c : Ctx) (page : Nat) : Dev :=
  if (c.resolved.takeWhile (·.page != page)).all (·.finished) then
    stopTest (d.onCtx slot c.die c.head fun c =>
      { c with waits := none, resolved := modWhere (·.page == page) (fun p => { p with finished := true }) c.resolved }) slot c.die
  else d

/-- Bytes of the part of a sealed image up to the end of its summary block, with all six code tables (R138). -/
def summaryReach (g : Geom) : Nat := 896 + 4 * g.hkv * g.D

/-- Bounded mode: read the summary of the next page of a context, or fetch the next page in order. -/
def resolveBounded (k : Chip) (slot : Nat) (r : Request) (c : Ctx) : Dev :=
  let d := k.dev
  let g := reqGeom d r.body
  let keyOf := fun page => d.ownerKey (mkKey (aqTenant r.body) (aqObject r.body) (aqLayer r.body) page)
  if c.boundsDone then
    match c.resolved.find? fun p => p.copy.isNone && !p.finished with
    | none => d
    | some p =>
      let key := if p.waited then keyOf p.page else p.key
      let e := d.entry key
      if p.waited && e.suspect then d.onCtx slot c.die c.head fun c => { c with waits := some key }
      else if let (true, b :: bs) := (p.waited, headerBad d e) then headerLost d slot key (b :: bs)
      else if p.waited && (e.state == .absent || !(anyIncluded r.body g.T p.page ((snapshot r p.page).getD (pageValid k g e)))) then
        finishEmpty d slot c p.page
      else if !(mayRunAhead c p.page) || c.stopped.isSome then d
      else
        let valid := if p.waited then (snapshot r p.page).getD (pageValid k g e) else p.valid
        let grows := if p.waited then e.grows else e.grows && e.run == p.run
        match wantCopy d slot c.die c.head key (if p.waited then e else { e with frame := runFrame p.run, tier := runTier p.run })
            grows valid g with
        | (none, d) => d
        | (some id, d) =>
          let d := if p.waited then refRun d e.run else d
          let q := { p with copy := id, key := key, valid := valid, waited := false, run := if p.waited then e.run else p.run }
          let d := yarrow d c.die 2 (entrySlice d key e % 4) 1
          d.onCtx slot c.die c.head fun c =>
            { c with waits := none, resolved := modWhere (·.page == p.page) (fun _ => q) c.resolved }
  else
    match c.todo with
    | [] => orderPages d slot c.die
    | page :: rest =>
      let key := keyOf page
      let e := d.entry key
      let note := fun (d : Dev) (p : Resolved) =>
        d.onCtx slot c.die c.head fun c => { c with todo := rest, resolved := c.resolved ++ [p] }
      if e.state = .absent then
        orderPages (d.onCtx slot c.die c.head fun c => { c with todo := rest }) slot c.die
      else if e.suspect then
        setBounds (note d { key := key, page := page, run := 0, valid := g.T, waited := true }) slot c.die c.head page
          (infBounds r.body)
      else if let b :: bs := headerBad d e then headerLost d slot key (b :: bs)
      else
        let valid := (snapshot r page).getD (pageValid k g e)
        let d1 := note (refRun d e.run) { key := key, page := page, run := e.run, valid := valid }
        if e.grows then setBounds d1 slot c.die c.head page (infBounds r.body)
        else
          match pageSource d key e with
          | none => requestEnd d slot St.tierReadFailed
          | some (run, false) =>
            let a := 4096 * runFrame run
            let n := 4 * g.hkv * g.D
            let sl := fld (readTier1 k a 128) 0x3C 4
            match badBursts d a 128 ++ badBursts d (a + sl) n with
            | [] =>
              setBounds d1 slot c.die c.head page (imageBounds r.body g (readTier1 k a (sl + n)) c.head)
            | b :: bs =>
              let d := badFound d (b :: bs).eraseDups 2 (aqTenant r.body) St.uncorrectable
              setBounds (note (suspectPage d key false)
                { key := key, page := page, run := 0, valid := g.T, waited := true }) slot c.die c.head page (infBounds r.body)
          | some (run, true) =>
            if uioRoom d (uioParts (summaryReach g)) then
              uioReadBytes d1 3 (.summary r.serial slot c.die c.head page) (runFrame run) (summaryReach g)
            else d

/-! ### Staged copies (R120 to R122, R147, R187) -/

/-- Bytes of a page image that are read from a run of `frames` frames. -/
def imageLen (growing : Bool) (g : Geom) (head : Bytes) (frames : Nat) : Nat :=
  min (4096 * frames) (if growing then g.growing else fld head 0x1C 4)

/-- Frames of a run. -/
def runFrames (d : Dev) (r : Nat) : Nat := match tfind d.obj.runs r with | some u => u.count | none => 0

/-- The stored image of a staged copy: what arrived from tier 2, or the bytes of its tier-1 run. -/
def stagedImage (k : Chip) (c : Staged) (g : Geom) : Bytes :=
  if c.uio then c.image
  else
    let a := 4096 * runFrame c.run
    readTier1 k a (imageLen c.growing g (readTier1 k a 128) (runFrames k.dev c.run))

/-- Uncorrectable bursts under a staged copy. -/
def stagedBad (k : Chip) (c : Staged) (g : Geom) : List Nat :=
  if c.uio then []
  else
    let a := 4096 * runFrame c.run
    badBursts k.dev a (imageLen c.growing g (readTier1 k a 128) (runFrames k.dev c.run))

/-- The geometry of the object a page belongs to, or belonged to when its owner is deleted (R158). -/
def keyGeom (k : Chip) (key run : Nat) : Geom :=
  match k.dev.ownerObj (keyObj key) with
  | some o => o.geom
  | none => (readHdr (readTier1 k (4096 * runFrame run) 128)).g

/-- A sealed image is the page it should be: Table 05-4, its key and its geometry (R42, R147). The check that fails, or
the raw payload. -/
def pageImageCheck (img : Bytes) (limit key : Nat) (g : Geom) : Except Nat Bytes :=
  match expandImage img limit with
  | .error c => .error c
  | .ok raw => if (readHdr img).g ≠ g then .error 2 else if (readHdr img).key = key then .ok raw else .error 1

/-- The header of a growing image is the one its page should have (R42). -/
def growPageOk (img : Bytes) (key : Nat) (g : Geom) : Bool :=
  growHdrOk img && (readHdr img).g == g && (readHdr img).key == key

/-- A staged copy fails: every joined request ends with the status and the page becomes SUSPECT (R122). -/
def pageFail (d : Dev) (c : Staged) (status : Nat) : Dev :=
  let slots := (c.joined.map (·.1)).eraseDups
  let d := slots.foldl (fun d s => requestEnd d s status) d
  let d := dropStaged d c.id
  let d := d.onObj fun x =>
    { x with prefetch := x.prefetch.map fun p => (p.1, dropWhere (fun q => q.key == c.key && q.issued) p.2) }
  suspectPage d c.key false

/-- A copy whose page arrived for nobody is discarded and counted (R124). -/
def discardStaged (d : Dev) (c : Staged) : Dev :=
  lateDiscard ((dropStaged d c.id).onAttn fun x => { x with late := inc48 x.late }) 1 c.die (keyTenant c.key) 0

/-! ### Tree nodes (R80, R81, R119) -/

/-- Every page of a context under a tree node is folded. -/
def nodeReady (c : Ctx) (level index : Nat) : Bool :=
  let inside := fun page => page / 16 / 2 ^ level == index
  c.todo.all (fun p => !(inside p)) && c.resolved.all fun p => !(inside p.page) || p.finished

/-- The rows' partials of a tree node. -/
def nodeRows (c : Ctx) (rows dim level index : Nat) : List Partial :=
  (List.range rows).map fun r =>
    treeValue dim (fun g =>
      foldPartials dim ((c.partials.filter fun p => p.1 / 16 == g).map fun p => p.2.getD r (emptyPartial dim))) level index

/-- A part's status: OK_SKIPPED when its die left a page unprocessed (R90). -/
def partStatus (r : Request) (die : Nat) : Nat :=
  if (dieCtxs r die).any fun c => match c.stopped with | some (_ :: _) => true | _ => false then St.okSkipped else St.ok

end Sys2Proof.Machine
end

