-- ==== Sys2Proof/Machine/ApOps.lean ====
section
/-! DEFINITION. Appends: their checks, comparison, writes, holds and acknowledgement, and the seal queue (R40, R53, R126
to R132, R145, R341). -/

namespace Sys2Proof.Machine

/-! ### Fields (Table 04-10) -/

def apMirror (b : Bytes) : Bool := bitOf (fld b 1 1) 0
def apObj (b : Bytes) : Nat := mkObj (fld b 2 2) (fld b 4 4)
def apLayer (b : Bytes) : Nat := fld b 8 1
def apCount (b : Bytes) : Nat := fld b 9 1
def apFirst (b : Bytes) : Nat := fld b 0xC 4
def apEpoch (b : Bytes) : Nat := fld b 0x10 4
def apTag (b : Bytes) : Nat := fld b 0x14 4
/-- Ticks a held append waits at most (R105). -/
def apDeadline (b : Bytes) : Nat := if fld b 0x18 4 = 0 then 10000000 else fld b 0x18 4

/-- The shard an append is for, with its number, where the node holds a role in it. -/
def apShard (d : Dev) (b : Bytes) : Option (Nat × Shard) :=
  match d.objAt (apObj b) with
  | none => none
  | some o =>
    match o.shardFor (apFirst b / o.geom.T) with
    | some (n, s) => if holdsRole d.regs.nodeId s then some (n, s) else none
    | none => none

/-- The checks of R127, in order. -/
def appendChecks (d : Dev) (b : Bytes) (w : Sender) : List (Bool × Nat) :=
  let o := d.objAt (apObj b)
  let g := (o.map Obj.geom).getD ⟨0, 0, 0, 0⟩
  let layers := (o.map (·.layers)).getD 0
  let sh := apShard d b
  let n := apCount b
  [(fld b 2 2 == w.tenant, St.tenantMismatch),
   (w.clean && decide (fld b 1 1 < 2) && fld b 0xA 2 == 0 && decide (apFirst b < 2 ^ 24) && fld b 0x1C 4 == 0 && fld b 2 2 != 0 &&
      fld b 4 4 != 0, St.fieldInvalid),
   (o.isSome, St.noSuchObject),
   (b.length == 32 + n * g.tokenBytes && n != 255, St.lengthInvalid),
   (decide (1 ≤ n ∧ n ≤ 16) && decide (apFirst b % g.T + n ≤ g.T) && (apMirror b || fld b 0x18 4 != 0xFFFFFFFF),
     St.fieldInvalid),
   (decide (apLayer b < layers) && decide (apFirst b / g.T < g.pages) && sh.isSome, St.noSuchPage),
   ((match sh with | some (_, s) => s.epoch == apEpoch b | none => false), St.epochStale),
   ((match sh with
      | some (_, s) => s.tail == some (if apMirror b then w.node else d.regs.nodeId)
      | none => false), St.notOwner)]

/-! ### Acknowledgement (Table 04-11) -/

def ackBytes (b : Bytes) (status flags epoch : Nat) : Bytes :=
  toLe 1 0x29 ++ toLe 1 status ++ cut b 2 2 ++ cut b 4 4 ++ cut b 8 1 ++ cut b 9 1 ++
    toLe 1 (flags + b2n (apMirror b)) ++ zeros 1 ++ cut b 0xC 4 ++ cut b 0x14 4 ++ toLe 4 epoch

/-- The node's shard epoch for an append: of the record it holds, whatever role that leaves it; 0 when it holds none
(DESIGN CHOICE, notes/assumptions/100.md). -/
def ackEpoch (d : Dev) (b : Bytes) : Nat :=
  match (d.objAt (apObj b)).bind fun o => o.shardFor (apFirst b / o.geom.T) with
  | some (_, s) => s.epoch
  | none => 0

/-- Answer an append (R129, R132); a tenant mismatch echoes nothing (R93). -/
def ackAppend (d : Dev) (b : Bytes) (conn sub tenant status flags : Nat) : Dev :=
  let body := if status = St.tenantMismatch then ackBytes (zeros 2 ++ toLe 2 tenant ++ zeros 28) status flags 0
    else ackBytes (padTo 32 b) status flags (ackEpoch d b)
  countEnded (replyOn d conn 1 2 sub body) status (homeDie conn)

/-! ### The page an append is for -/

/-- Key of the page an append's tokens lie in. -/
def apKey (b : Bytes) (T : Nat) : Nat := mkKey (fld b 2 2) (fld b 4 4) (apLayer b) (apFirst b / T)

/-- A first token of an absent page follows the layer's last token here (R55). -/
def firstTokenOk (k : Chip) (o : Obj) (sh : Shard) (b : Bytes) : Bool :=
  let g := o.geom
  let page := apFirst b / g.T
  apFirst b % g.T == 0 && !((pagesOf k.dev (apObj b)).any fun x =>
      keyLayer x == apLayer b && decide (page < keyPage x) && (k.dev.entry x).state != .absent) &&
    (page == sh.first || (
      let e := k.dev.entry (mkKey (fld b 2 2) (fld b 4 4) (apLayer b) (page - 1))
      e.state != .absent && (!e.grows || pageValid k g e == g.T)))

/-- Bytes of token `i` of an append. -/
def apToken (b : Bytes) (g : Geom) (i : Nat) : Bytes := cut b (32 + i * g.tokenBytes) g.tokenBytes

/-- Every token of an append at a position below `v` equals what the page holds (R128). -/
def heldEqual (b : Bytes) (g : Geom) (raw : Bytes) (v : Nat) : Bool :=
  (List.range (apCount b)).all fun i =>
    let t := apFirst b % g.T + i
    decide (v ≤ t) || apToken b g i == tokenAt g raw t

/-! ### Holding (R130, R145, R341) -/

/-- Appends held on a die. -/
def heldOn (d : Dev) (die : Nat) : Nat := (d.attn.held.filter (·.die == die)).length

/-- What an append finds before its write. -/
inductive ApPlan where
  | status (st : Nat) | hold (why : Nat) | go
deriving DecidableEq, Repr

/-- Decide whether an append is held, ends, or goes on to its comparison and write. `me` is its own hold, none on
arrival. An append that meets a SUSPECT_GROWING page while a later attempt runs after a failed one is held, like one that
meets the first attempt (R50; DESIGN CHOICE, notes/assumptions/54.md). -/
def apPlan (k : Chip) (b : Bytes) (me : Option HeldAppend) : ApPlan :=
  let d := k.dev
  match d.objAt (apObj b), apShard d b with
  | some o, some (n, sh) =>
    let g := o.geom
    let key := apKey b g.T
    let e := d.entry key
    let rank := match me with | some h => h.id | none => d.attn.nextHeld
    let page := apFirst b / g.T
    if d.attn.held.any fun h => h.key == key && decide (h.id < rank) then .hold (match me with | some h => h.why | none => 0)
    else if !(apMirror b) && o.offering.any (·.1 == n) then .hold 1
    else if e.state = .suspectGrowing then
      (match tfind d.obj.recoveries key with
        | some r => if r.active then .hold 0 else .status St.pageCrcMismatch
        | none => .hold 0)
    else if e.state = .absent && pageOpening d key then .status St.busy
    else if e.state = .absent then
      if firstTokenOk k o sh b then .go
      else if apMirror b && sh.shadow == some d.regs.nodeId then .hold 4
      else .status St.fieldInvalid
    else if e.grows then
      let v := pageValid k g e
      let first := apFirst b % g.T
      if v < first then
        (if apMirror b && sh.shadow == some d.regs.nodeId then .hold 4 else .status St.fieldInvalid)
      else .go
    else if (d.ownerEntry key).tier = 2 ∧ (copyFor d (d.ownerKey key)).isNone ∧ (match me with | some h => h.why != 3 | none => true) = true then
      (if tier2Up d then .hold 3 else .status St.tierReadFailed)
    else if page < sh.first then .status St.noSuchPage
    else .go
  | none, _ => .status St.noSuchObject
  | _, none => .status St.notOwner

/-- Hold an append; a tier-2 page it is compared with is read. -/
def holdAppend (d : Dev) (bytes : Bytes) (conn action arrived why : Nat) (me : Option HeldAppend) : Dev :=
  let b := msgBody bytes
  let T := match d.objAt (apObj b) with | some o => o.geom.T | none => 16
  let key := apKey b T
  let (id, d) := match me with
    | some h => (h.id, d.onAttn fun x => { x with held := modWhere (·.id == h.id) (fun h => { h with why := why }) x.held })
    | none =>
      let h : HeldAppend :=
        { id := d.attn.nextHeld, bytes := bytes, conn := conn, action := action, arrived := arrived, key := key,
          die := pageDie d key, why := why, mirror := apMirror b }
      (h.id, d.onAttn fun x => { x with held := x.held ++ [h], nextHeld := x.nextHeld + 1 })
  if why = 3 then
    let e := d.ownerEntry key
    uioRead d 3 (.append id) e.frame e.count
  else d

/-! ### Writing tokens (R40) -/

/-- Writes of an append into a growing image at address `a`: each token's pieces and its CRC. -/
def tokenWrites (g : Geom) (b : Bytes) (a : Nat) (i : Nat) : List (Nat × Bytes) :=
  let t := apFirst b % g.T + i
  let tok := apToken b g i
  (tokenSplit (tokenPieces g t) tok).map (fun p => (a + 128 + p.1, p.2)) ++
    [(a + 128 + g.raw + 4 * t, toLe 4 (crc32c tok))]

/-- All writes of an append from token `from_` on: tokens, then the epoch, then VALID_TOKENS. -/
def appendWrites (g : Geom) (b : Bytes) (a from_ : Nat) : List (Nat × Bytes) :=
  ((List.range (apCount b)).filter fun i => decide (from_ ≤ i)).flatMap (tokenWrites g b a) ++
    [(a + 0x40, toLe 4 (apEpoch b)), (a + 0x10, toLe 2 (apFirst b % g.T + apCount b))]

/-- Make a list of writes. -/
def writeAll (k : Chip) : List (Nat × Bytes) → Chip
  | [] => k
  | (a, b) :: t => writeAll (nodeWrite k a b) t

/-- Uncorrectable bursts that a list of writes would merge into (R546). -/
def blockedBy (d : Dev) (ws : List (Nat × Bytes)) : List Nat := ws.flatMap fun w => writeBlocked d w.1 w.2.length

/-- The seal queue of a page's die has no room: 8 pages, the one in the compressor among them (R145; DESIGN CHOICE,
notes/assumptions/98.md). -/
def sealsFull (d : Dev) (key : Nat) : Bool := decide (8 ≤ (tget [] d.obj.seals (pageDie d key)).length)

/-- A page enters the seal queue of its die at the tail (R53, R145). A page that becomes full otherwise than by an append
(recovery, a load, a shadow's image) waits behind the 8 in the same order (DESIGN CHOICE, notes/assumptions/98.md). -/
def sealStart (d : Dev) (key : Nat) : Dev :=
  d.onObj fun x => { x with seals := tmod [] x.seals (pageDie d key) fun l => l ++ [{ key := key, at_ := d.now }] }

/-- What an append's comparison and write come to. -/
inductive ApEnd where
  /-- it ends with a status, and whether the append filled its page -/
  | done (status : Nat) (sealed_ : Bool)
  /-- R131: a mirror's tail differs and is copied back first -/
  | copyBack
  /-- R145: it would fill its page while the seal queue is full -/
  | sealWait
deriving DecidableEq, Repr

/-- The bytes an append is compared with: a growing image's payload, or a sealed page's, by way of an expander; the check
that the image fails otherwise (1 for a growing image whose header does not hold, R42). -/
def compareRaw (k : Chip) (key : Nat) (g : Geom) (img : Option Bytes) : Except Nat Bytes :=
  let e := k.dev.entry key
  if e.grows then
    (if growPageOk (readEntry k e) key g then .ok (growRaw g (readEntry k e)) else .error 1)
  else
    let ok := k.dev.ownerKey key
    let oe := k.dev.entry ok
    let bytes := match img with
      | some b => b
      | none =>
        if oe.tier = 1 then readEntry k oe
        else match copyFor k.dev ok with
          | some c => readTier1 k (4096 * c.frame) (4096 * c.count)
          | none => []
    pageImageCheck bytes bytes.length ok g

/-- Uncorrectable bursts of the comparison's read. -/
def compareBad (k : Chip) (key : Nat) (g : Geom) (img : Option Bytes) : List Nat :=
  let e := k.dev.entry (k.dev.ownerKey key)
  if img.isSome ∨ e.tier ≠ 1 then []
  else badBursts k.dev (4096 * e.frame) (imageLen e.grows g (readTier1 k (4096 * e.frame) 128) e.count)

/-- The write itself, into a page that grows from `v` tokens on. -/
def appendWrite (k : Chip) (b : Bytes) (g : Geom) (key v : Nat) : Chip × ApEnd :=
  let a := 4096 * (k.dev.entry key).frame
  let ws := appendWrites g b a (v - apFirst b % g.T)
  match blockedBy k.dev ws with
  | x :: xs =>
    let d := badFound k.dev (x :: xs).eraseDups 2 (keyTenant key) St.uncorrectable
    (⟨suspectPage d key false, k.mem⟩, .done St.uncorrectable false)
  | [] =>
    let k := writeAll k ws
    let full := apFirst b % g.T + apCount b == g.T
    ((if full then k.onDev fun d => sealStart d key else k), .done St.ok full)

/-- Compare an append with what the page holds, and write what is new (R128). -/
def appendRun (k : Chip) (b : Bytes) (o : Obj) (img : Option Bytes) (copied : Bool) : Chip × ApEnd :=
  let g := o.geom
  let key := apKey b g.T
  let e := k.dev.entry key
  let first := apFirst b % g.T
  let fills := first + apCount b == g.T
  if e.state = .absent then
    if fills && sealsFull k.dev key then (k, .sealWait)
    else
    match allocGrowing k.dev key g (.image key) with
    | none => (k.onDev fun d => shortage d ((pageSlice d key).getD 0) key, .done St.busy false)
    | some (f, _, d) =>
      let d := d.setEntry key { frame := f, count := g.growFrames, tier := 1, state := .growing, refs := 1 }
      appendWrite (nodeWrite ⟨d, k.mem⟩ (4096 * f) (hdrBytes (growHdr g key 0 (apEpoch b)))) b g key 0
  else
    let v := if e.grows then pageValid k g e else g.T
    let fail := fun (st : Nat) (d : Dev) => ((⟨suspectPage d (d.ownerKey key) false, k.mem⟩ : Chip), ApEnd.done st false)
    match if first < v then compareBad k key g img else [] with
    | x :: xs => fail St.uncorrectable (badFound k.dev (x :: xs) 2 (keyTenant key) St.uncorrectable)
    | [] =>
      match if first < v then compareRaw k key g img else .ok [] with
      | .error n => fail St.pageCrcMismatch (formatFault k.dev (k.dev.ownerKey key) n)
      | .ok raw =>
        if first < v && !(heldEqual b g raw v) then
          if apMirror b && e.grows && !copied then (k.onDev fun d => suspectPage d key true, .copyBack)
          else (k, .done St.appendConflict false)
        else if first + apCount b ≤ v then (k, .done St.okDuplicate false)
        else if fills && sealsFull k.dev key then (k, .sealWait)
        else appendWrite k b g key v

/-! ### Owner and mirror (R129, R131) -/

/-- A record message header (Table 13-8) with its payload. -/
def recMsg (type status obj tag shard flags epoch node : Nat) (payload : Bytes) : Bytes :=
  toLe 1 type ++ toLe 1 status ++ toLe 2 (objTenant obj) ++ toLe 4 (objId obj) ++ toLe 4 tag ++ toLe 1 shard ++
    toLe 1 flags ++ zeros 2 ++ toLe 4 epoch ++ toLe 4 node ++ toLe 4 payload.length ++ zeros 4 ++ payload

/-- Send a message on the tenant-0 connection to a node, on a VC and service. -/
def sendRec (d : Dev) (node vc service : Nat) (body : Bytes) : Dev := sendNode d node vc service body

/-- Ask an object's home for its record (R374); one question for an object and node at a time. -/
def homeQuery (d : Dev) (obj node : Nat) : Dev :=
  if d.mbr.asks.any fun a => a.tenantObject == obj && a.node == node then d
  else
    let (tag, d) := freshTag d
    let d := d.onMbr fun m => { m with asks := m.asks ++ [{ requestId := tag, tenantObject := obj, node := node }] }
    sendTo d (objTenant obj) node
      { body := recMsg 0x50 0 obj tag 0xFF 0 0 0 [], vc := 2, service := 3, subscriber := 1 }

/-- The node to ask about an object: its home, or its home mirror once the home is no longer LIVE (R367). -/
def homeNode (d : Dev) (o : Obj) : Nat :=
  if d.live o.home ∨ o.home = d.regs.nodeId then o.home else o.homeMirror.getD o.home

/-- Withdraw as a replica of a shard (R370): the event record, and SHARD_WITHDRAW to the home. -/
def withdrawShard (d : Dev) (obj n : Nat) (swap : Bool) : Dev :=
  match d.objAt obj with
  | none => d
  | some o =>
    match tfind o.shards n with
    | none => d
    | some s =>
      let d := if swap then d else logFull d 0x0703 Config.noDie (objTenant obj) 0 0 (toLe 4 (objId obj) ++ toLe 1 n)
      let (tag, d) := freshTag d
      sendRec d (homeNode d o) 2 3 (recMsg 0x56 0 obj tag n (4 * b2n swap) s.epoch d.regs.nodeId [])

/-- The tail owner sends the same message to the mirror, or to the shadow behind a fence (R129, Table 13-11), under the
subscriber of the append's rule (R321). -/
def copyAppend (d : Dev) (b : Bytes) (node sub : Nat) (fence : Bool) : Dev :=
  sendTo d (fld b 2 2) node
    { body := setAt b 1 [BitVec.ofNat 8 (fld b 1 1 / 2 * 2 + 1)], vc := 3, service := 5, subscriber := sub, fence := fence }

/-- After the mirror's acknowledgement an append goes to the shadow (Table 13-11 step 1). -/
def shadowAppend (d : Dev) (b : Bytes) (sub : Nat) : Dev :=
  match apShard d b with
  | some (n, s) =>
    match s.shadow with
    | some x =>
      if x = d.regs.nodeId then d
      else
        let key := apObj b * 256 + n
        let d := d.onMbr fun m =>
          { m with shadowings := tupd m.shadowings key fun w => { w with unacked := w.unacked ++ [(apLayer b, apFirst b)] } }
        copyAppend d b x sub true
    | none => d
  | none => d

/-- TAIL_OFFER is sent once the mirror has acknowledged every append started (Table 13-10 steps 1 and 2). -/
def offerCheck (k : Chip) (obj n : Nat) : Dev :=
  let d := k.dev
  match d.objAt obj with
  | none => d
  | some o =>
    match tfind o.shards n with
    | none => d
    | some s =>
      if o.offering.contains (n, false) && !(tailsRead d obj o.layers) then tailsLost d obj o.layers
      else if o.offering.contains (n, false) && !(d.attn.acks.any fun a => a.tenantObject == obj && a.shard == n) then
        let d := d.onObjAt obj fun o => { o with offering := modWhere (·.1 == n) (fun _ => (n, true)) o.offering }
        let (tag, d) := freshTag d
        let lens := (List.range o.layers).flatMap fun l => toLe 4 (layerLength k obj o.geom l)
        sendRec d (homeNode d o) 2 3 (recMsg 0x54 0 obj tag n 0 s.epoch ((otherReplica d.regs.nodeId s).getD 0) lens)
      else d

/-- Offers that waited for a tail page's recovery are looked at again. -/
def offersAgain (k : Chip) : Dev :=
  k.dev.obj.objs.foldl (fun d o => (o.2.offering.filter (!·.2)).foldl (fun d p => offerCheck ⟨d, k.mem⟩ o.1 p.1) d) k.dev

/-- The owner acknowledges an append that its mirror holds, or that has none (R129). -/
def ackOwner (d : Dev) (a : AckWait) (flags : Nat) : Dev :=
  let b := msgBody a.bytes
  let d := d.onAttn fun x => { x with acks := dropWhere (·.id == a.id) x.acks }
  let body := ackBytes (padTo 32 b) a.status (a.flags + flags) (ackEpoch d b)
  shadowAppend (countEnded (replyOn d a.conn 1 2 a.sub body) a.status (homeDie a.conn)) b a.sub

/-- An append of a requester has ended at step 1 of R129 with a status. -/
def ownerDone (d : Dev) (bytes : Bytes) (conn action status : Nat) (full : Bool) : Dev :=
  let b := msgBody bytes
  let sub := actionSub action
  let flags := 4 * b2n full
  if status = St.ok ∨ status = St.okDuplicate then
    match apShard d b with
    | none => ackAppend d b conn sub (msgTenant bytes) status flags
    | some (n, s) =>
      let w : AckWait :=
        { id := d.attn.nextAck, bytes := bytes, conn := conn, sub := sub, status := status, flags := flags,
          mirror := (otherReplica d.regs.nodeId s).getD 0, tenantObject := apObj b, shard := n, sentAt := d.now }
      let d := d.onAttn fun x => { x with acks := x.acks ++ [w], nextAck := x.nextAck + 1 }
      match otherReplica d.regs.nodeId s with
      | some m => if d.live m then copyAppend d b m sub false else ackOwner d w 2
      | none => ackOwner d w 2
  else ackAppend d b conn sub (msgTenant bytes) status flags

/-- An append that came from the tail owner has ended with a status (R131). -/
def mirrorDone (d : Dev) (bytes : Bytes) (conn action status : Nat) (full : Bool) : Dev :=
  let b := msgBody bytes
  let d := ackAppend d b conn (actionSub action) (msgTenant bytes) status (4 * b2n full)
  if status = St.appendConflict then
    match apShard d b with
    | some (n, _) => withdrawShard d (apObj b) n false
    | none => d
  else d

/-- An append has ended: it leaves the hold, if it was held, and is answered. -/
def appendOver (d : Dev) (bytes : Bytes) (conn action : Nat) (me : Option HeldAppend) (status : Nat) (full : Bool) : Dev :=
  let d := match me with
    | some h => d.onAttn fun x => { x with held := dropWhere (·.id == h.id) x.held }
    | none => d
  if apMirror (msgBody bytes) then mirrorDone d bytes conn action status full
  else ownerDone d bytes conn action status full

def appendDone (k : Chip) (bytes : Bytes) (conn action : Nat) (me : Option HeldAppend) (status : Nat) (full : Bool) : Chip :=
  k.onDev fun d => appendOver d bytes conn action me status full

/-- A request waits for recovery of a page: in dense mode at its turn, in bounded mode since it was to be ordered (R50,
R118). -/
def waitsFor (key : Nat) (r : Request) : Bool :=
  r.ctxs.any fun c => c.waits == some key || c.resolved.any fun p => p.waited && !p.finished && p.key == key

/-- A recovery attempt of a page has failed: the requests that wait for it and every append held to it end with
PAGE_CRC_MISMATCH (R50). -/
def recoveryFails (d : Dev) (key : Nat) : Dev :=
  let d := requestsEnd (recoveryFailed d key) St.pageCrcMismatch fun _ r => waitsFor key r
  (d.attn.held.filter (·.key == key)).foldl
    (fun d h => appendOver d h.bytes h.conn h.action (some h) St.pageCrcMismatch false) d

/-- Hold an append; a requester's beyond 256 on a die ends with BUSY (R341). -/
def appendHold (k : Chip) (bytes : Bytes) (conn action arrived why : Nat) (me : Option HeldAppend) : Chip :=
  let b := msgBody bytes
  let T := match k.dev.objAt (apObj b) with | some o => o.geom.T | none => 16
  if me.isNone && !(apMirror b) && decide (256 ≤ heldOn k.dev (pageDie k.dev (apKey b T))) then
    appendDone k bytes conn action me St.busy false
  else k.onDev fun d => holdAppend d bytes conn action arrived why me

/-- Pages whose header an append reads for VALID_TOKENS and that cannot be read: its own page, and the page before it for
a first token; the page and its uncorrectable bursts (R188). -/
def apHeaderBad (d : Dev) (b : Bytes) : Option (Nat × List Nat) :=
  match d.objAt (apObj b) with
  | none => none
  | some o =>
    let key := apKey b o.geom.T
    ((key :: if keyPage key = 0 then [] else [key - 1]).map fun key => (key, headerBad d (d.entry key))).find? (!·.2.isEmpty)

/-- Go on with an append that has passed the checks of R127: hold it, end it, or compare and write. -/
def appendGo (k : Chip) (bytes : Bytes) (conn action arrived : Nat) (me : Option HeldAppend) (img : Option Bytes) : Chip :=
  let b := msgBody bytes
  if let some (key, bs) := apHeaderBad k.dev b then
    appendDone ⟨suspectPage (badFound k.dev bs 2 (keyTenant key) St.uncorrectable) key false, k.mem⟩ bytes conn action me
      St.uncorrectable false
  else
  match apPlan k b me with
  | .status st => appendDone k bytes conn action me st false
  | .hold why => appendHold k bytes conn action arrived why me
  | .go =>
    match k.dev.objAt (apObj b) with
    | none => appendDone k bytes conn action me St.noSuchObject false
    | some o =>
      match appendRun k b o img (match me with | some h => h.copied | none => false) with
      | (k, .done st full) => appendDone k bytes conn action me st full
      | (k, .sealWait) => appendHold k bytes conn action arrived 2 me
      | (k, .copyBack) =>
        k.onDev fun d =>
          let id := match me with | some h => h.id | none => d.attn.nextHeld
          let d := holdAppend d bytes conn action arrived 0 me
          d.onAttn fun x => { x with held := modWhere (·.id == id) (fun h => { h with copied := true }) x.held }

/-- Handle an APPEND that arrives (R127 to R131). -/
def appendOp (k : Chip) (m : Inb) : Chip :=
  let b := msgBody m.bytes
  match if m.stale then some St.epochStale else firstFail (appendChecks k.dev b (senderOf m)) with
  | some st =>
    k.onDev fun d => ackAppend d b m.conn (actionSub m.action) (msgTenant m.bytes) st 0
  | none =>
    let T := match k.dev.objAt (apObj b) with | some o => o.geom.T | none => 16
    appendGo (k.onDev fun d => hubXfer d (pageDie d (apKey b T)) 0 m.bytes.length) m.bytes m.conn m.action m.at_ none none

end Sys2Proof.Machine
end

