-- ==== Sys2Proof/Machine/Append.lean ====
section
/-! DEFINITION. Appends and seals (spec 02, 04, 05; commands APPEND to SEAL_COMPLETE). -/

namespace Sys2Proof.Machine

/-- The page an append reads or writes lies under a row operation: the append waits (R219, R221). -/
def appendWaits (d : Dev) (bytes : Bytes) : Bool :=
  match d.objAt (apObj (msgBody bytes)) with
  | some o => entryBusy d (d.ownerEntry (apKey (msgBody bytes) o.geom.T))
  | none => false

/-- An APPEND of the inbox with MIRROR_COPY as wanted. -/
def onAppend (k : Chip) (msg : Nat) (mirror : Bool) : Chip :=
  match k.dev.msg msg 0x28 with
  | some m =>
    if apMirror (msgBody m.bytes) = mirror ∧ appendWaits k.dev m.bytes = false then appendOp (k.onDev fun d => d.take msg) m
    else k
  | none => k

/-- APPEND: the tail owner checks, compares, writes and forwards (R127 to R130). -/
def execAppend (msg : Nat) (s : State) : Out := s.actMem fun k => onAppend k msg false

/-- APPEND_MIRROR_COPY: a mirror or shadow checks, writes or repairs its tail, and acknowledges (R131). -/
def execAppendMirrorCopy (msg : Nat) (s : State) : Out := s.actMem fun k => onAppend k msg true

/-- An APPEND_ACK holds: its length, its reserved fields, and the tenant of its framing (R7, R93, R132). -/
def ackHeaderOk (m : Inb) : Bool :=
  let b := msgBody m.bytes
  b.length == 24 && decide (fld b 0xA 1 < 8) && fld b 0xB 1 == 0 && fld b 2 2 == msgTenant m.bytes

/-- An APPEND_ACK answers a copy of an append: it echoes its fields; with TENANT_MISMATCH it echoes none, and the connection
and its tenant tell (R93). -/
def acksAppend (b : Bytes) (a : Bytes) : Bool :=
  if fld b 1 1 = St.tenantMismatch then fld b 2 2 == fld a 2 2
  else
  fld b 2 2 == fld a 2 2 && fld b 4 4 == fld a 4 4 && fld b 8 1 == fld a 8 1 && fld b 9 1 == fld a 9 1 &&
    fld b 0xC 4 == fld a 0xC 4 && fld b 0x10 4 == fld a 0x14 4

/-- The mirror's answer to a copy (R129), or a shadow's (Table 13-11). -/
def ackOp (k : Chip) (m : Inb) : Dev :=
  let d := k.dev
  let b := msgBody m.bytes
  let st := fld b 1 1
  if !(ackHeaderOk m) then d.onTr fun x => { x with strayReplies := x.strayReplies + 1 }
  else
  match d.attn.acks.find? fun a => acksAppend b (msgBody a.bytes) && a.mirror == msgSrc m.bytes with
  | some a =>
    if st = St.ok ∨ st = St.okDuplicate then offerCheck ⟨ackOwner d a 0, k.mem⟩ a.tenantObject a.shard
    else
      let d := logFull d Config.mirrorRefusedCode (homeDie m.conn) (objTenant a.tenantObject) st 0 []
      let home := match d.objAt a.tenantObject with | some o => homeNode d o | none => d.regs.nodeId
      let d := homeQuery d a.tenantObject home
      d.onAttn fun x => { x with acks := modWhere (·.id == a.id) (fun a => { a with refused := true, sentAt := d.now }) x.acks }
  | none =>
    if st = St.ok ∨ st = St.okDuplicate then
      d.onMbr fun x =>
        { x with shadowings := x.shadowings.map fun p =>
            if p.1 / 256 = mkObj (fld b 2 2) (fld b 4 4) ∧ p.2.shadow = msgSrc m.bytes then
              (p.1, { p.2 with unacked := p.2.unacked.erase (fld b 8 1, fld b 0xC 4) })
            else p }
    else d

/-- APPEND_ACK (R129). -/
def execAppendAck (msg : Nat) (s : State) : Out := s.actRead fun k => onMsgRead k msg 0x29 ackOp

/-- MIRROR_COPY_RESEND: 100,000 ticks after a bad answer the copy is sent again, while the record lists that mirror
(R129). -/
def execMirrorCopyResend (ack : Nat) (s : State) : Out :=
  s.act fun d =>
    match d.attn.acks.find? (·.id == ack) with
    | none => d
    | some a =>
      let b := msgBody a.bytes
      let listed := match apShard d b with | some (_, s) => otherReplica d.regs.nodeId s == some a.mirror | none => false
      d.when (a.refused && listed && d.due a.sentAt 100000) fun d =>
        copyAppend (d.onAttn fun x => { x with acks := modWhere (·.id == a.id) (fun a => { a with sentAt := d.now }) x.acks })
          b a.mirror a.sub false

/-- APPEND_DEADLINE: a requester's held append ends before its write (R130). -/
def execAppendDeadline (held : Nat) (s : State) : Out :=
  s.actMem fun k =>
    match k.dev.attn.held.find? (·.id == held) with
    | none => k
    | some h =>
      k.when (!h.mirror && k.dev.due h.arrived (apDeadline (msgBody h.bytes))) fun k =>
        appendDone k h.bytes h.conn h.action (some h) St.deadlineExpired false

/-- HELD_APPEND_RELEASE: what an append waited for is over; it goes on or ends (R50, R130, R145, R374). -/
def execHeldAppendRelease (held : Nat) (s : State) : Out :=
  s.actMem fun k =>
    match k.dev.attn.held.find? (·.id == held) with
    | none => k
    | some h =>
      let b := msgBody h.bytes
      if h.why = 3 ∨ appendWaits k.dev h.bytes = true then k
      else
        match apShard k.dev b with
        | some (n, s) =>
          let offering := match k.dev.objAt (apObj b) with | some o => o.offering.any (·.1 == n) | none => false
          if !h.mirror && !offering && s.tail != some k.dev.regs.nodeId then
            appendDone k h.bytes h.conn h.action (some h) St.notOwner false
          else appendGo k h.bytes h.conn h.action h.arrived (some h) none
        | none => appendGo k h.bytes h.conn h.action h.arrived (some h) none

/-- The seal of a page is stopped: it leaves the seal queue and becomes SUSPECT. -/
def sealStop (d : Dev) (key status : Nat) : Dev := suspectPage (flushFail d key status) key false

/-- A page is sealed: the reservation becomes its run, trimmed to the image; the growing run leaves (R53, R161). -/
def sealSwitch (d : Dev) (key frame frames whole : Nat) : Dev :=
  let e := d.entry key
  let slice := frame / (48 * granFrames)
  let transit := frame / granFrames % 48 == tget 0 d.obj.transit slice && tget 0 d.obj.transit slice != 0
  let d := leaveRun d e.run
  let rest : Run := { count := whole - frames, tenant := keyTenant key, use := .freed }
  let d := d.onObj fun x =>
    let rs := tupd x.runs (runKey 1 frame) fun u => { u with count := frames, use := .image key }
    { x with runs := if frames < whole then tins rs (runKey 1 (frame + frames)) rest else rs }
  let d := d.setEntry key { e with frame := frame, count := frames, tier := 1, state := .sealed }
  let p := policyOf d (keyObj key)
  if p = 2 ∨ p = 3 ∨ transit = true then queueMove d key 1 else d

/-- Seal the page at the front of a die's queue (R53). -/
def sealOp (k : Chip) (die key : Nat) : Chip :=
  let d := k.dev
  let k := k.onDev fun d => d.onObj fun x => { x with seals := tmod [] x.seals die fun l => l.drop 1 }
  let e := d.entry key
  match d.objAt (keyObj key), reservation d key with
  | some o, some (frame, run) =>
    let g := o.geom
    if e.state ≠ .growing then k
    else
      let a := 4096 * e.frame
      match badBursts d a g.growing with
      | b :: bs => k.onDev fun d => sealStop (badFound d (b :: bs) 2 (keyTenant key) St.uncorrectable) key St.uncorrectable
      | [] =>
        let img := readTier1 k a g.growing
        if (readHdr img).valid < g.T then k
        else if !(growPageOk img key g) || !(tokenCrcsOk g img g.T) then k.onDev fun d => sealStop d key St.pageCrcMismatch
        else
          let out := sealImage g key (fld img 0x40 4) (growRaw g img)
          match writeBlocked d (4096 * frame) out.length with
          | b :: bs => k.onDev fun d => sealStop (badFound d (b :: bs) 2 (keyTenant key) St.uncorrectable) key St.uncorrectable
          | [] =>
            (nodeWrite k (4096 * frame) out).onDev fun d =>
              yarrow (sealSwitch d key frame (framesFor out.length) run.count) die 8 0 1
  | _, _ => k

/-- SEAL_COMPLETE: the compressor finishes the seal of a die's oldest full page (R53, R54). -/
def execSealComplete (die : Nat) (s : State) : Out :=
  s.actMem fun k =>
    match tget [] k.dev.obj.seals die with
    | [] => k
    | x :: _ => k.when (k.dev.ready die && !(entryBusy k.dev (k.dev.entry x.key))) fun k => sealOp k die x.key

end Sys2Proof.Machine
end

