-- ==== Sys2Proof/Machine/Attention.lean ====
section
/-! DEFINITION. Admission slots, attention requests and the run-ahead engines (spec 04; commands ATTN_RESERVE to
REQUEST_ERROR, LOCAL_RESERVE, LOCAL_REQUEST, LOCAL_RELEASE). -/

namespace Sys2Proof.Machine

/-- ATTN_RESERVE: contexts, context store and credits are reserved, and the reply carries the slot (R94 to R100). -/
def execAttnReserve (msg : Nat) (s : State) : Out :=
  s.act fun d => onMsg d msg 0x20 fun d m => reserveOp d (msgBody m.bytes) (senderOf m) (backOf m) m.stale

/-- ATTN_RELEASE: the slot is freed once its running request has handed over its last part (R99). -/
def execAttnRelease (msg : Nat) (s : State) : Out :=
  s.act fun d => onMsg d msg 0x22 fun d m => releaseOp d (msgBody m.bytes) (senderOf m) (backOf m) m.stale

/-- The reply to a reservation or release of the node's own (R376): the slot's handle is kept, or the slot is none. -/
def ownReply (d : Dev) (b : Bytes) : Dev :=
  let tag := fld b 4 4
  if d.attn.own.any (·.requestId == tag) then
    d.onAttn fun x =>
      { x with own :=
          if fld b 1 1 = St.ok ∧ bitOf (fld b 2 1) 0 = false then
            modWhere (·.requestId == tag) (fun o => { o with handle := some (fld b 8 4) }) x.own
          else dropWhere (·.requestId == tag) x.own }
  else d.onTr fun x => { x with strayReplies := x.strayReplies + 1 }

/-- ATTN_RESERVE_REPLY: the node acts as requester towards a shadow (R97, R376). -/
def execAttnReserveReply (msg : Nat) (s : State) : Out :=
  s.act fun d => onMsg d msg 0x21 fun d m => ownReply d (msgBody m.bytes)

/-- SLOT_LEASE_EXPIRY: LEASE ticks without a renewing request; the guard starts (R98). -/
def execSlotLeaseExpiry (slot : Nat) (s : State) : Out :=
  s.act fun d =>
    let x := d.slot slot
    d.when (x.reserved && (d.request slot).isNone && x.guardAt.isNone && d.due x.leaseAt x.lease) fun d =>
      d.onSlot slot fun x => { x with guardAt := some d.now }

/-- SLOT_GUARD_EXPIRY: the guard ends; the slot is freed and its generation advances (R98). -/
def execSlotGuardExpiry (slot : Nat) (s : State) : Out :=
  s.act fun d =>
    match (d.slot slot).guardAt with
    | some t => d.when ((d.request slot).isNone && d.due t 10000000) fun d => freeSlot d slot
    | none => d

/-- ATTN_REQUEST: the checks of Table 04-5, admission as contexts on each die, prefetch trigger, and forwarding to a
shadow (R104, R105, R166, R376). Its place in the admission queue is free again (R115). -/
def execAttnRequest (msg : Nat) (s : State) : Out :=
  s.actRead fun k => onMsgRead k msg 0x23 fun k m =>
    campionDies.foldl giveWithheld (requestOp k (msgBody m.bytes) (senderOf m) (backOf m) m.at_ none m.stale)

/-- The header or summary that the walker would read next lies under a row operation: it waits (R219). -/
def resolveWaits (d : Dev) (r : Request) (c : Ctx) : Bool :=
  match c.todo ++ (c.resolved.filter (·.waited)).map (·.page) with
  | [] => false
  | page :: _ =>
    entryBusy d (d.ownerEntry (mkKey (aqTenant r.body) (aqObject r.body) (aqLayer r.body) page))

/-- PAGE_RESOLVE: the page walker resolves the next page of a context (R116, R118). -/
def execPageResolve (slot die head : Nat) (s : State) : Out :=
  s.actRead fun k =>
    match k.dev.request slot with
    | none => k.dev
    | some r =>
      match r.ctx die head with
      | none => k.dev
      | some c =>
        if !(k.dev.ready die) || c.stopped.isSome || resolveWaits k.dev r c then k.dev
        else if aqBounded r.body then resolveBounded k slot r c else resolveDense k slot r c

/-- Compressed pages that an expander of a die works on; a die's expander for a page is that of its slice's index (DESIGN
CHOICE, notes/assumptions/101.md). -/
def expanderPages (d : Dev) (c : Staged) : Nat :=
  d.attn.staged.countP fun o => o.die == c.die && o.slice % 4 == c.slice % 4 && o.issued && !o.ready && !o.growing &&
    (!o.uio || !o.image.isEmpty)

/-- The fetch engine issues the read of a copy, or serves its contexts from one that is already read (R120). -/
def issueCopy (d : Dev) (c : Staged) : Dev :=
  match d.attn.staged.find? fun o => o.id != c.id && joinable o c.die c.key c.growing c.valid c.joined.length with
  | some o =>
    let d := d.onStaged o.id fun o => { o with joined := o.joined ++ c.joined }
    let d := c.joined.foldl (fun d j => d.onCtx j.1 c.die j.2 fun x =>
      { x with resolved := modWhere (·.copy == some c.id) (fun p => { p with copy := some o.id }) x.resolved }) d
    yarrow (dropStaged d c.id) c.die 3 (c.slice % 4) c.joined.length
  | none =>
    if !c.growing && decide (expanderDepth ≤ expanderPages d c) then d
    else if c.uio then
      let n := runFrames d c.run
      if !(tier2Up d) then
        dropStaged (((c.joined.map (·.1)).eraseDups).foldl (fun d s => requestEnd d s St.tierReadFailed) d) c.id
      else if uioRoom d n then
        let d := uioRead d (if c.ahead.isSome then 6 else 3) (.staged c.die c.id) (runFrame c.run) n
        yarrow (d.onStaged c.id fun c => { c with issued := true }) c.die 5 (c.slice % 4) 1
      else d
    else
      (yarrow d c.die 4 (c.slice % 4) 1).when (sliceReady d (runFrame c.run / (48 * granFrames))) fun d =>
        d.onStaged c.id fun c => { c with issued := true }

/-- PAGE_READ_ISSUE (R150). -/
def execPageReadIssue (die copy : Nat) (s : State) : Out :=
  s.act fun d =>
    match d.stagedAt die copy with
    | some c => d.when (!c.issued && d.ready die) fun d => issueCopy d c
    | none => d

/-- What a page read's completion does (R122, R124, R147, R148, Table 07-4). -/
def stageOp (k : Chip) (c : Staged) : Dev :=
  let d := k.dev
  if c.joined.isEmpty ∧ c.ahead.isNone then discardStaged d c
  else
    let g := keyGeom k c.key c.run
    let bad := stagedBad k c g
    let img := stagedImage k c g
    if c.tierFail then pageFail d c St.tierReadFailed
    else if c.bad then pageFail d c St.uncorrectable
    else
      match bad with
      | b :: bs => pageFail (badFound d (b :: bs) 2 (keyTenant c.key) St.uncorrectable) c St.uncorrectable
      | [] =>
        let ready := fun (raw : Bytes) =>
          (if c.growing then d else expanded d c.die c.slice (128 + raw.length)).onStaged c.id fun c =>
            { c with ready := true, image := img, raw := raw }
        if c.growing then
          (if growPageOk img c.key g then ready (growRaw g img) else pageFail d c St.pageCrcMismatch)
        else
          match pageImageCheck img (4096 * runFrames d c.run) c.key g with
          | .ok raw => ready raw
          | .error n => pageFail (formatFault d c.key n) c St.pageCrcMismatch

/-- The run a copy is read from lies under a row operation: the read waits (R219). -/
def stagedWaits (d : Dev) (c : Staged) : Bool :=
  !c.uio && rangeBusy d (4096 * runFrame c.run) (4096 * runFrames d c.run)

/-- PAGE_STAGED: a page read completes and passes the expander's checks (R148). -/
def execPageStaged (die copy : Nat) (s : State) : Out :=
  s.actRead fun k =>
    match k.dev.stagedAt die copy with
    | some c =>
      if c.issued && !c.ready && (if c.uio then !c.image.isEmpty || c.tierFail else !(stagedWaits k.dev c)) then stageOp k c
      else k.dev
    | none => k.dev

/-- A staged copy's read has failed for a cause: 0 a check of its image, 1 an uncorrectable burst, 2 a tier-2 error or
timeout. -/
def stagedFails (k : Chip) (c : Staged) (cause : Nat) : Bool :=
  let g := keyGeom k c.key c.run
  match cause with
  | 0 => (!c.uio || !c.image.isEmpty) &&
      (if c.growing then !(growPageOk (stagedImage k c g) c.key g)
       else match pageImageCheck (stagedImage k c g) (4096 * runFrames k.dev c.run) c.key g with | .ok _ => false | .error _ => true)
  | 1 => c.bad || !(stagedBad k c g).isEmpty
  | 2 => c.tierFail
  | _ => false

/-- PAGE_READ_FAIL: joined requests end and the page becomes SUSPECT (R122). -/
def execPageReadFail (die copy cause : Nat) (s : State) : Out :=
  s.actRead fun k =>
    match k.dev.stagedAt die copy with
    | some c => if c.issued && !c.ready && !(stagedWaits k.dev c) && stagedFails k c cause then stageOp k c else k.dev
    | none => k.dev

/-- A context's page has passed its score phase, or its value phase (R117): the page's partials are formed. A pass takes
four bands of 16 rows, which the contexts that share the staged copy fill in turn; it is counted with its first band. -/
def passEnd (d : Dev) (slot : Nat) (r : Request) (x : Ctx) (p : Resolved) (c : Staged) : Dev :=
  if !p.scored then
    d.onCtx slot x.die x.head fun x =>
      { x with resolved := modWhere (·.page == p.page) (fun p => { p with scored := true }) x.resolved }
  else
    let g := reqGeom d r.body
    let rows := pageRows r.body g c.raw x.head p.page p.valid
    let bounded := aqBounded r.body
    let d := d.onCtx slot x.die x.head fun x =>
      { x with
        resolved := modWhere (·.page == p.page) (fun p => { p with finished := true }) x.resolved
        partials := if bounded then x.partials else tins x.partials p.page rows
        fold := if bounded then List.zipWith mergePartial x.fold rows else x.fold }
    let d := unrefRun d p.run
    let bands := (aqTokens r.body * aqGroup r.body + 15) / 16
    let d := count d x.die (0x0870 + c.slice % 4) ((c.bands + bands + 3) / 4 - (c.bands + 3) / 4)
    let d := d.onStaged c.id fun c =>
      { c with joined := dropWhere (· == (slot, x.head)) c.joined, bands := c.bands + bands }
    let d := match d.stagedAt c.die c.id with
      | some c => if c.joined.isEmpty then dropStaged d c.id else d
      | none => d
    if bounded then stopTest d slot x.die else d

/-- In bounded mode a page is processed only after every context of the die has processed those before it (R88). -/
def passInOrder (r : Request) (x : Ctx) (p : Resolved) : Bool :=
  !(aqBounded r.body) || !p.scored ||
    ((dieCtxs r x.die).all fun c => ((c.resolved.takeWhile (·.page != p.page)).all (·.finished)))

/-- ARRAY_PASS_END: a phase of a pass over a staged page ends for a context (R73, R89, R117). -/
def execArrayPassEnd (die copy slot head : Nat) (s : State) : Out :=
  s.act fun d =>
    match d.stagedAt die copy, d.request slot with
    | some c, some r =>
      match r.ctx die head with
      | none => d
      | some x =>
        match x.resolved.find? fun p => p.copy == some copy && !p.finished with
        | none => d
        | some p =>
          d.when (c.ready && d.ready die && bitOf d.regs.arrays die && x.stopped.isNone && passInOrder r x p)
            fun d => passEnd d slot r x p c
    | _, _ => d

/-- Parts of a die that await their handoff: its result queue (Table 04-9). -/
def resultQueue (d : Dev) (die : Nat) : Nat :=
  (d.attn.requests.map fun p => p.2.parts.countP fun x => x.die == die && x.rows.isSome && !x.handed).sum

/-- TREE_NODE_EMIT: every page group beneath a tree node is folded, or the die has stopped (R81, R90, R119). -/
def execTreeNodeEmit (slot part : Nat) (s : State) : Out :=
  s.act fun d =>
    match d.request slot with
    | none => d
    | some r =>
      match r.parts[part]? with
      | none => d
      | some p =>
        match r.ctx p.die p.head with
        | none => d
        | some c =>
          let g := reqGeom d r.body
          let bounded := aqBounded r.body
          let ready := if bounded then c.stopped.isSome else nodeReady c p.level p.index
          let rows := if bounded then c.fold else nodeRows c (aqTokens r.body * aqGroup r.body) g.D p.level p.index
          d.when (ready && p.rows.isNone && decide (resultQueue d p.die < resultDepth)) fun d =>
            d.onRequest slot fun r => { r with parts := r.parts.set part { p with rows := some rows } }

/-- Keep a completed dense request's index: ticks per page, in 1/16 tick (R380), and what follows for PREFER_MIRROR (R382). -/
def keepIndex (d : Dev) (r : Request) : Dev :=
  if aqBounded r.body ∨ r.worst ≠ 0 then d
  else
    preferOp (d.onAttn fun x =>
      { x with services := tmod [] x.services r.composition fun l =>
          ((16 * (d.now - r.arrived) / max 1 r.pages) :: l).take 1024 }) r.composition

/-- Hand over part `k`: it is sent as built; after the last one the request is over (R106, R123). -/
def handPart (d : Dev) (slot : Nat) (r : Request) (k : Nat) (p : Part) (rows : List Partial) : Dev :=
  let g := reqGeom d r.body
  let st := partStatus r p.die
  let bytes := partBytes r.body st p.head (partFlags d slot r) p.level p.index rows.length k r.parts.length
    (d.now - r.arrived) r.epoch (rowRecords (aqGroup r.body) rows)
  let d := yarrow (sendPart d slot r k bytes g.D) p.die 10 0 1
  let r := { r with parts := r.parts.set k { p with handed := true, rows := some [] }, worst := max r.worst st }
  let d := d.onRequest slot fun _ => r
  if r.parts.all (·.handed) then
    let d := ((r.ctxs.map (·.die)).eraseDups).foldl (fun d k => countEnded d (partStatus r k) k) d
    requestGone (localDone (keepIndex d r) r r.worst (d.now - r.arrived)) slot r
  else d

/-- PART_HANDOFF: a part enters the request's serial context; after the request has ended it is discarded (R123). -/
def execPartHandoff (slot part : Nat) (s : State) : Out :=
  s.act fun d =>
    match d.request slot with
    | none => d.when (d.slot slot).reserved fun d => lateDiscard d 1 (dieOfLink 0) (d.slot slot).tenant 0
    | some r =>
      match r.parts[part]? with
      | none => d
      | some p =>
        match p.rows with
        | some rows => d.when (!p.handed) fun d => handPart d slot r part p rows
        | none => d

/-- REQUEST_DEADLINE: the deadline is processed first (R105, R109, R123). -/
def execRequestDeadline (slot : Nat) (s : State) : Out :=
  s.act fun d =>
    match d.request slot with
    | some r => d.when (d.due r.arrived r.deadline) fun d => requestEnd d slot St.deadlineExpired
    | none => d

/-- The status codes with which a die may end a request: those of Table 16-1 that are no success. -/
def errorStatus (st : Nat) : Bool := statusCodes.contains st && decide (2 < st)

/-- R442: with an INTERNAL status goes an INTERNAL_FAULT event of the die. -/
def internalFault (d : Dev) (die tenant status : Nat) : Dev :=
  if status = St.internal then
    let (n, d) := d.draw
    logFull d 0x0803 die tenant status 0 (toLe 4 (Config.faultCode n).toNat)
  else d

/-- REQUEST_ERROR: a die's error is processed first, or comes too late and is discarded (R123). -/
def execRequestError (slot die status : Nat) (s : State) : Out :=
  s.act fun d =>
    match d.request slot with
    | some r => d.when (r.ctxs.any (·.die == die) && errorStatus status) fun d =>
      requestEnd (internalFault d die (aqTenant r.body) status) slot status
    | none => d.when ((d.slot slot).reserved && errorStatus status) fun d => lateDiscard d 1 die (d.slot slot).tenant status

/-- Whom a local command speaks for. -/
def localSender (d : Dev) (c : Cmd) : Sender := { tenant := fld c.desc 8 2, node := d.regs.nodeId, action := none }

/-- A local job's checks before its body's own (R437): MSG_TYPE matches KIND, LEN is the body's, and the output buffer. -/
def localChecks (c : Cmd) (type need : Nat) : Option (Nat × Nat) :=
  firstFail [(fld c.buf 0 1 == type, (St.fieldInvalid, 0x10)), (decide (need ≤ fld c.desc 0x30 4), (St.lengthInvalid, 0x30))]

/-- Run a LOCAL_ATTENTION command of a kind on the body it names. -/
def localOp (k : Chip) (ring index kind type need : Nat) (f : Chip → Cmd → Dev) : Dev :=
  match k.dev.cmdReady ring index 0x1D with
  | none => k.dev
  | some c =>
    if fld c.desc 0x10 1 = kind then
      match localChecks c type need with
      | some (st, off) => cmdFail k.dev ring index st off
      | none => f (k.onDev fun d => d.onCmd ring index fun c => { c with phase := .running }) c
    else k.dev

/-- LOCAL_RESERVE (R437). -/
def execLocalReserve (ring index : Nat) (s : State) : Out :=
  s.actRead fun k => localOp k ring index 0 0x20 24 fun k c =>
    reserveOp k.dev c.buf (localSender k.dev c) { conn := goneConn, cmd := some (ring, index) } false

/-- LOCAL_REQUEST (R437). -/
def execLocalRequest (ring index : Nat) (s : State) : Out :=
  s.actRead fun k => localOp k ring index 1 0x23 0 fun k c =>
    requestOp k c.buf (localSender k.dev c) { conn := goneConn, cmd := some (ring, index) } k.dev.now
      (some (fld c.desc 0x30 4)) false

/-- LOCAL_RELEASE (R437). -/
def execLocalRelease (ring index : Nat) (s : State) : Out :=
  s.actRead fun k => localOp k ring index 2 0x22 24 fun k c =>
    releaseOp k.dev c.buf (localSender k.dev c) { conn := goneConn, cmd := some (ring, index) } false

end Sys2Proof.Machine
end

