-- ==== Sys2Proof/Machine/Crypto.lean ====
section
/-! DEFINITION. SHA-256, HMAC-SHA-256 and ECDSA on P-256, which the image checks (R487), the key derivation (R495)
and the attestation (R498) name. PRESUMED: the algorithms are those of the published standards that the spec names
and does not restate (notes/assumptions/7.md). -/

namespace Sys2Proof.Machine

/-- The big-endian number of a byte string. -/
def beNat (b : Bytes) : Nat := leNat b.reverse

/-- A number as `n` big-endian bytes. -/
def toBe (n v : Nat) : Bytes := (toLe n v).reverse

/-! ### SHA-256

The algorithm is written over its two recurrences: with A and E the sequences of the registers that a round sets, the
other six registers of a round are the three values before each of them. -/

/-- The greatest number below 2^`bits` whose power `e` is at most `n`, found from its top bit down. -/
def rootBelow (e n : Nat) : Nat → Nat → Nat
  | 0, r => r
  | bits + 1, r => rootBelow e n bits (if (r + 2 ^ bits) ^ e ≤ n then r + 2 ^ bits else r)

/-- The first 64 primes, from which the algorithm takes its constants; none reaches 18². -/
def shaPrimes : List Nat :=
  (List.range 312).filter fun n => decide (2 ≤ n) && (List.range 18).all fun k => decide (k < 2) || n == k || n % k != 0

/-- The first 32 bits of the fractional part of the root of degree `e` of a number. -/
def rootFraction (e p : Nat) : BitVec 32 := BitVec.ofNat 32 (rootBelow e (p * 2 ^ (32 * e)) 40 0)

/-- The constant that each round adds. -/
def shaRoundConsts : List (BitVec 32) := shaPrimes.map (rootFraction 3)

/-- XOR of a word's rotations. -/
def xorRots (by_ : List Nat) (x : BitVec 32) : BitVec 32 := by_.foldl (fun y r => y ^^^ x.rotateRight r) 0

/-- The last four values of a recurrence, newest first. -/
structure Last4 where
  v1 : BitVec 32
  v2 : BitVec 32
  v3 : BitVec 32
  v4 : BitVec 32
deriving DecidableEq, Repr

/-- A recurrence takes a new value. -/
def Last4.next (s : Last4) (x : BitVec 32) : Last4 := ⟨x, s.v1, s.v2, s.v3⟩

/-- Each of the values added to those of another. -/
def Last4.plus (s t : Last4) : Last4 := ⟨s.v1 + t.v1, s.v2 + t.v2, s.v3 + t.v3, s.v4 + t.v4⟩

/-- Where the two recurrences start. -/
def shaStart : Last4 × Last4 :=
  let h := (shaPrimes.take 8).map (rootFraction 2)
  let at_ := fun i => h.getD i 0
  (⟨at_ 0, at_ 1, at_ 2, at_ 3⟩, ⟨at_ 4, at_ 5, at_ 6, at_ 7⟩)

/-- One round takes both recurrences on by the sum of its constant and its message word. -/
def shaStep (p : Last4 × Last4) (kw : BitVec 32) : Last4 × Last4 :=
  let (x, y) := p
  let choice := y.v3 ^^^ (y.v1 &&& (y.v2 ^^^ y.v3))
  let majority := (x.v1 &&& x.v2) ||| (x.v3 &&& (x.v1 ||| x.v2))
  let t := kw + y.v4 + xorRots [6, 11, 25] y.v1 + choice
  (x.next (t + xorRots [2, 13, 22] x.v1 + majority), y.next (x.v4 + t))

/-- The word after a window of the last 16, newest first. -/
def shaNextWord (w : List (BitVec 32)) : BitVec 32 :=
  let near := w.getD 1 0
  let far := w.getD 14 0
  (xorRots [17, 19] near ^^^ near >>> 10) + (xorRots [7, 18] far ^^^ far >>> 3) + w.getD 6 0 + w.getD 15 0

/-- The rounds over the words of a block and those that follow from them. -/
def shaRounds : List (BitVec 32) → List (BitVec 32) → List (BitVec 32) → Last4 × Last4 → Last4 × Last4
  | [], _, _, p => p
  | k :: ks, w :: ws, seen, p => shaRounds ks ws (w :: seen) (shaStep p (k + w))
  | k :: ks, [], seen, p =>
    let w := shaNextWord seen
    shaRounds ks [] ((w :: seen).take 16) (shaStep p (k + w))

/-- The words of a byte string of `n` words. -/
def beWords : Nat → Bytes → List (BitVec 32)
  | 0, _ => []
  | n + 1, b => BitVec.ofNat 32 (beNat (b.take 4)) :: beWords n (b.drop 4)

/-- `n` blocks of 64 bytes into the hash. -/
def shaAbsorb : Nat → Bytes → Last4 × Last4 → Last4 × Last4
  | 0, _, p => p
  | n + 1, b, p =>
    let q := shaRounds shaRoundConsts (beWords 16 (b.take 64)) [] p
    shaAbsorb n (b.drop 64) (p.1.plus q.1, p.2.plus q.2)

/-- The bytes of a recurrence's values. -/
def Last4.bytes (s : Last4) : Bytes := [s.v1, s.v2, s.v3, s.v4].flatMap fun w => toBe 4 w.toNat

/-- SHA-256 (R483: the digest is the byte string in the order the algorithm produces it). -/
def sha256 (m : Bytes) : Bytes :=
  let tail := (0x80 : Byte) :: zeros ((119 - m.length % 64) % 64) ++ toBe 8 (8 * m.length)
  let p := shaAbsorb ((m.length + tail.length) / 64) (m ++ tail) shaStart
  p.1.bytes ++ p.2.bytes

/-- HMAC-SHA-256 (R495). -/
def hmac (key msg : Bytes) : Bytes :=
  let k := padTo 64 (if key.length ≤ 64 then key else sha256 key)
  sha256 (k.map (· ^^^ 0x5c) ++ sha256 (k.map (· ^^^ 0x36) ++ msg))

/-- The ASCII bytes of a label. -/
def ascii (s : String) : Bytes := s.toList.map fun c => BitVec.ofNat 8 c.toNat

/-- The field prime of P-256. -/
def p256p : Nat := 0xffffffff00000001000000000000000000000000ffffffffffffffffffffffff

/-- The order of P-256. -/
def p256n : Nat := 0xffffffff00000000ffffffffffffffffbce6faada7179e84f3b9cac2fc632551

/-- The coefficient b of P-256. -/
def p256b : Nat := 0x5ac635d8aa3a93e7b3ebbd55769886bc651d06b0cc53b0f63bce3c3e27d2604b

/-- The base point of P-256. -/
def p256g : Nat × Nat :=
  (0x6b17d1f2e12c4247f8bce6e563a440f277037d812deb33a0f4a13945d898c296,
   0x4fe342e2fe1a7f9b8ee7eb4a7c0f9e162bce33576b315ececbb6406837bf51f5)

/-- Modular power by squaring; `fuel` bounds the exponent's bits. -/
def powMod : Nat → Nat → Nat → Nat → Nat
  | 0, _, _, m => 1 % m
  | fuel + 1, b, e, m =>
    if e = 0 then 1 % m
    else
      let h := powMod fuel (b * b % m) (e / 2) m
      if e % 2 = 1 then b * h % m else h

/-- The inverse modulo a prime. -/
def invMod (a m : Nat) : Nat := powMod 257 (a % m) (m - 2) m

/-- A point of the curve; none is the point at infinity. -/
abbrev EcPoint := Option (Nat × Nat)

/-- Point addition. -/
def ecAdd (a b : EcPoint) : EcPoint :=
  match a, b with
  | none, q => q
  | q, none => q
  | some (x1, y1), some (x2, y2) =>
    if x1 = x2 ∧ (y1 + y2) % p256p = 0 then none
    else
      let l := if x1 = x2 then (3 * x1 * x1 + (p256p - 3)) * invMod (2 * y1) p256p % p256p
        else (y2 + (p256p - y1)) * invMod (x2 + (p256p - x1)) p256p % p256p
      let x3 := (l * l + 2 * p256p - x1 - x2) % p256p
      some (x3, (l * (x1 + (p256p - x3)) + (p256p - y1)) % p256p)

/-- Scalar multiplication; `fuel` bounds the scalar's bits. -/
def ecMul : Nat → Nat → EcPoint → EcPoint
  | 0, _, _ => none
  | fuel + 1, k, q =>
    if k = 0 then none
    else
      let h := ecMul fuel (k / 2) (ecAdd q q)
      if k % 2 = 1 then ecAdd q h else h

/-- Whether a point lies on the curve. -/
def ecOnCurve (x y : Nat) : Bool :=
  decide (x < p256p) && decide (y < p256p) &&
    (y * y % p256p == (x * x % p256p * x + (p256p - 3) * x + p256b) % p256p)

/-- ECDSA verification of a digest: public key (x, y), signature (r, s). -/
def ecdsaVerify (x y r s : Nat) (digest : Bytes) : Bool :=
  ecOnCurve x y && decide (1 ≤ r ∧ r < p256n ∧ 1 ≤ s ∧ s < p256n) &&
    (let w := invMod s p256n
     let z := beNat digest
     match ecAdd (ecMul 257 (z * w % p256n) (some p256g)) (ecMul 257 (r * w % p256n) (some (x, y))) with
     | none => false
     | some (px, _) => px % p256n == r)

/-- ECDSA signature of a digest with private key `d` and per-signature secret `k`: r then s. -/
def ecdsaSign (d k : Nat) (digest : Bytes) : Nat × Nat :=
  match ecMul 257 (k % p256n) (some p256g) with
  | none => (0, 0)
  | some (px, _) =>
    let r := px % p256n
    (r, invMod k p256n * (beNat digest + r * d) % p256n)

/-- The private key of a seed (R495 step 5): the first candidate d_i that lies from 1 to n - 1. -/
def keyFromSeed (seed : Bytes) : Nat → Nat → Nat
  | 0, _ => 0
  | fuel + 1, i =>
    let d := leNat (hmac seed (ascii "YRL key" ++ toLe 1 i))
    if 1 ≤ d ∧ d < p256n then d else keyFromSeed seed fuel (i + 1)

end Sys2Proof.Machine
end

