-- ==== Sys2Proof/Machine/Power.lean ====
section
/-! DEFINITION. The 36 V input, presence, the power cap loop and the thermal control (spec 17, 18). -/

namespace Sys2Proof.Machine

/-- PWR_FAULT_L is low: a fault is latched or a trip has fired (Table 17-1). -/
def Dev.pwrFault (d : Dev) : Bool := d.power.latched || d.power.tripped.any (·.2)

/-- Remove power from the whole module (R29, R467): nothing is kept but the nonvolatile parts. -/
def State.powerDown (s : State) (f : Power → Power) : Out :=
  .next { s with dev := { deadDev s.dev with power := f (deadDev s.dev).power }, mem := [] }

/-- Reset the whole module without removing power (Table 01-4, R505). -/
def State.moduleReset (s : State) : State := { s with dev := freshDev s.dev, mem := [] }

/-- INPUT_POWER_ON (R451, R463): above 29.0 V the controller turns the module on, unless a fault is latched (R464)
or it is off after an overvoltage. The reading is in hundredths of a volt. -/
def execInputPowerOn (cv : Nat) (s : State) : Out :=
  s.actPower fun p =>
    if p.state = .off ∧ p.latched = false ∧ p.overvolt = false ∧ 2900 < cv ∧ cv ≤ 4200 then { p with state := .softStart }
    else p

/-- INPUT_POWER_OFF (R451): below 28.0 V, above 42.0 V, or interrupted for more than 50 µs. Below 28.0 V a latched
fault clears (R464). -/
def execInputPowerOff (cv gap : Nat) (s : State) : Out :=
  if cv < 2800 then s.powerDown fun p => { p with latched := false, overvolt := false }
  else if 4200 < cv then s.powerDown fun p => { p with overvolt := true }
  else if 50 < gap then s.powerDown id
  else .next s

/-- OVERVOLTAGE_RECOVER (R451): on again below 41.0 V after an overvoltage turn-off. -/
def execOvervoltageRecover (cv : Nat) (s : State) : Out :=
  s.actPower fun p =>
    if p.state = .off ∧ p.overvolt = true ∧ cv < 4100 ∧ 2800 ≤ cv then
      { p with overvolt := false, state := if p.latched then .off else .softStart }
    else p

/-- INPUT_OVERCURRENT (R464): the 15.0 A limit held for 5,000 µs, or more than 20.0 A. -/
def execInputOvercurrent (held deciamps : Nat) (s : State) : Out :=
  if s.dev.on ∧ (5000 ≤ held ∨ 200 < deciamps) then s.powerDown fun p => { p with latched := true } else .next s

/-- SOFT_START_DONE (R463 step 6): power-good; every die is in reset and the tick counter starts at 0 (R472). -/
def execSoftStartDone (s : State) : Out :=
  if s.dev.power.state = .softStart then .next s.moduleReset else .next s

/-- PRESENCE_DETECT (R463 step 4). -/
def execPresenceDetect (s : State) : Out := s.actPower fun p => { p with present := true }

/-- SURPRISE_REMOVAL (R467): the module does nothing further and tier 1 is lost; the removal clears a latched
fault (R464). -/
def execSurpriseRemoval (s : State) : Out :=
  s.powerDown fun p => { p with present := false, latched := false, overvolt := false }

/-- Junction temperature of a die as last read. -/
def Dev.temp (d : Dev) (die : Nat) : Int := tget 25 d.power.temp die

/-- Thermal limit of a die (R461). -/
def Dev.limit (d : Dev) (die : Nat) : Nat := tget 850 d.power.limit die

/-- The next thermal limit of a die (R461). -/
def nextLimit (temp : Int) (limit : Nat) : Nat :=
  if 95 ≤ temp then max 600 (limit - 10) else if temp < 93 then min 850 (limit + 5) else limit

/-- The next cap voltage (R458). -/
def nextVc (p cap vc vmax : Nat) : Nat :=
  let v := if cap + 10 < p then vc - 25 else if cap < p then vc - 10 else if p + 10 < cap then vc + 5 else vc
  min (max v 600) vmax

/-- THERMAL record: junction and core voltage. -/
def thermalEvent (d : Dev) (die : Nat) : Dev :=
  logEv d 0x0802 die (toLe 1 (d.temp die).toNat ++ toLe 2 (tget 0 d.power.target die))

/-- One die's part of a loop period (R458, R461): its limit moves, its target follows, and an event is written when
the limit first falls below Vc or rises back to it. -/
def diePeriod (d : Dev) (die : Nat) : Dev :=
  let lim := nextLimit (d.temp die) (d.limit die)
  let was := tget false d.power.limited die
  let below := decide (lim < d.power.vc)
  let d := d.onPower fun p =>
    { p with limit := tput 850 p.limit die lim, limited := tput false p.limited die below,
             target := tput 0 p.target die (min (min p.vc p.vmax) lim) }
  if was = below then d else thermalEvent d die

/-- POWER_CAP_PERIOD (R458, R459, R461): the loop of every 10,000 ticks, with the measured mean input power. -/
def execPowerCapPeriod (watts : Nat) (s : State) : Out :=
  s.act fun d => d.when (d.firmware && d.due d.power.periodAt 10000) fun d =>
    let d := d.onPower fun p => { p with periodAt := d.now }
    let exceeds := decide (d.power.cap < watts)
    let d := if exceeds then count d Config.selfHeal 0x2C00 1 else d
    let d := if d.power.vc = 600 then count d Config.selfHeal 0x2C10 1 else d
    let starts := exceeds && d.power.vc == 600 && !d.power.blocked
    let ends := d.power.blocked && decide (watts < d.power.cap)
    let d := if starts then (blockStart d 0x03 0 0).onPower fun p => { p with blocked := true } else d
    let d := if ends then (blockEnd d 0x03 0 0).onPower fun p => { p with blocked := false } else d
    let d := d.onPower fun p => { p with vc := nextVc watts p.cap p.vc p.vmax }
    let d := (List.range 31).foldl diePeriod d
    d.onPower fun p => { p with statusVc := p.vc, statusInput := watts, statusBlocked := p.blocked }

/-- SENSOR_READ (R461), every 1,000 ticks: the junction sensors of dies 0 to 31, in °C. A tripped die's latch clears when its junction
has fallen to 100 °C (R462). -/
def execSensorRead (temps : List Int) (s : State) : Out :=
  s.act fun d => d.when (d.firmware && d.due d.power.sensorAt 1000) fun d =>
    d.onPower fun p =>
      { p with
        sensorAt := d.now
        temp := (List.range 32).foldl (fun t i => tput 25 t i (temps.getD i (tget 25 p.temp i))) p.temp
        tripped := p.tripped.filter fun q => decide (100 < temps.getD q.1 (tget 25 p.temp q.1)) }

/-- REPLICA_LOOP_COUNT (R471): every 1,000 ticks a die reports the count of those ticks. -/
def execReplicaLoopCount (die count : Nat) (s : State) : Out :=
  s.act fun d => d.when (d.ready die && d.due (tget 0 d.power.handshakesAt die) 1000) fun d =>
    (fixedCount d die 16 count).onPower fun p =>
      { p with handshakes := tput 0 p.handshakes die count, handshakesAt := tput 0 p.handshakesAt die d.now }

/-- MANAGEMENT_BEAT_LOSS (R269): a Campion die stops advancing its heartbeat counts. -/
def execManagementBeatLoss (die : Nat) (s : State) : Out :=
  s.act fun d => d.when (d.ready die && decide (16 ≤ die ∧ die ≤ 23)) fun d =>
    d.onDies fun x => { x with beatLost := tput false x.beatLost die true }

end Sys2Proof.Machine
end

