-- ==== Sys2Proof/Machine/Boot.lean ====
section
/-! DEFINITION. Boot ROM, firmware images, the boot-select record, identity, recovery, and the release of the die
groups (spec 18, 19). -/

namespace Sys2Proof.Machine

/-! ### Boot-select record (R488) -/

/-- A copy's CRC-32C checks. -/
def bootCopyOk (b : Bytes) : Bool := decide (b.length = 16) && fld b 12 4 == crc32c (b.take 12)

/-- Which copy is current; none when neither checks. -/
def bootCurrent (nv : Nonvolatile) : Option Bool :=
  match bootCopyOk nv.boot0, bootCopyOk nv.boot1 with
  | true, true =>
    let k := dist32 (fld nv.boot1 4 4) (fld nv.boot0 4 4)
    some (decide (0 < k ∧ k < 2147483648))
  | true, false => some false
  | false, true => some true
  | false, false => none

/-- PREFERRED and STATE of the current record; slot 0, CONFIRMED when neither copy checks. -/
def bootRecord (nv : Nonvolatile) : Nat × Nat :=
  match bootCurrent nv with
  | some false => (fld nv.boot0 0 1 % 2, fld nv.boot0 1 1)
  | some true => (fld nv.boot1 0 1 % 2, fld nv.boot1 1 1)
  | none => (0, 0)

/-- A record copy's bytes. -/
def bootBytes (preferred state seq : Nat) : Bytes :=
  let b := toLe 1 preferred ++ toLe 1 state ++ zeros 2 ++ toLe 4 seq ++ zeros 4
  b ++ toLe 4 (crc32c b)

/-- Write the copy that is not current, with SEQUENCE one higher. -/
def bootWrite (nv : Nonvolatile) (preferred state : Nat) : Nonvolatile :=
  match bootCurrent nv with
  | some false => { nv with boot1 := bootBytes preferred state (m32 (fld nv.boot0 4 4 + 1)) }
  | some true => { nv with boot0 := bootBytes preferred state (m32 (fld nv.boot1 4 4 + 1)) }
  | none => { nv with boot0 := bootBytes preferred state 1 }

/-! ### Images (R486, R487) -/

/-- The image in a slot. -/
def imageOf (nv : Nonvolatile) (slot : Nat) : Bytes := if slot = 0 then nv.image0 else nv.image1

/-- Write a slot. -/
def imagePut (nv : Nonvolatile) (slot : Nat) (b : Bytes) : Nonvolatile :=
  if slot = 0 then { nv with image0 := b } else { nv with image1 := b }

def imageBodyLength (b : Bytes) : Nat := fld b 0x0C 4
def imageSvn (b : Bytes) : Nat := fld b 0x08 4
def imageKeySlot (b : Bytes) : Nat := fld b 0x06 1
/-- Header and body. -/
def imageWhole (b : Bytes) : Bytes := b.take (512 + imageBodyLength b)

/-- The checks of Table 19-4 in order; each with its order number. -/
def imageChecks (nv : Nonvolatile) (b : Bytes) : List (Bool × Nat) :=
  let len := imageBodyLength b
  let key := imageKeySlot b
  [ (fld b 0 4 == 0x5946524C && fld b 4 2 == 1 && decide (fld b 7 1 < 2) && decide (fld b 0x10 4 < 2 ^ 26) &&
      allZero (cut b 0x18 8) && allZero (cut b 0xC0 320) && len % 64 == 0 &&
      decide (4096 ≤ len ∧ len ≤ 12582400 ∧ 512 + len ≤ b.length), 1),
    (decide (key < 2) && !(if key = 0 then nv.revoke0 else nv.revoke1), 2),
    (sha256 (cut b 0x40 64) == (if key = 0 then nv.keyHash0 else nv.keyHash1), 3),
    (decide (imageSvn b ≤ 64 ∧ nv.fusedSvn ≤ imageSvn b), 4),
    (bitOf (fld b 0x10 4) Config.stepping, 5),
    (ecdsaVerify (fld b 0x40 32) (fld b 0x60 32) (fld b 0x80 32) (fld b 0xA0 32) (sha256 (b.take 0x80)), 6),
    (sha256 (cut b 512 len) == cut b 0x20 32, 7) ]

/-- The order number of the first check that fails; none when the image is valid. -/
def imageFault (nv : Nonvolatile) (b : Bytes) : Option Nat := firstFail (imageChecks nv b)

def imageValid (nv : Nonvolatile) (slot : Nat) : Bool := (imageFault nv (imageOf nv slot)).isNone

/-! ### Boot (R489 to R496) -/

/-- The slot tried first and the record as the ROM rewrites it (R489). -/
def bootFirst (nv : Nonvolatile) : Nat × Nonvolatile :=
  match bootRecord nv with
  | (p, 1) => (p, bootWrite nv p 2)
  | (p, 2) => (1 - p, bootWrite nv (1 - p) 0)
  | (p, _) => (p, nv)

/-- The slot the ROM starts: the first valid one. -/
def bootSlot (nv : Nonvolatile) (first : Nat) : Option Nat :=
  if imageValid nv first then some first else if imageValid nv (1 - first) then some (1 - first) else none

/-- Blow the other key slot's REVOKE fuse when the image says so (R490). -/
def revokeOther (nv : Nonvolatile) (b : Bytes) : Nonvolatile :=
  if bitOf (fld b 7 1) 0 then
    if imageKeySlot b = 0 then { nv with revoke1 := true } else { nv with revoke0 := true }
  else nv

/-- SEC_BOOT_STATUS as the ROM sets it (Table 19-6). -/
def bootStatus (nv : Nonvolatile) (mode : Nat) (slot : Option Nat) : Nat :=
  let run := match slot with | some k => imageOf nv k | none => []
  let other := match slot with
    | some k => if imageValid nv (1 - k) then imageSvn (imageOf nv (1 - k)) else 0xFF
    | none => 0xFF
  mode + 8 * slot.getD 0 + 16 * b2n nv.revoke0 + 32 * b2n nv.revoke1 + 2 ^ 8 * fld run 0x14 4 + 2 ^ 40 * other +
    2 ^ 48 * imageSvn run + 2 ^ 56 * nv.fusedSvn

/-- The public key bytes of a private key: X then Y. -/
def publicKey (priv : Nat) : Bytes :=
  match ecMul 257 priv (some p256g) with
  | some (x, y) => toLe 32 x ++ toLe 32 y
  | none => zeros 64

/-- Derive the module's keys and sign the Alias certificate (R495, R496); the DeviceID key is then gone. -/
def deriveKeys (nv : Nonvolatile) (d : Dev) (img : Bytes) : Dev :=
  let m := sha256 (imageWhole img)
  let device := keyFromSeed (hmac nv.uds (ascii "YRL DeviceID")) 256 0
  let cdi := hmac nv.uds (m ++ toLe 4 (imageSvn img))
  let alias_ := keyFromSeed (hmac cdi (ascii "YRL Alias")) 256 0
  let cert := Config.aliasCertificate (publicKey alias_) m (imageSvn img)
  let (n, d) := d.draw
  let sig := ecdsaSign device (Config.ecdsaNonce n) (sha256 cert)
  d.onBoot fun b =>
    { b with measurement := m, aliasKey := alias_, aliasCert := cert, aliasSig := toLe 32 sig.1 ++ toLe 32 sig.2,
             udsClosed := true, svn := imageSvn img }

/-- The Self-heal die has left reset and runs. -/
def selfHealUp (d : Dev) : Dev := d.setDie Config.selfHeal .ready

/-- The ROM runs (R489 to R496). The mode is FALLBACK for a slot other than the PREFERRED found, and in every boot that
finds ATTEMPTED. -/
def romBootOp (r : Root) : Root :=
  let (named, was) := bootRecord r.nv
  let (first, nv) := bootFirst r.nv
  match bootSlot nv first with
  | some k =>
    let img := imageOf nv k
    let nv := revokeOther nv img
    let normal := k == named && was != 2
    let d := deriveKeys nv (selfHealUp r.dev) img
    { nv := nv
      dev := d.onBoot fun b =>
        { b with mode := if normal then .firmware else .fallback, slot := k, watchdog := true,
                 status := bootStatus nv (if normal then 1 else 3) (some k) } }
  | none =>
    -- R494: the Clover die alone is released
    { nv := nv
      dev := ((selfHealUp r.dev).setDie Config.clover .released).onBoot fun b =>
        { b with mode := .recovery, status := bootStatus nv 2 none } }

/-- ROM_BOOT (R489 to R496). -/
def execRomBoot (s : State) : Out :=
  s.actNv fun r => if r.dev.boot.mode = .rom then romBootOp r else r

/-- An image in recovery (R494): written to slot 0, checked, made PREFERRED 0 with TRY. -/
def recoveryWrite (r : Root) (image : Bytes) : Root :=
  let nv := imagePut r.nv 0 image
  match imageFault nv image with
  | none => { nv := bootWrite nv 0 1, dev := r.dev.onSec fun x => { x with status := St.ok, detail := 0, staged := true } }
  | some n => { nv := nv, dev := r.dev.onSec fun x => { x with status := St.fieldInvalid, detail := n } }

/-- The module is reset once recovery has taken a valid image (R494). -/
def State.recovered (s : State) : State :=
  if s.dev.boot.mode = .recovery ∧ s.dev.sec.staged = true then s.moduleReset else s

/-- RECOVERY_IMAGE_ACCEPT (R494): a valid image ends with a reset of the module. -/
def execRecoveryImageAccept (image : Bytes) (s : State) : Out :=
  if s.dev.on ∧ s.dev.boot.mode = .recovery then
    let r := recoveryWrite ⟨s.nv, s.dev⟩ image
    .next ({ s with nv := r.nv, dev := r.dev } : State).recovered
  else .next s

/-! ### Release of the die groups (Table 18-4) -/

/-- The dies of a step of Table 18-4. -/
def dieGroup (step : Nat) : List Nat :=
  match step with
  | 1 => [31]
  | 2 => [24, 25, 26, 27]
  | 3 => [30]
  | 4 => [28, 29]
  | 5 => List.range 16
  | 6 => (List.range 8).map (· + 16)
  | _ => []

/-- The bound of a step of Table 18-4, in ticks. -/
def groupBound (step : Nat) : Nat := if step = 3 ∨ step = 5 then 100000 else 50000

/-- Every die of a step is ready or treated as lost. -/
def groupDone (d : Dev) (step : Nat) : Bool := (dieGroup step).all fun k => d.ready k || d.lost k

/-- DIE_GROUP_RELEASE (R482): the next group of Table 18-4 is released. -/
def execDieGroupRelease (s : State) : Out :=
  s.act fun d =>
    d.when (d.firmware && decide (d.dies.step < 6) && groupDone d d.dies.step) fun d =>
      let n := d.dies.step + 1
      ((dieGroup n).foldl (fun d k => d.setDie k .released) d).onDies fun x => { x with step := n, stepAt := d.now }

/-- BOOT_CONFIRM (R492): every group has been released and has reported ready or been treated as lost. -/
def execBootConfirm (s : State) : Out :=
  s.actNv fun r =>
    if r.dev.firmware ∧ r.dev.dies.step = 6 ∧ groupDone r.dev 6 ∧ r.dev.boot.confirmed = false then
      { nv := bootWrite r.nv (bootRecord r.nv).1 0, dev := r.dev.onBoot fun b => { b with confirmed := true } }
    else r

/-- SELF_HEAL_WATCHDOG (R25, Table 01-4): the armed watchdog resets the whole module. -/
def execSelfHealWatchdog (s : State) : Out :=
  .next (if s.dev.on && s.dev.boot.watchdog then s.moduleReset else s)

end Sys2Proof.Machine
end

