-- ==== Sys2Proof/Machine/Conns.lean ====
section
/-! DEFINITION. Connections: opening and closing them, acknowledgements, timers, the spill fetch (spec 11; commands CONNECT to
CONTEXT_FETCH_DONE). -/

namespace Sys2Proof.Machine

/-- A control, ACK or NAK message of the inbox is acted on and leaves it. -/
def onCtrl (d : Dev) (id ttype type : Nat) (f : Dev → Inb → Dev) : Dev :=
  match d.tr.inbox.find? (·.id == id) with
  | some m => if msgType m.bytes = ttype ∧ (ttype ≠ 1 ∨ bodyType m.bytes = type) then f (d.take id) m else d
  | none => d

/-- Fields of a control body (Table 11-3). -/
def cbStatus (b : Bytes) : Nat := fld b 1 1
def cbGen (b : Bytes) : Nat := fld b 4 4
def cbTag (b : Bytes) : Nat := fld b 8 4

/-! ### CONNECT (R286, R287) -/

/-- A CONNECT_REPLY that names no context of this node's: BUSY or FIELD_INVALID. -/
def connectRefuse (d : Dev) (b : Bytes) (status : Nat) : Dev :=
  let h : THdr := { ttype := 1, dstConn := msgSrcConn b, dstGen := cbGen (msgBody b) }
  pushMsg d 1 2 1 (buildMsg d (msgSrc b) 1 2 (msgTenant b) h (ctrlBody 0x11 status (msgTenant b) 0 (cbTag (msgBody b)))) none

/-- The view lists a node as a requester endpoint (R547). -/
def Dev.endpoint (d : Dev) (node : Nat) : Bool :=
  match tfind d.mbr.view node with | some m => m.endpoint | none => false

/-- A control body as Table 11-3 has it: 16 bytes, TENANT that of the framing, reserved fields 0, and STATUS 0 in a request (R7,
R8, R288). -/
def ctrlOk (m : Inb) (request : Bool) : Bool :=
  let body := msgBody m.bytes
  body.length == 16 && fld body 2 2 == msgTenant m.bytes && fld body 0xC 4 == 0 && headersOk m.bytes &&
    (if request then cbStatus body == 0
     else cbStatus body == St.ok || cbStatus body == St.busy || cbStatus body == St.fieldInvalid)

/-- The responder's side of a CONNECT. -/
def connectOp (d : Dev) (m : Inb) : Dev :=
  let b := m.bytes
  let body := msgBody b
  let src := msgSrc b
  let held := d.tr.conns.find? fun p =>
    (p.2.state == .open_ || p.2.state == .closing) && p.2.peer == src && p.2.peerConn == msgSrcConn b &&
      p.2.peerGen == cbGen body && !p.2.initiator
  if !(ctrlOk m true) then connectRefuse d b St.fieldInvalid
  else
  match held with
  | some (i, _) => sendCtrl d i 0x11 St.ok (cbTag body)
  | none =>
    if msgTenant b = 0 ∧ d.endpoint src = true then connectRefuse d b St.fieldInvalid
    else
      match allocConn d with
      | none => connectRefuse d b St.busy
      | some (i, d) =>
        let d := d.onConn i fun c =>
          { freshConn c .open_ (msgTenant b) src d.now with peerConn := msgSrcConn b, peerGen := cbGen body }
        sendCtrl d i 0x11 St.ok (cbTag body)

/-- CONNECT (R287). -/
def execConnect (msg : Nat) (s : State) : Out := s.act fun d => onCtrl d msg 1 0x10 connectOp

/-- CONNECT_REPLY (R286): OPEN, or QUARANTINE; a reply that names no CONNECTING context is counted. -/
def execConnectReply (msg : Nat) (s : State) : Out :=
  s.act fun d => onCtrl d msg 1 0x11 fun d m =>
    let b := m.bytes
    let i := msgDstConn b
    let c := d.conn i
    if ctrlOk m false = true ∧ c.state = .connecting ∧ msgDstGen b = connGen d i ∧ c.peer = msgSrc b ∧ c.requestId = cbTag (msgBody b) then
      if cbStatus (msgBody b) = St.ok then
        pump (d.onConn i fun c =>
          { c with state := .open_, peerConn := msgSrcConn b, peerGen := cbGen (msgBody b), enteredAt := d.now,
                   dataAt := d.now }) i
      else connTeardown d i St.deadlineExpired
    else d.onTr fun x => { x with strayReplies := x.strayReplies + 1 }

/-- CONNECT_RESEND (R286): every 10,000 ticks, at most 8 sends; then QUARANTINE. -/
def execConnectResend (conn : Nat) (s : State) : Out :=
  s.act fun d =>
    let c := d.conn conn
    d.when (c.state == .connecting && d.due c.sendAt 10000 && d.ready (homeDie conn)) fun d =>
      if c.sends < 8 then
        sendCtrl (d.onConn conn fun c => { c with sends := c.sends + 1, sendAt := d.now }) conn 0x10 0 c.requestId
      else connTeardown d conn St.deadlineExpired

/-! ### CLOSE (R290) -/

/-- The connection ends by CLOSE_REPLY: work it carried goes on, and its replies find no connection (R285, R291). -/
def closeOver (d : Dev) (i : Nat) : Dev := orphanBacks (quarantineCore d i St.deadlineExpired) i

/-- CLOSE_REPLY goes once the own DATA messages are acknowledged (R290). -/
def closeCheck (d : Dev) (i : Nat) : Dev :=
  let c := d.conn i
  match c.closeGot with
  | some tag =>
    if c.state = .closing ∧ c.sent.isEmpty = true ∧ c.queue.isEmpty = true then
      closeOver (sendCtrl d i 0x13 St.ok tag) i
    else d
  | none => d

/-- CLOSE received (R290). -/
def execClose (msg : Nat) (s : State) : Out :=
  s.act fun d => onCtrl d msg 1 0x12 fun d m =>
    let i := m.conn
    let c := d.conn i
    if !(ctrlOk m true) then sendCtrl d i 0x13 St.fieldInvalid (cbTag (msgBody m.bytes))
    else if c.state = .open_ ∨ c.state = .closing then
      closeCheck (d.onConn i fun c => { c with state := .closing, closeGot := some (cbTag (msgBody m.bytes)) }) i
    else d

/-- CLOSE_REPLY received (R289): QUARANTINE. -/
def execCloseReply (msg : Nat) (s : State) : Out :=
  s.act fun d => onCtrl d msg 1 0x13 fun d m =>
    let c := d.conn m.conn
    if ctrlOk m false = true ∧ c.state = .closing ∧ c.closeSent = true ∧ c.requestId = cbTag (msgBody m.bytes) ∧
        cbStatus (msgBody m.bytes) = St.ok then closeOver d m.conn
    else d.onTr fun x => { x with strayReplies := x.strayReplies + 1 }

/-- Send CLOSE on an OPEN connection with nothing unacknowledged (R290); a spilled context is fetched first. -/
def closeSend (d : Dev) (i : Nat) : Dev :=
  let c := d.conn i
  if c.state = .open_ ∧ c.sent.isEmpty = true ∧ c.queue.isEmpty = true ∧ connCached d i = true then
    let (tag, d) := freshTag d
    sendCtrl (d.onConn i fun c => { c with state := .closing, closeSent := true, requestId := tag }) i 0x12 0 tag
  else if c.state = .open_ ∧ connCached d i = false then wantContext d i
  else d

/-- A connection that CONN_CLOSE named closes as soon as it can. -/
def closeWanted (d : Dev) (i : Nat) : Dev := if (d.conn i).wantClose then closeSend d i else d

/-- Some operation is pending on a connection. -/
def connPending (d : Dev) (i : Nat) : Bool :=
  let c := d.conn i
  !c.sent.isEmpty || !c.queue.isEmpty || d.rma.ops.any (·.conn == i) || connBusy d i ||
    d.attn.requests.any (fun p => p.2.back.cmd.isNone && p.2.back.conn == i) || d.attn.held.any (·.conn == i) ||
    d.attn.acks.any (·.conn == i)

/-- CONNECTION_IDLE_CLOSE (R290): idle for 60 s with nothing pending, or a responder's context unused for 1 s. -/
def execConnectionIdleClose (conn : Nat) (s : State) : Out :=
  s.act fun d =>
    let c := d.conn conn
    let idle := d.due c.dataAt 6000000000 && !(connPending d conn)
    let unused := !c.initiator && !c.gotData && d.due c.enteredAt 100000000
    d.when (c.state == .open_ && (idle || unused)) fun d => closeSend d conn

/-- QUARANTINE_EXPIRY (R289): 1,000,000 ticks after entering it, the context becomes CLOSED. -/
def execQuarantineExpiry (conn : Nat) (s : State) : Out :=
  s.act fun d =>
    let c := d.conn conn
    d.when (c.state == .quarantine && d.due c.enteredAt 1000000) fun d =>
      (d.onConn conn fun c => { gens := c.gens }).onTr fun x =>
        { x with cache := tmod [] x.cache (homeDie conn) fun l => l.erase conn, spilled := tput false x.spilled conn false,
                 fetching := x.fetching.erase conn }

/-! ### Acknowledgements (R294, R296, R303) -/

/-- After a connection's sender list has changed, what waited for it happens. -/
def connSettle (d : Dev) (i : Nat) : Dev := closeWanted (closeCheck d i) i

/-- An ACK: acknowledged messages are freed, and a message sent once only gives a delay sample. -/
def ackOpT (d : Dev) (m : Inb) : Dev :=
  let b := m.bytes
  let i := m.conn
  let body := msgBody b
  if body.length ≠ 40 ∨ fld body 0 1 % 2 ≠ 0 ∨ allZero (cut body 0x21 7) = false ∨ headersOk b = false then
    d.onTr fun x => { x with stray := inc48 x.stray }
  else
  let c := d.conn i
  let map := fld body 0 32
  let ack := msgAck b
  let acked := ((c.sent.filter fun t => covered ack map t.seq).map txBytes).sum
  let echoed := c.sent.find? fun t => m32 t.sentAt == msgEcho b && covered ack map t.seq
  let dd := dist32 d.now (msgEcho b)
  let d := match echoed with
    | some t => if t.resent then d else
        d.onConn i fun c => onSample d dd (fld body 0x20 1) acked c
    | none => d
  connSettle (ackProcess d i ack map) i

/-- TRANSPORT_ACK (R294, R303). -/
def execTransportAck (msg : Nat) (s : State) : Out := s.act fun d => onCtrl d msg 2 0 ackOpT

/-- A NAK (R296). -/
def nakOp (d : Dev) (m : Inb) : Dev :=
  let b := m.bytes
  let i := m.conn
  let body := msgBody b
  let seq := fld body 0 4
  if body.length ≠ 12 ∨ fld body 5 3 ≠ 0 ∨ headersOk b = false ∨ (fld body 4 1 ≠ 1 ∧ fld body 4 1 ≠ 2) then
    d.onTr fun x => { x with stray := inc48 x.stray }
  else
  let d := connSettle (ackProcess d i (msgAck b) 0) i
  let c := d.conn i
  match c.sent.find? (·.seq == seq) with
  | none => d
  | some t =>
    match fld body 4 1 with
    | 1 =>
      let soon := match t.gapAt with | some x => decide ((d.now - x) * 8 < c.srtt8) | none => false
      if soon then d
      else resend (d.onConn i fun c => { c with window := 4096 }) i { t with gapAt := some d.now }
    | 2 =>
      let n := min (max (fld body 8 4) 100) 100000
      d.onConn i fun c =>
        { c with sent := modWhere (·.seq == seq) (fun t => { t with retryAt := some (d.now + n) }) c.sent }
    | _ => d

/-- TRANSPORT_NAK (R296). -/
def execTransportNak (msg : Nat) (s : State) : Out := s.act fun d => onCtrl d msg 3 0 nakOp

/-- NOT_READY_RETRY (R296). -/
def execNotReadyRetry (conn seq : Nat) (s : State) : Out :=
  s.act fun d =>
    match (d.conn conn).sent.find? (·.seq == seq) with
    | some t =>
      (match t.retryAt with
      | some r => d.when (decide (r ≤ d.now)) fun d => if connSends d conn then resend d conn t else wantContext d conn
      | none => d)
    | none => d

/-- ACK_DELAY_EXPIRY (R294): 50 ticks after the first acceptance not acknowledged, or after 8. -/
def execAckDelayExpiry (conn : Nat) (s : State) : Out :=
  s.act fun d =>
    let c := d.conn conn
    d.when ((c.state == .open_ || c.state == .closing) && decide (0 < c.unacked) && (d.due c.firstAt 50 || decide (8 ≤ c.unacked)))
      fun d => ackSend d conn

/-- A message is queued already: a copy of it that arrives is discarded. -/
def queuedHere (d : Dev) (i seq : Nat) : Bool :=
  d.tr.search.any (fun h => h.conn == i && msgType h.bytes == 0 && msgSeq h.bytes == seq) ||
    d.tr.inbox.any (fun h => h.conn == i && msgType h.bytes == 0 && msgSeq h.bytes == seq) ||
    d.tr.waiting.any (fun h => h.conn == i && msgType h.bytes == 0 && msgSeq h.bytes == seq)

/-- GAP_TIMEOUT (R296): 1,000 ticks after a later acceptance, and at most every 1,000 ticks. -/
def execGapTimeout (conn : Nat) (s : State) : Out :=
  s.act fun d =>
    let c := d.conn conn
    match c.above with
    | [] => d
    | (_, t) :: _ =>
      let again := match c.gapNakAt with | some x => d.due x 1000 | none => true
      d.when ((c.state == .open_ || c.state == .closing) && d.due t 1000 && again && !(queuedHere d conn c.expected)) fun d =>
        nakSend (d.onConn conn fun c => { c with gapNakAt := some d.now }) conn c.expected 1 0 c.echoTick

/-- RTO_EXPIRY (R294, R303): the oldest message is sent again; RTO doubles; the window falls to 4,096 bytes. -/
def execRtoExpiry (conn : Nat) (s : State) : Out :=
  s.act fun d =>
    let c := d.conn conn
    match c.sent with
    | [] => d
    | t :: _ =>
      -- the context of an expired timer is fetched before its message is sent again (R294, R299)
      d.when ((c.state == .open_ || c.state == .closing) && d.due c.timerAt (rto c) && decide (c.expiries < 16)) fun d =>
        if !(connSends d conn) then wantContext d conn else
        let d := d.onConn conn fun c => { c with expiries := c.expiries + 1, timerAt := d.now, window := 4096 }
        resend (count d (homeDie conn) 0x1820 1) conn t

/-- CONTACT_LOST (R294): 16 expiries for one message, or 100,000,000 ticks without progress. -/
def execContactLost (conn : Nat) (s : State) : Out :=
  s.act fun d =>
    let c := d.conn conn
    d.when ((c.state == .open_ || c.state == .closing) && !c.sent.isEmpty &&
        (decide (16 ≤ c.expiries) || d.due c.progressAt 100000000)) fun d =>
      let d := match c.closeGot with | some tag => sendCtrl d conn 0x13 St.ok tag | none => d
      connTeardown d conn St.deadlineExpired

end Sys2Proof.Machine
end

