-- ==== Sys2Proof/Machine/HostMem.lean ====
section
/-! DEFINITION. Tier 1 through the HDM window, and the reads and writes that wait for the host or for a row operation
(R187, R200, R201, R219 to R221, R394, R395, R546). -/

namespace Sys2Proof.Machine

/-- The channel of an address is in service (R393). -/
def addrReady (d : Dev) (a : Nat) : Bool := channelReady d (addrChannel a) && d.ready (addrDie a)

/-! ### Writes -/

/-- Bytes lie wholly in a run that a load command has opened (R201). -/
def inLoadRun (d : Dev) (a n : Nat) : Bool :=
  d.obj.runs.any fun p =>
    (match p.2.use with | .load _ => !p.2.left | _ => false) && runTier p.1 == 1 &&
      decide (4096 * runFrame p.1 ≤ a) && decide (a + n ≤ 4096 * (runFrame p.1 + p.2.count))

/-- A host write that changes nothing is counted and recorded (R201, R393, R546). -/
def hostDiscard (d : Dev) (a : Nat) : Dev :=
  logEv (d.onLp fun x => { x with hostDiscarded := inc48 x.hostDiscarded }) 0x0106 (addrDie a) (toLe 8 a)

/-- A host write of bytes inside one line takes effect, or changes nothing (R201, R546). -/
def hostWriteNow (k : Chip) (a : Nat) (b : Bytes) : Chip :=
  if !(addrReady k.dev a) || !(inLoadRun k.dev a b.length) then k.onDev fun d => hostDiscard d a
  else
    match writeBlocked k.dev a b.length with
    | [] => storeNow (k.onDev fun d => hubMove d (addrDie a) a b.length) a b
    | bs => k.onDev fun d => hostDiscard (badFound d bs 0 0 0) a

/-- A host write: behind a row operation in its subarray (R221). -/
def hostWrite (k : Chip) (a : Nat) (b : Bytes) : Chip :=
  if writeWaits k.dev a b.length then
    k.onDev fun d => d.onHif fun h => { h with waiting := h.waiting ++ [{ addr := a, data := b, lines := [], host := true }] }
  else hostWriteNow k a b

/-- A write of the node's engines that would merge into an uncorrectable burst writes nothing: the bursts are reported
and the page it was for becomes SUSPECT (R546, Table 07-4). -/
def writeLost (d : Dev) (bursts : List Nat) (a : Nat) : Dev :=
  let d := badFound d bursts 2 0 St.uncorrectable
  (d.obj.pages.filter fun p => p.2.tier == 1 && decide (4096 * p.2.frame ≤ a) &&
    decide (a < 4096 * (p.2.frame + p.2.count))).foldl (fun d p => suspectPage d p.1 false) d

/-- A write that has waited is made. -/
def writeNow (k : Chip) (w : WaitWrite) : Chip :=
  if w.host then hostWriteNow k w.addr w.data
  else
    match writeBlocked k.dev w.addr w.data.length with
    | [] => storeNow k w.addr w.data
    | bs => k.onDev fun d => writeLost d bs w.addr

/-- Of writes that wait, oldest first, those are made that wait for nothing any more; the others keep waiting. -/
def releaseFrom (k : Chip) : List WaitWrite → Chip
  | [] => k
  | w :: ws =>
    if w.lines.isEmpty && !(writeWaits k.dev w.addr w.data.length) then releaseFrom (writeNow k w) ws
    else releaseFrom (k.onDev fun d => d.onHif fun h => { h with waiting := h.waiting ++ [w] }) ws

/-- Writes that wait for nothing any more are made, oldest first. -/
def releaseWrites (k : Chip) : Chip :=
  releaseFrom (k.onDev fun d => d.onHif fun h => { h with waiting := [] }) k.dev.hif.waiting

/-! ### Host reads -/

/-- Answer a host read: the bytes as they stand, the fixed fill for an uncorrectable burst (R187, R200). -/
def hostReadNow (k : Chip) (a : Nat) : Chip :=
  let bs := errorsIn k.dev a 64
  let data := bankBytes k a 64
  let found := fun (d : Dev) (p : Nat × Bytes) =>
    if burstBankOp d p.1 then d
    else
      let r := eccDecode p.2
      match r.1 with
      | .clean => d
      | .corrected => correctedFound d p.1 r.2
      | e => moveRetired (uncorrectableFound d p.1 0 0 0 (e == .misdirected)) (p.1 / 128)
  k.onDev fun d =>
    let d := count (count (hubMove d Config.clover a 64) Config.clover 0x2850 1) (addrDie a) (0x0C00 + 0x70 + chanOfDie a) 1
    (bs.foldl found d).onHif fun h => { h with pin := some (.memData a data false) }

/-- The filter of a die has the line (R394). -/
def lineHeldBy (d : Dev) (die line : Nat) : Bool := (tget [] d.hif.filter die).contains line

/-- A host read waits: in its channel's queue, or for a line before it enters the queue. -/
def readWaits (k : Chip) (a : Nat) (o : Option Nat) : Chip :=
  k.onDev fun d => d.onHif fun h => { h with hostReads := h.hostReads ++ [(a, o)] }

/-- A host read whose line is in the filter is in its channel's queue: it is served unless a row operation runs in its
subarray (R219). -/
def readQueued (k : Chip) (a : Nat) : Chip := if rangeBusy k.dev a 64 then readWaits k a none else hostReadNow k a

/-- A host read of a line: behind a write to the line that waits, and, when the filter is full, behind the
back-invalidation of its oldest line; then the die records the line as the read enters its channel's queue (R394, R395). -/
def hostRead (k : Chip) (a : Nat) : Chip :=
  let die := addrDie a
  let line := a / 64
  let l := tget [] k.dev.hif.filter die
  if k.dev.hif.waiting.any fun w => decide (a < w.addr + w.data.length) && decide (w.addr < a + 64) then readWaits k a (some line)
  else if l.contains line then readQueued k a
  else if l.length < 16384 then
    readQueued (k.onDev fun d => d.onHif fun h => { h with filter := tput [] h.filter die (l ++ [line]) }) a
  else
    match l with
    | [] => k
    | o :: _ => (readWaits k a (some o)).onDev fun d => sendBisnp d o

/-- A read of a channel queue is taken up again; once it is served, the back-invalidation that waited for it is sent. -/
def retryQueued (k : Chip) (a : Nat) : Chip :=
  let k := readQueued k a
  let wanted := k.dev.hif.waiting.any (fun w => w.lines.contains (a / 64)) || k.dev.hif.hostReads.any fun q => q.2 == some (a / 64)
  if wanted then k.onDev fun d => sendBisnp d (a / 64) else k

/-- Host reads that have waited are taken up again, in order: those of the channel queues, or the others. -/
def retryReads (k : Chip) (queued : Bool) : Chip :=
  let p := fun (q : Nat × Option Nat) => q.2.isNone == queued
  (k.dev.hif.hostReads.filter p).foldl (fun k q => if queued then retryQueued k q.1 else hostRead k q.1)
    (k.onDev fun d => d.onHif fun h => { h with hostReads := dropWhere p h.hostReads })

/-- What waited for the host or for a row operation goes on: reads of the channel queues, which came before every write to
their lines that waits (R395), then writes, then the reads behind those. -/
def memReleased (k : Chip) : Chip := retryReads (releaseWrites (retryReads k true)) false

end Sys2Proof.Machine
end

