-- ==== Sys2Proof/Machine/RowOps.lean ====
section
/-! DEFINITION. Bank-side units: jobs, row operations, scrubbing of bank-op runs (spec 08; commands BANKOP_JOB, ROW_OP_START,
ROW_OP_COMPLETE, BANKOP_JOB_COMPLETE). -/

namespace Sys2Proof.Machine

/-! ### Entries and row operations (R206 to R210) -/

def enOp (e : Bytes) : Nat := fld e 0 1
def enCount (e : Bytes) : Nat := fld e 2 2
def enDst (e : Bytes) : Nat := fld e 4 4
def enA (e : Bytes) : Nat := fld e 8 4
def enB (e : Bytes) : Nat := fld e 0xC 4

/-- A job entry of the node's own. -/
def mkEntry (op n dst a : Nat) : Bytes := toLe 1 op ++ zeros 1 ++ toLe 2 n ++ toLe 4 dst ++ toLe 4 a ++ zeros 4

/-- Row operation `k` of an entry, numbered `n` in its job. -/
def entryOp (e : Bytes) (n k : Nat) : RowOp :=
  let two := enOp e = 3 ∨ enOp e = 4 ∨ enOp e = 5
  { n := n, op := enOp e, dst := enDst e + k, a := if enOp e = 2 then enDst e + k else enA e + k,
    b := if two then enB e + k else (if enOp e = 2 then enDst e + k else enA e + k), pattern := fld e 8 8 }

/-- The row operations of a job's entries, numbered on from `n` (R210). -/
def jobOps : Nat → List Bytes → List RowOp
  | _, [] => []
  | n, e :: es => (List.range (enCount e)).map (fun k => entryOp e (n + k) k) ++ jobOps (n + enCount e) es

/-- Row operations of a job in all. -/
def jobSize (j : Job) : Nat := (j.entries.map enCount).sum

/-- Two row operations share a row unit that one of them writes. -/
def opsClash (a b : RowOp) : Bool :=
  a.dst == b.dst || a.dst == b.a || a.dst == b.b || b.dst == a.a || b.dst == a.b

/-- An operation waits for every earlier one of its job that it clashes with (R213). -/
def opFree (j : Job) (ops : List RowOp) (o : RowOp) : Bool :=
  ops.all fun p => decide (o.n ≤ p.n) || tget false j.completed p.n || !(opsClash p o)

/-! ### Limits (R217, R218) -/

/-- Banks of the node that a bank of a slice's rank-1 dies stands for: one in each of four sub-channels. -/
def sliceBanks (slice bank : Nat) : List Nat :=
  (List.range 4).map fun i =>
    let sub := 2 * (8 * dieOfSlice slice + 2 * (slice % 4)) + i
    16 * (2 * sub + 1) + bank

/-- The bank-op limit L of a slice (Table 08-6). -/
def bankLimit (d : Dev) (slice : Nat) : Nat :=
  let v := tget 0 d.power.target (dieOfSlice slice)
  let hot := (sliceBanks slice 0).any fun b => decide (95 < tget 25 d.lp.temp (b / 16))
  min (if 750 ≤ v then 4 else if 700 ≤ v then 3 else if 650 ≤ v then 2 else 1) (if hot then 2 else 4)

/-- A bank owes two refreshes (R190, R218). -/
def bankOwes (d : Dev) (slice bank : Nat) : Bool := (sliceBanks slice bank).any fun b => decide (2 ≤ tget 0 d.lp.owed b)

def bankRuns (d : Dev) (slice bank : Nat) : Bool := (tfind d.row.running (16 * slice + bank)).isSome

/-- Row operations that run on a slice. -/
def sliceRuns (d : Dev) (slice : Nat) : Nat := (d.row.running.filter fun p => p.1 / 16 == slice).length

def Dev.job (d : Dev) (id : Nat) : Option Job := d.row.jobs.find? (·.id == id)
def Dev.onJob (d : Dev) (id : Nat) (f : Job → Job) : Dev :=
  d.onRow fun x => { x with jobs := modWhere (·.id == id) f x.jobs }

/-- Class of a job (R214). -/
def jobClass (j : Job) : Nat := match j.use with | .fork _ => 0 | .command _ _ => 1 | .scrub _ _ => 2 | .granule _ _ => 2

/-- The slice's jobs in class order, oldest first. -/
def jobOrder (d : Dev) : List Job := [0, 1, 2].flatMap fun c => d.row.jobs.filter (jobClass · == c)

/-- Not-started operations of a job on a slice whose bank is free and whose turn it is, held for refresh or not. -/
def readyOps (d : Dev) (slice : Nat) (j : Job) : List RowOp :=
  let ops := jobOps 0 j.entries
  ops.filter fun o =>
    unitSlice o.dst == slice && !(tget false j.started o.n) && !(bankRuns d slice (unitBank o.dst)) && opFree j ops o

/-- Note a pause for every ready operation that refresh holds back for the first time (R218). -/
def notePauses (d : Dev) (slice : Nat) : Dev :=
  (jobOrder d).foldl (fun d j =>
    let hs := (readyOps d slice j).filter fun o => bankOwes d slice (unitBank o.dst) && !(j.held.contains o.n)
    if hs.isEmpty then d
    else
      let d := count d (dieOfSlice slice) (0x1000 + 0x70 + slice % 4) hs.length
      d.onJob j.id fun j => { j with pauses := min (j.pauses + hs.length) 0xFFFFFFFE, held := j.held ++ hs.map (·.n) }) d

/-- The next row operation of a slice (R214). -/
def nextOp (d : Dev) (slice : Nat) : Option (Job × RowOp) :=
  (jobOrder d).findSome? fun j =>
    ((readyOps d slice j).find? fun o => !(bankOwes d slice (unitBank o.dst))).map fun o => (j, o)

/-- ROW_OP_START: a slice with a free bank under its limit starts the next row operation (R214, R217). -/
def execRowOpStart (slice : Nat) (s : State) : Out :=
  s.act fun d =>
    d.when (d.ready (dieOfSlice slice) && decide (slice < 64) && decide (sliceRuns d slice < bankLimit d slice)) fun d =>
      let d := notePauses d slice
      match nextOp d slice with
      | none => d
      | some (j, o) =>
        (d.onJob j.id fun j => { j with started := tput false j.started o.n true }).onRow fun x =>
          { x with running := tins x.running (16 * slice + unitBank o.dst) (j.id, o) }

/-! ### Effects (R206 to R208, R223) -/

/-- Bytes of a row unit as they lie in its bank: a write that waits has not reached it (R221). -/
def unitBytes (k : Chip) (u : Nat) : Bytes := bankBytes k (8192 * u) 8192

/-- What a row operation leaves in its destination (Table 08-1). -/
def rowResult (k : Chip) (o : RowOp) : Bytes :=
  let a := unitBytes k o.a
  match o.op with
  | 1 => a
  | 2 => (List.range 1024).flatMap fun _ => toLe 8 o.pattern
  | 3 => List.zipWith (· &&& ·) a (unitBytes k o.b)
  | 4 => List.zipWith (· ||| ·) a (unitBytes k o.b)
  | 5 => List.zipWith (· ^^^ ·) a (unitBytes k o.b)
  | 6 => a.map fun x => ~~~x
  | _ => unitBytes k o.dst

/-- Frames of a row unit. -/
def unitFrames (u : Nat) : List Nat := [2 * u, 2 * u + 1]

/-- A frame still belongs to a freed run that is being scrubbed. -/
def frameScrubs (d : Dev) (tier f : Nat) : Bool :=
  d.obj.runs.any fun p => runTier p.1 == tier && p.2.use == .freed && p.2.scrubbing && decide (runFrame p.1 ≤ f) &&
    decide (f < runFrame p.1 + p.2.count)

/-- What a completed row operation leaves in its bank. A scrub zeroes those frames of the row unit that have not been
taken again by their tenant, one that is left alone by burst writes (R51, R223). -/
def rowEffect (k : Chip) (j : Job) (o : RowOp) : Chip :=
  match j.use with
  | .scrub _ _ => ((unitFrames o.dst).filter (frameScrubs k.dev 1)).foldl (fun k f => rowWrite k (4096 * f) (zeros 4096)) k
  | _ => rowWrite k (8192 * o.dst) (rowResult k o)

/-- ROW_FILL entries of zeros over row units. -/
def fillEntries : Nat → Nat → Nat → List Bytes
  | 0, _, _ => []
  | f + 1, u, n => if n = 0 then [] else if n ≤ 65534 then [mkEntry 2 n u 0] else mkEntry 2 65534 u 0 :: fillEntries f (u + 65534) (n - 65534)

/-- Zero a range of tier 1, after the host has answered for its lines and behind what waits there (R221, R395). -/
def zeroRange (k : Chip) (a n : Nat) : Chip :=
  if (filteredLines k.dev a n).isEmpty && !(writeWaits k.dev a n) then zeroNow k a n else nodeWrite k a (zeros n)

/-- What a finished job of the node's own leaves to do: what is left of a scrubbed run is scrubbed and free (R223). -/
def ownJobDone (d : Dev) (j : Job) : Dev :=
  match j.use with
  | .scrub f n =>
    let clean := fun (p : Nat × Run) => runTier p.1 == 1 && p.2.use == .freed && p.2.scrubbing &&
      decide (f ≤ runFrame p.1 ∧ runFrame p.1 < f + n)
    (d.onObj fun x => { x with runs := dropWhere clean x.runs }).onRow fun x =>
      { x with jobs := dropWhere (·.id == j.id) x.jobs }
  | .granule slice _ =>
    (d.onLp fun x => { x with changing := tupd x.changing slice fun c => { c with filled := true } }).onRow fun x => { x with jobs := dropWhere (·.id == j.id) x.jobs }
  | _ => d

/-- Banks are numbered 16 · device + bank, devices 2 · sub-channel + rank, sub-channels 2 · channel + number. -/
def bankChannel (bank : Nat) : Nat := bank / 64
def bankSlice (bank : Nat) : Nat := bankChannel bank / 2
def bankDie (bank : Nat) : Nat := bankChannel bank / 8

/-- Refreshes of a bank are issued. -/
def issueRefresh (d : Dev) (bank n : Nat) : Dev :=
  count (d.onLp fun x => { x with owed := tput 0 x.owed bank 0, management := tput false x.management bank false })
    (bankDie bank) (0x0C00 + 0x20 + bankChannel bank % 8) n

/-- What the banks of a finished row operation owe is refreshed before any further command (R190). -/
def refreshBanks (d : Dev) (slice bank : Nat) : Dev :=
  (sliceBanks slice bank).foldl (fun d b =>
    let n := tget 0 d.lp.owed b
    if n = 0 then d else issueRefresh d b n) d

/-- ROW_OP_COMPLETE: all four units have finished; the destination row unit holds its new bytes (R206, R220). A bank that
owes 2 refreshes holds the next operation there, a pause (R218); then what the bank owes is refreshed, and the reads and
writes that waited on the subarray are served before the next row operation (R219, R221). -/
def rowOpDone (k : Chip) (slice bank : Nat) : Chip :=
  match tfind k.dev.row.running (16 * slice + bank) with
  | none => k
  | some (id, o) =>
    let k := k.onDev fun d => d.onRow fun x => { x with running := tdel x.running (16 * slice + bank) }
    match k.dev.job id with
    | none => memReleased k
    | some j =>
      memReleased <| (rowEffect k j o).onDev fun d =>
        let d := count d (dieOfSlice slice) (0x1000 + 0x10 * o.op + slice % 4) 1
        let d := d.onJob id fun j => { j with completed := tput false j.completed o.n true }
        match d.job id with
        | some j => refreshBanks (notePauses (if j.completed.length = jobSize j then ownJobDone d j else d) slice) slice bank
        | none => d

def execRowOpComplete (slice bank : Nat) (s : State) : Out :=
  s.actMem fun k => k.when (k.dev.ready (dieOfSlice slice)) fun k => rowOpDone k slice bank

/-! ### Runtime jobs (R209 to R216) -/

/-- Row operation operands of an entry. -/
def enOperands (e : Bytes) : List Nat :=
  if enOp e = 2 then [enDst e] else if enOp e = 1 ∨ enOp e = 6 then [enDst e, enA e] else [enDst e, enA e, enB e]

/-- A frame lies in a run that a load command has opened; the run's tenant. -/
def loadTenant (d : Dev) (f : Nat) : Option Nat :=
  (d.obj.runs.find? fun p => runTier p.1 == 1 && decide (runFrame p.1 ≤ f) && decide (f < runFrame p.1 + p.2.count) &&
    (match p.2.use with | .load _ => !p.2.left | _ => false)).map (·.2.tenant)

/-- Entries of a job list. -/
def jobEntries : Nat → Bytes → List Bytes
  | 0, _ => []
  | n + 1, b => b.take 16 :: jobEntries n (b.drop 16)

/-- Runtime jobs that occupy a place on a slice. -/
def jobsOn (d : Dev) (slice : Nat) : Nat :=
  (d.row.jobs.filter fun j => jobClass j == 1 && j.entries.any fun e => unitSlice (enDst e) == slice).length

/-- The checks of Table 08-4. -/
def jobChecks (d : Dev) (b : Bytes) (len : Nat) : List (Bool × Nat) :=
  let n := fld b 0 2
  let tenant := fld b 2 2
  let es := jobEntries n (b.drop 16)
  let units := es.flatMap fun e => (enOperands e).flatMap fun u => (List.range (enCount e)).map (u + ·)
  let three := fun (e : Bytes) => enOp e == 3 || enOp e == 4 || enOp e == 5
  let resOk := fun (e : Bytes) =>
    fld e 1 1 == 0 && decide (enDst e < 2 ^ 29) &&
      (enOp e == 2 || (decide (enA e < 2 ^ 29) && decide (enB e < 2 ^ 29) && (three e || enB e == 0)))
  [(allZero (cut b 8 8) && es.all resOk, St.fieldInvalid),
   (len == 16 + 16 * n && n != 0xFFFF && es.all (fun e => enCount e != 0xFFFF), St.lengthInvalid),
   (decide (1 ≤ n ∧ n ≤ 4096) && es.all (fun e => decide (1 ≤ enOp e ∧ enOp e ≤ 6) && decide (1 ≤ enCount e)) &&
      tenant != 0, St.fieldInvalid),
   (es.all fun e => (enOperands e).all fun u =>
      decide (u + enCount e ≤ 402653184) && unitGranule u == unitGranule (u + enCount e - 1), St.lengthInvalid),
   (es.all fun e => (enOperands e).all fun u => isBankOp d (unitGranule u), St.fieldInvalid),
   (es.all fun e => (enOperands e).all fun u => unitGranule u == unitGranule (enDst e) && unitBank u == unitBank (enDst e),
     St.fieldInvalid),
   (units.all fun u => (unitFrames u).all fun f => (loadTenant d f).isSome, St.fieldInvalid),
   (units.all fun u => (unitFrames u).all fun f => loadTenant d f == some tenant, St.tenantMismatch),
   (es.all fun e => decide (jobsOn d (unitSlice (enDst e)) < 32), St.busy)]

/-- Runs that some frames lie in. -/
def runsOver (d : Dev) (fs : List Nat) : List Nat :=
  (d.obj.runs.filter fun p => runTier p.1 == 1 && fs.any fun f => decide (runFrame p.1 ≤ f) && decide (f < runFrame p.1 + p.2.count)).map
    (·.1)

/-- A job enters its queues with a reference on every run it touches (R212). -/
def jobAdd (d : Dev) (use : JobUse) (tenant : Nat) (entries : List Bytes) (runs : List Nat) (tag : Nat := 0) : Dev :=
  (runs.foldl refRun d).onRow fun x =>
    { x with jobs := x.jobs ++ [{ id := x.nextJob, use := use, tenant := tenant, entries := entries, runs := runs, tag := tag }],
             nextJob := x.nextJob + 1 }

/-- A job is over: its references go. -/
def jobDrop (d : Dev) (j : Job) : Dev :=
  (j.runs.foldl unrefRun d).onRow fun x => { x with jobs := dropWhere (·.id == j.id) x.jobs }

/-- BANKOP_JOB: the checks of Table 08-4, then the job is queued (R211, R214). -/
def execBankopJob (ring index : Nat) (s : State) : Out :=
  s.act fun d =>
    match d.cmdReady ring index 0x1C with
    | none => d
    | some c =>
      let tenantOk := fld c.buf 2 2 == fld c.desc 8 2
      match firstFail ((tenantOk, St.tenantMismatch) :: jobChecks d c.buf (fld c.desc 0x20 4)) with
      | some st => cmdFailState d ring index st
      | none =>
        let es := jobEntries (fld c.buf 0 2) (c.buf.drop 16)
        let fs := es.flatMap fun e => (enOperands e).flatMap fun u =>
          (List.range (enCount e)).flatMap fun k => unitFrames (u + k)
        let d := d.onCmd ring index fun c => { c with phase := .running }
        jobAdd d (.command ring index) (fld c.buf 2 2) es (runsOver d fs) (fld c.buf 4 4)

/-- The result of a bank-op job (Table 08-5). -/
def jobResult (j : Job) : Nat := j.completed.length + 4294967296 * j.pauses

/-- BANKOP_JOB_COMPLETE: every row operation has completed (R215, R216). JOB_TAG is held with the job, but neither Table
16-3 nor Table 08-5 has a field that echoes it (DESIGN CHOICE, notes/assumptions/99.md). -/
def execBankopJobComplete (job : Nat) (s : State) : Out :=
  s.act fun d =>
    match d.job job with
    | none => d
    | some j =>
      match j.use with
      | .command ring index =>
        d.when (j.completed.length == jobSize j) fun d =>
          cmdDone (jobDrop d j) ring index St.ok (jobResult j)
      | _ => d

end Sys2Proof.Machine
end

