-- ==== Sys2Proof/Machine/RecOps.lean ====
section
/-! DEFINITION. Recovery of SUSPECT pages, pages sent to and received from another replica, and page images installed in
new runs (R49, R50, R545, R548). -/

namespace Sys2Proof.Machine

/-! ### Images in new runs -/

/-- Write an image at a frame of tier 1; none when its last burst cannot be merged (R546). -/
def storeImage (k : Chip) (frame : Nat) (img : Bytes) : Option Chip :=
  match writeBlocked k.dev (4096 * frame) img.length with
  | [] => some (nodeWrite k (4096 * frame) img)
  | _ => none

/-- Free a run that was allocated and is not used. -/
def dropRun (d : Dev) (tier frame : Nat) : Dev := leaveRun d (runKey tier frame)

/-- The stored bytes of a sealed image: its header says how many (Table 02-5). -/
def storedPart (img : Bytes) : Bytes := img.take (fld img 0x1C 4)

/-- A growing image can stand for a page: its header names the page and the geometry, and its tokens pass (R40, R49). -/
def growImageOk (img : Bytes) (key : Nat) (g : Geom) : Bool :=
  growHdrOk img && (readHdr img).key == key && (readHdr img).g == g && decide ((readHdr img).valid ≤ g.T) &&
    tokenCrcsOk g img (readHdr img).valid

/-- A page that holds T tokens and grows goes to the seal queue (R53). -/
def sealIfFull (d : Dev) (key valid : Nat) (g : Geom) : Dev := if valid = g.T then sealStart d key else d

/-- Uncorrectable bursts under the image of an entry in tier 1. -/
def entryBad (k : Chip) (e : Entry) (g : Geom) : List Nat :=
  let a := 4096 * e.frame
  badBursts k.dev a (imageLen e.grows g (readTier1 k a 128) e.count)

/-- The slice of a page's tier-1 run is in service. -/
def entryUp (d : Dev) (e : Entry) : Bool :=
  let s := e.frame / (48 * granFrames)
  e.tier != 1 || (sliceReady d s && d.ready (dieOfSlice s))

/-- A channel of the slice of a page's tier-1 run has failed training (R535): the run cannot be read in place. -/
def entryDead (d : Dev) (e : Entry) : Bool :=
  let c := 2 * (e.frame / (48 * granFrames))
  let failed := fun ch => bitOf (tget 0 d.lp.failedCh (ch / 8)) (ch % 8)
  e.tier == 1 && (failed c || failed (c + 1))

/-! ### Recovery (R49) -/

/-- The shard of a page in the node's record, with its number. -/
def keyShard (d : Dev) (key : Nat) : Option (Nat × Shard) := (d.objAt (keyObj key)).bind fun o => o.shardFor (keyPage key)

/-- Step 2: ask the other replica, where the record names one that is LIVE; otherwise the attempt fails. -/
def recoveryFetch (d : Dev) (key : Nat) : Dev :=
  match keyShard d key with
  | none => recoveryFails d key
  | some (n, sh) =>
    match otherReplica d.regs.nodeId sh with
    | none => recoveryFails d key
    | some other =>
      if d.live other then
        let (tag, d) := freshTag d
        let d := d.onObj fun x =>
          { x with recoveries := tupd x.recoveries key fun r => { r with fetching := some tag, at_ := d.now, asked := other, expired := false } }
        sendRec d other 2 6 (recMsg 0x59 0 (keyObj key) tag n (2 * b2n (d.entry key).grows) sh.epoch 0 (keyBytes key))
      else recoveryFails d key

/-- A sealed image read again in place is checked through an expander. -/
def recoverSealed (d : Dev) (key : Nat) (img : Bytes) (limit : Nat) (g : Geom) : Dev :=
  match pageImageCheck img limit key g with
  | .ok _ => recoveryDone (verified d key (storedPart img).length) key 1
  | .error n => recoveryFetch (formatFault d key n) key

/-- Step 1: the page is read again in place, once its die and channels are back in service (R26, R199). -/
def recoveryStep (k : Chip) (key : Nat) (r : Recovery) : Dev :=
  let d := k.dev
  let e := d.entry key
  let g := keyGeom k key e.run
  if r.copyBack || entryDead d e then recoveryFetch d key
  else if !(entryUp d e) then d
  else if e.tier = 2 then
    if d.obj.uioReads.any (·.use == .recovery key) || !(tier2Up d) || !(uioRoom d e.count) then d
    else uioRead d 6 (.recovery key) e.frame e.count
  else
    match entryBad k e g with
    | b :: bs => recoveryFetch (badFound d (b :: bs) 2 (keyTenant key) St.uncorrectable) key
    | [] =>
      let img := readEntry k e
      if e.grows then
        if growImageOk img key g then sealIfFull (recoveryDone d key 1) key (readHdr img).valid g
        else recoveryFetch d key
      else recoverSealed d key img img.length g

/-- RECOVERY_ATTEMPT (R49). -/
def execRecoveryAttempt (key : Nat) (s : State) : Out :=
  s.actRead fun k =>
    match tfind k.dev.obj.recoveries key with
    | some r => if r.active && r.fetching.isNone && !r.installing && (k.dev.entry key).suspect then offersAgain ⟨recoveryStep k key r, k.mem⟩ else k.dev
    | none => k.dev

/-- PAGE_FETCH_TIMEOUT (R49): no PAGE_IMAGE after 100,000,000 ticks, or the PAGE_FETCH ended with its connection (R286, R291). -/
def execPageFetchTimeout (key : Nat) (s : State) : Out :=
  s.act fun d =>
    match tfind d.obj.recoveries key with
    | some r => d.when (r.active && r.fetching.isSome && !r.installing && (r.expired || d.due r.at_ 100000000)) fun d => recoveryFails d key
    | none => d

/-- RECOVERY_RETRY (R49): 100,000,000 ticks after a failed attempt. A new replica's SHARD_UPDATE starts one at once. -/
def execRecoveryRetry (key : Nat) (s : State) : Out :=
  s.act fun d =>
    match tfind d.obj.recoveries key with
    | some r => d.when (!r.active && d.due r.at_ 100000000) fun d => startRecovery d key r.copyBack
    | none => d

/-! ### PAGE_FETCH (R548) -/

/-- Fields of a record message (Table 13-8). -/
def rmStatus (b : Bytes) : Nat := fld b 1 1
def rmObj (b : Bytes) : Nat := mkObj (fld b 2 2) (fld b 4 4)
def rmTag (b : Bytes) : Nat := fld b 8 4
def rmShard (b : Bytes) : Nat := fld b 0xC 1
def rmFlags (b : Bytes) : Nat := fld b 0xD 1
def rmEpoch (b : Bytes) : Nat := fld b 0x10 4
def rmNode (b : Bytes) : Nat := fld b 0x14 4 % 2 ^ 20
def rmPayload (b : Bytes) : Bytes := (b.drop 0x20).take (fld b 0x18 4)

/-- The payload length that a record message's type fixes (Table 13-7). -/
def recLength (type : Nat) : Option Nat :=
  if [0x50, 0x53, 0x55, 0x56, 0x58].contains type then some 0
  else if type = 0x52 then some 72
  else if type = 0x59 then some 12
  else none

/-- The checks on a record message, its framing's reserved bits and its header: reserved and fixed fields (R7), tenant and object (R31), then LENGTH (R8); the
status of the first that fails. -/
def recHeadBad (bytes : Bytes) : Option Nat :=
  let b := msgBody bytes
  let t := fld b 0 1
  let request := [0x50, 0x52, 0x54, 0x56, 0x57, 0x58, 0x59].contains t
  let names := [0x51, 0x54, 0x56, 0x58].contains t
  firstFail
    [(headersOk bytes && (!request || rmStatus b == 0) && decide (rmFlags b < 8) && fld b 0xE 2 == 0 && fld b 0x1C 4 == 0 &&
        decide (fld b 0x14 4 < 2 ^ 20) && (names || fld b 0x14 4 == 0), St.fieldInvalid),
     (fld b 2 2 != 0 && fld b 4 4 != 0, St.fieldInvalid),
     (t != 0x50 || (rmShard b == 0xFF && rmEpoch b == 0), St.fieldInvalid),
     (b.length == 0x20 + fld b 0x18 4 && (match recLength t with | some n => fld b 0x18 4 == n | none => true),
      St.lengthInvalid)]

/-- PAGE_IMAGE in answer to a PAGE_FETCH body. -/
def pageImageMsg (d : Dev) (b : Bytes) (status flags : Nat) (payload : Bytes) : Bytes :=
  let epoch := match keyShard d (fld b 0x20 12) with | some (_, s) => s.epoch | none => rmEpoch b
  recMsg 0x5A status (rmObj b) (rmTag b) (rmShard b) flags epoch 0 payload

/-- Answer a PAGE_FETCH with a sealed image that has been read, after checking it. -/
def fetchSealed (d : Dev) (b : Bytes) (key limit : Nat) (g : Geom) (img : Bytes) : Dev × Bytes :=
  match pageImageCheck img limit key g with
  | .ok _ =>
    (verified d key (storedPart img).length, pageImageMsg d b St.ok 0 (keyBytes (fld b 0x20 12) ++ storedPart img))
  | .error n => (suspectPage (formatFault d key n) key false, pageImageMsg d b St.pageCrcMismatch 0 [])

/-- Answer a PAGE_FETCH. -/
def pageFetchOp (k : Chip) (m : Inb) : Dev :=
  let d := k.dev
  let b := msgBody m.bytes
  let asked := fld b 0x20 12
  let key := d.ownerKey asked
  let e := d.entry key
  let no := fun (st : Nat) => reply d m 3 6 (pageImageMsg d b st 0 [])
  let held := match d.objAt (rmObj b) with
    | some o => pageInObj o (keyLayer asked) (keyPage asked) &&
        (match o.shardFor (keyPage asked) with | some (_, s) => holdsRole d.regs.nodeId s | none => false)
    | none => false
  let g := keyGeom k key e.run
  if m.stale then no St.epochStale
  else if let some st := recHeadBad m.bytes then no st
  else if fld b 0x20 12 / 2 ^ 74 ≠ 0 ∨ keyObj asked ≠ rmObj b then no St.fieldInvalid
  else if (d.objAt (rmObj b)).isNone then no St.noSuchObject
  else if (d.entry asked).state = .absent ∧ held = true ∧ pageOpening d asked = true then no St.busy
  else if held = false ∨ (d.entry asked).state = .absent ∨ e.state = .absent then no St.noSuchPage
  else if e.suspect then no St.pageCrcMismatch
  else if e.tier = 2 then
    match copyFor d key with
    | some c =>
      let r := fetchSealed d b key (4096 * c.count) g (readTier1 k (4096 * c.frame) (4096 * c.count))
      reply r.1 m 3 6 r.2
    | none =>
      if tier2Up d && uioRoom d e.count then uioRead d 6 (.fetch (b.take 0x2C) key (msgSrc m.bytes)) e.frame e.count
      else no St.tierReadFailed
  else
    match entryBad k e g with
    | x :: xs =>
      let d := suspectPage (badFound d (x :: xs) 2 (keyTenant key) St.uncorrectable) key false
      reply d m 3 6 (pageImageMsg d b St.uncorrectable 0 [])
    | [] =>
      let img := readEntry k e
      if e.grows then
        if growPageOk img key g then reply d m 3 6 (pageImageMsg d b St.ok 2 (keyBytes asked ++ img.take g.growing))
        else reply (suspectPage d key false) m 3 6 (pageImageMsg d b St.pageCrcMismatch 0 [])
      else
        let r := fetchSealed d b key img.length g img
        reply r.1 m 3 6 r.2

/-- PAGE_FETCH: it waits for a seal in progress on the page (R548). -/
def execPageFetch (msg : Nat) (s : State) : Out :=
  s.actRead fun k =>
    match k.dev.msg msg 0x59 with
    | none => k.dev
    | some m =>
      if k.dev.obj.seals.any fun p => p.2.any (·.key == fld m.bytes 0x50 12) then k.dev
      else pageFetchOp (k.onDev fun d => d.take msg) m

/-! ### PAGE_IMAGE -/

/-- A growing page's received image goes into a new run; the reservation stays (R160). -/
def installGrowing (k : Chip) (key : Nat) (g : Geom) (img : Bytes) : Chip :=
  let d := k.dev
  let e := d.entry key
  match pageSlice d key with
  | none => k.onDev fun d => recoveryFails d key
  | some s =>
    match allocTier1 d s g.growFrames (keyTenant key) true (mayTransit d (keyObj key)) (.image key) with
    | none => k.onDev fun d => recoveryFails (shortage d s key) key
    | some (f, d) =>
      match storeImage ⟨d, k.mem⟩ f (img.take g.growing) with
      | none => ⟨recoveryFails (dropRun d 1 f) key, k.mem⟩
      | some k =>
        k.onDev fun d =>
          let d := (leaveRun d e.run).setEntry key { e with frame := f, count := g.growFrames, tier := 1 }
          sealIfFull (recoveryDone d key 2) key (readHdr img).valid g

/-- The tier that a page's policy directs its new run to (R173): tier 1 without a tier-2 window (R151). -/
def recoverTier (d : Dev) (key : Nat) (e : Entry) : Nat :=
  if d.obj.extents.isEmpty then 1 else directedTier (policyOf d (keyObj key)) e.tier

/-- A sealed page's received image goes into a new run in the tier its policy directs (R49, R173). -/
def installSealed (k : Chip) (key : Nat) (img : Bytes) : Chip :=
  let d := k.dev
  let e := d.entry key
  let n := framesFor img.length
  if recoverTier d key e = 2 then
    match allocTier2 d n (keyTenant key) (.move d.obj.nextMove) with
    | none => k.onDev fun d => recoveryFails d key
    | some (f, d) =>
      if tier2Up d then
        let id := d.obj.nextMove
        let d := uioWrite (noteCrc d key img) id f (uioWrites img.length) 0 img
        ⟨d.onObj fun x =>
          { x with
            moves := x.moves ++ [{ id := id, key := key, priority := 6, dst := some (2, f, n), writes := uioWrites img.length,
                                   recovery := true }]
            nextMove := id + 1
            recoveries := tupd x.recoveries key fun r => { r with installing := true, fetching := none } }, k.mem⟩
      else k.onDev fun d => recoveryFails d key
  else
    match pageSlice d key with
    | none => k.onDev fun d => recoveryFails d key
    | some s =>
      match allocTier1 d s n (keyTenant key) false false (.image key) with
      | none => k.onDev fun d => recoveryFails (shortage d s key) key
      | some (f, d) =>
        match storeImage ⟨d, k.mem⟩ f img with
        | none => ⟨recoveryFails (dropRun d 1 f) key, k.mem⟩
        | some k =>
          k.onDev fun d =>
            recoveryDone (dropStaleCopies ((leaveRun d e.run).setEntry key { e with frame := f, count := n, tier := 1 }) key) key 2

/-- A received image for a page under recovery: it is checked and installed, or the attempt fails. -/
def recoveryImage (k : Chip) (key : Nat) (b : Bytes) (r : Recovery) : Chip :=
  let d := k.dev
  let e := d.entry key
  let g := keyGeom k key e.run
  let img := (rmPayload b).drop 12
  let grows := bitOf (rmFlags b) 1
  if rmStatus b ≠ St.ok ∨ fld (rmPayload b) 0 12 ≠ key ∨ grows ≠ e.grows then k.onDev fun d => recoveryFails d key
  else if grows then
    if growImageOk img key g && (r.copyBack || decide (pageValid k g e ≤ (readHdr img).valid)) then installGrowing k key g img
    else k.onDev fun d => recoveryFails d key
  else
    match pageImageCheck img img.length key g with
    | .ok _ => installSealed (k.onDev fun d => verified d key (storedPart img).length) key (storedPart img)
    | .error n => k.onDev fun d => recoveryFails (formatFault d key n) key

/-- A shadow's copy of a sealed image that names another object of the tenant (R545): a SHARED entry, when the shadow
holds that image. -/
def shareImage (k : Chip) (key : Nat) (img : Bytes) : Chip :=
  let owner := (readHdr img).key
  let e := k.dev.entry owner
  let same := keyTenant owner == keyTenant key && keyLayer owner == keyLayer key && keyPage owner == keyPage key &&
    e.state == .sealed && decide (e.refs + 1 < 0xFFFFFF) &&
    (if e.tier = 2 then tget 0 k.dev.obj.crcs owner == fld img 0x14 4
     else (badBursts k.dev (4096 * e.frame) 128).isEmpty && fld (readEntry k e) 0x14 4 == fld img 0x14 4)
  k.when same fun k => k.onDev fun d =>
    (d.setEntry owner { e with refs := e.refs + 1 }).setEntry key { state := .shared, owner := keyObject owner }

/-- An unsolicited image at a shadow (Table 13-11 step 2). An image that fails leaves the page absent, so that the
shadowing fails at its digest. -/
def shadowImage (k : Chip) (b : Bytes) : Chip :=
  let d := k.dev
  let key := fld (rmPayload b) 0 12
  let img := (rmPayload b).drop 12
  match d.objAt (keyObj key), keyShard d key with
  | some o, some (_, sh) =>
    let g := o.geom
    if sh.shadow ≠ some d.regs.nodeId ∨ keyObj key ≠ rmObj b ∨ (d.entry key).state ≠ .absent ∨
        pageInObj o (keyLayer key) (keyPage key) = false then k
    else if bitOf (rmFlags b) 1 then
      if growImageOk img key g then
        match allocGrowing d key g (.image key) with
        | none => k.onDev fun d => shortage d ((pageSlice d key).getD 0) key
        | some (f, _, d) =>
          let d := d.setEntry key { frame := f, count := g.growFrames, tier := 1, state := .growing, refs := 1 }
          match storeImage ⟨d, k.mem⟩ f (img.take g.growing) with
          | none => ⟨dropPage d key, k.mem⟩
          | some k => k.onDev fun d => sealIfFull d key (readHdr img).valid g
      else k
    else if (readHdr img).key ≠ key then shareImage k key img
    else
      match pageImageCheck img img.length key g, pageSlice d key with
      | .ok _, some s =>
        let out := storedPart img
        let n := framesFor out.length
        match allocTier1 (verified d key out.length) s n (keyTenant key) false false (.image key) with
        | none => k.onDev fun d => shortage d s key
        | some (f, d) =>
          match storeImage ⟨d, k.mem⟩ f out with
          | none => ⟨dropRun d 1 f, k.mem⟩
          | some k =>
            k.onDev fun d =>
              let d := (fixGroup d key s).setEntry key { frame := f, count := n, tier := 1, state := .sealed, refs := 1 }
              if o.policy = 2 ∨ o.policy = 3 then queueMove d key 1 else d
      | .error n, _ => k.onDev fun d => formatFault d key n
      | _, _ => k
  | _, _ => k

/-- The page whose recovery waits for the answer with a tag. -/
def fetchedBy (d : Dev) (tag : Nat) : Option (Nat × Recovery) :=
  d.obj.recoveries.find? fun p => p.2.fetching == some tag && p.2.active && !p.2.installing

/-- PAGE_IMAGE (R49, R545, Table 13-11). An answer that nothing waits for is dropped. -/
def execPageImage (msg : Nat) (s : State) : Out :=
  s.actMem fun k => onMsgMem k msg 0x5A fun k m =>
    let b := msgBody m.bytes
    if m.stale || (recHeadBad m.bytes).isSome then k
    else if rmTag b = 0 then shadowImage k b
    else
      match fetchedBy k.dev (rmTag b) with
      | some (key, r) => let k := recoveryImage k key b r; ⟨offersAgain k, k.mem⟩
      | none => k

/-! ### Freed runs (R51, R52, R153, R223) -/

/-- Scrub a freed run of tier 1: by zero writes in a checked granule; in a bank-op granule by ROW_FILL, and by writes for
frames that share a row unit with another run. -/
def scrubTier1 (k : Chip) (f n tenant : Nat) : Chip :=
  if isBankOp k.dev (f / granFrames) then
    let u0 := (f + 1) / 2
    let u1 := (f + n) / 2
    let k := if f % 2 = 1 then zeroRange k (4096 * f) 4096 else k
    let k := if (f + n) % 2 = 1 ∧ f ≤ 2 * u1 then zeroRange k (4096 * (f + n - 1)) 4096 else k
    if u0 < u1 then
      k.onDev fun d => jobAdd (d.onRun (runKey 1 f) fun r => { r with scrubbing := true }) (.scrub f n) tenant
        (fillEntries (n / 65534 + 1) u0 (u1 - u0)) []
    else k.onDev fun d => d.onObj fun x => { x with runs := tdel x.runs (runKey 1 f) }
  else (zeroRange k (4096 * f) (4096 * n)).onDev fun d => d.onObj fun x => { x with runs := tdel x.runs (runKey 1 f) }

/-- Scrub a freed run of tier 2 by zero writes over unordered I/O (R153). -/
def scrubTier2 (d : Dev) (f n : Nat) : Dev :=
  if tier2Up d then
    let id := d.obj.nextMove
    let w := uioWrites (4096 * n)
    let d := uioWrite d id f w 0 (zeros (4096 * n))
    (d.onRun (runKey 2 f) fun r => { r with scrubbing := true }).onObj fun x =>
      { x with moves := x.moves ++ [{ id := id, key := 0, priority := 7, dst := some (2, f, n), writes := w, scrub := true }],
               nextMove := id + 1 }
  else d

/-- FREED_RUN_SCRUB: the run named by its key, tier · 2^36 + first frame. -/
def execFreedRunScrub (frame : Nat) (s : State) : Out :=
  s.actMem fun k =>
    match tfind k.dev.obj.runs frame with
    | none => k
    | some r =>
      k.when (r.use == .freed && !r.scrubbing && r.refs == 0) fun k =>
        let f := runFrame frame
        if runTier frame = 1 then
          let s := f / (48 * granFrames)
          k.when (sliceReady k.dev s && k.dev.ready (dieOfSlice s)) fun k => scrubTier1 k f r.count r.tenant
        else k.onDev fun d => scrubTier2 d f r.count

/-- RUN_REFERENCE_DROP: the last reference of a run that left its entry is gone (R52). -/
def execRunReferenceDrop (frame : Nat) (s : State) : Out :=
  s.act fun d =>
    match tfind d.obj.runs frame with
    | some r => d.when (r.left && r.refs == 0) fun d => d.onRun frame freedRun
    | none => d

end Sys2Proof.Machine
end

