-- ==== Sys2Proof/Machine/RmaOps.lean ====
section
/-! DEFINITION. Memory domains, registrations, remote reads and writes, trigger counters, posted work and merge-and-forward
(R304 to R318). -/

namespace Sys2Proof.Machine

/-! ### Registrations -/

def Dev.reg (d : Dev) (i : Nat) : Option Registration := tfind d.rma.regs i
def Dev.onReg (d : Dev) (i : Nat) (f : Registration → Registration) : Dev := d.onRma fun x => { x with regs := tupd x.regs i f }

/-- The registration of a domain that an address lies in. -/
def regFor (d : Dev) (dom addr : Nat) : Option (Nat × Registration) :=
  d.rma.regs.find? fun p => p.2.domain == dom && decide (p.2.base ≤ addr ∧ addr < p.2.base + p.2.length) && p.2.state == .valid

/-- A registration begins to drain (R306). -/
def regRevokeOp (d : Dev) (i : Nat) : Dev := d.onReg i fun r => { r with state := .draining }

/-- Complete commands that waited. -/
def cmdsDone (d : Dev) (l : List (Nat × Nat)) : Dev := l.foldl (fun d p => cmdDone d p.1 p.2 St.ok 0) d

/-- A domain under deletion goes when its last registration has gone. -/
def domainGone (d : Dev) (dom : Nat) : Dev :=
  match tfind d.rma.domains dom with
  | none => d
  | some m =>
    if m.deleting.isEmpty || d.rma.regs.any (·.2.domain == dom) then d
    else cmdsDone (d.onRma fun x => { x with domains := tdel x.domains dom }) m.deleting

/-- A draining registration with no operation past its check becomes INVALID (R306). -/
def regDrained (d : Dev) (i : Nat) : Dev :=
  match d.reg i with
  | none => d
  | some r =>
    if r.state = .draining ∧ r.running = 0 then
      domainGone (cmdsDone (d.onRma fun x => { x with regs := tdel x.regs i }) r.revoking) r.domain
    else d

/-! ### Trigger counters (R311, R312) -/

def Dev.trig (d : Dev) (i : Nat) : Trigger := tget {} d.rma.triggers i
def Dev.onTrig (d : Dev) (i : Nat) (f : Trigger → Trigger) : Dev :=
  d.onRma fun x => { x with triggers := tmod {} x.triggers i f }

/-- A trigger tag names a counter. -/
def tagValid (tag : Nat) : Bool := bitOf tag 31
def tagCounter (tag : Nat) : Nat := tag % 65536
/-- A tag names a FIRING counter: its message waits (R312). -/
def tagFiring (d : Dev) (tag : Nat) : Bool := tagValid tag && (d.trig (tagCounter tag)).state == .firing

/-- TRIGGER_ANOMALY: 1 idle, 2 excess, 3 tenant. -/
def anomaly (d : Dev) (counter tenant kind : Nat) : Dev :=
  logFull d 0x0503 Config.noDie tenant 0 0 (toLe 2 counter ++ toLe 1 kind)

/-- The work requests of a counter that leave its list. -/
def freeWork (d : Dev) (l : List Nat) : Dev := l.foldl (fun d w => d.onRma fun x => { x with work := tdel x.work w }) d

/-- FIRING ends when every request of the list has completed (Table 11-11). -/
def trigSettle (d : Dev) (c : Nat) : Dev :=
  let t := d.trig c
  if t.state = .firing ∧ t.list.all (fun w => match tfind d.rma.work w with | some k => k.done | none => true) = true then
    if t.repeat_ then
      let persists := fun w => match tfind d.rma.work w with | some k => bitOf (fld k.record 1 1) 0 | none => false
      let keep := t.list.filter persists
      let d := freeWork d (t.list.filter fun w => !(persists w))
      let d := d.onRma fun x =>
        { x with work := keep.foldl (fun w i => tupd w i fun k => { record := k.record }) x.work }
      d.onTrig c fun t => { t with state := .armed, value := 0, list := keep, lengths := [] }
    else d.onTrig c fun t => { t with state := .fired }
  else d

/-! ### Firing (R314) -/

def wkOp (r : Bytes) : Nat := fld r 0 1
def wkBulk (r : Bytes) : Bool := bitOf (fld r 1 1) 1
def wkTenant (r : Bytes) : Nat := fld r 2 2
def wkDest (r : Bytes) : Nat := fld r 4 4 % 2 ^ 20
def wkCounter (r : Bytes) : Nat := fld r 8 2
def wkReg (r : Bytes) : Nat := fld r 0xA 2
def wkLen (r : Bytes) : Nat := fld r 0xC 4
def wkOffset (r : Bytes) : Nat := fld r 0x10 8

/-- In place of a work request: none (a message that a SEND carried). -/
def noWork : Nat := 2 ^ 32

/-- An operation of this node's own waits for its RMA_RESP. -/
def opAdd (d : Dev) (tenant dest w : Nat) (body : Bytes) : Dev :=
  let conn := if dest = d.regs.nodeId then ownConn else (findConn d tenant dest).getD goneConn
  d.onRma fun x =>
    { x with ops := x.ops ++ [{ id := x.nextOp, conn := conn, reg := w, body := body.take 40, sub := 1, issued := true }],
             nextOp := x.nextOp + 1 }

/-- The 40-byte head of the RMA_WRITE that a work request sends. -/
def wkWriteHead (r : Bytes) (w : Nat) : Bytes :=
  toLe 1 0x30 ++ toLe 1 (1 + 2 * b2n (wkBulk r)) ++ toLe 2 (wkTenant r) ++ toLe 2 (fld r 0x28 2) ++ zeros 2 ++ cut r 0x20 8 ++
    cut r 0x18 8 ++ toLe 4 (wkLen r) ++ toLe 4 w ++ cut r 0x2C 4 ++ zeros 4

/-- The VC and service a SEND's body travels on (Table 04-1, Table 11-2). -/
def sendPath (bulk : Bool) (type : Nat) : Nat × Nat :=
  if type = 0x28 then (3, 4) else if type = 0x23 then (2, 3) else (if bulk then 3 else 2, 6)

/-- Send what a RMA_WRITE or SEND has read from its registration. -/
def workSend (d : Dev) (w : Nat) (r data : Bytes) : Dev :=
  let tenant := wkTenant r
  let dest := wkDest r
  if wkOp r = 1 then
    let head := wkWriteHead r w
    let t : TxMsg := { body := head ++ data, vc := if wkBulk r then 3 else 2, service := 6, subscriber := 1, op := .work w }
    opAdd (sendTo d tenant dest t) tenant dest w head
  else
    let type := fld data 0 1
    if (type == 0x23 || type == 0x28 || type == 0x30 || type == 0x31) && fld data 2 2 == tenant then
      let p := sendPath (wkBulk r) type
      let d := d.onRma fun x => { x with work := tupd x.work w fun k => { k with unacked := 1 } }
      let d := sendTo d tenant dest { body := data, vc := p.1, service := p.2, subscriber := 1, op := .work w }
      let d := if type = 0x30 ∨ type = 0x31 then opAdd d tenant dest noWork data else d
      if dest = d.regs.nodeId then workOutcome d w St.ok else d
    else workOutcome d w St.fieldInvalid

/-- The registration of a work request, with its source address. -/
def workSource (d : Dev) (r : Bytes) : Option (Nat × Registration × Nat) :=
  match d.reg (wkReg r) with
  | some g => if g.state = .valid then some (wkReg r, g, g.target + wkOffset r) else none
  | none => none

/-! ### MERGE_FORWARD (R316 to R318) -/

/-- Row records of a stored part, as partials (Table 04-7). -/
def readRow (dim : Nat) (b : Bytes) : Partial :=
  { m := BitVec.ofNat 32 (fld b 4 4), l := BitVec.ofNat 32 (fld b 8 4), count := fld b 0xC 4,
    bound := BitVec.ofNat 32 (fld b 0x10 4), o := (List.range dim).map fun j => BitVec.ofNat 32 (fld b (20 + 4 * j) 4),
    flags := fld b 2 1 }

def partRow (dim : Nat) (p : Bytes) (r : Nat) : Bytes := cut p (48 + r * (20 + 4 * dim)) (20 + 4 * dim)

/-- The value of a tree node from the partials received (R84). -/
def mergeNode (dim : Nat) (got : List ((Nat × Nat) × Partial)) : Nat → Nat → Partial
  | 0, i => match got.find? (·.1 == (0, i)) with | some p => p.2 | none => emptyPartial dim
  | l + 1, i =>
    match got.find? (·.1 == (l + 1, i)) with
    | some p => p.2
    | none => mergePartial (mergeNode dim got l (2 * i)) (mergeNode dim got l (2 * i + 1))

/-- Page groups beneath a tree node. -/
def nodeSpan (l i : Nat) : Nat × Nat := (i * 2 ^ l, (i + 1) * 2 ^ l - 1)

/-- Head, tree level and tree index of a part. -/
def ptHead (p : Bytes) : Nat := fld p 9 1
def ptLevel (p : Bytes) : Nat := fld p 0xB 1
def ptIndex (p : Bytes) : Nat := fld p 0xC 2

/-- Insert a number into an ascending list without repeats. -/
def insNat (a : Nat) : List Nat → List Nat
  | [] => [a]
  | b :: l => if a = b then b :: l else if a < b then a :: b :: l else b :: insNat a l

/-- No two tree nodes of one KV head overlap. -/
def noOverlap : List Bytes → Bool
  | [] => true
  | p :: ps =>
    (ps.all fun q => ptHead p != ptHead q ||
      decide ((nodeSpan (ptLevel p) (ptIndex p)).2 < (nodeSpan (ptLevel q) (ptIndex q)).1 ∨
        (nodeSpan (ptLevel q) (ptIndex q)).2 < (nodeSpan (ptLevel p) (ptIndex p)).1)) && noOverlap ps

/-- The checks of R317 step 2. -/
def mergeChecks (r : Bytes) (ps : List (Nat × Bytes)) : Bool :=
  let first := fld r 0x38 2
  let last := fld r 0x3A 2
  let bs := ps.map (·.2)
  ps.all (fun p => p.1 == wkLen r && fld p.2 0xE 2 == fld r 0x36 2 && !(bitOf (fld p.2 0xA 1) 0) && decide (ptLevel p.2 ≤ 14) &&
      cut p.2 2 7 == cut (bs.headD []) 2 7 &&
      decide (first ≤ (nodeSpan (ptLevel p.2) (ptIndex p.2)).1 ∧ (nodeSpan (ptLevel p.2) (ptIndex p.2)).2 ≤ last)) &&
    (bs.foldl (fun l p => insNat (ptHead p) l) []).length == fld r 0x34 1 && noOverlap bs

/-- Depth codes' head dimension. -/
def codeDim (c : Nat) : Nat := [64, 96, 128, 160, 192, 256].getD c 0

/-- The smallest level at which a range of groups lies under one node. -/
def smallestCover (first last : Nat) : Nat := ((List.range 15).find? fun l => first / 2 ^ l == last / 2 ^ l).getD 14

/-- One part that MERGE_FORWARD sends, number `k`. -/
def mergePart (d : Dev) (r : Bytes) (ps : List (Nat × Bytes)) (firedAt status k : Nat) : Bytes :=
  let bs := ps.map (·.2)
  let p0 := bs.headD []
  let heads := bs.foldl (fun l p => insNat (ptHead p) l) []
  let head := heads.getD k 0
  let dim := codeDim (fld r 0x35 1)
  let rows := fld r 0x36 2
  let lvl := smallestCover (fld r 0x38 2) (fld r 0x3A 2)
  let prefer := bs.any fun p => bitOf (fld p 0xA 1) 1
  let mine := bs.filter (ptHead · == head)
  let row := fun (i : Nat) =>
    let got := mine.map fun p => ((ptLevel p, ptIndex p), readRow dim (partRow dim p i))
    let t := partRow dim (mine.headD []) i
    rowRecord (fld t 0 1) (fld t 1 1) (mergeNode dim got lvl (fld r 0x38 2 / 2 ^ lvl))
  let good := status == St.ok
  toLe 1 0x24 ++ toLe 1 status ++ padTo 7 (cut p0 2 7) ++ toLe 1 head ++ toLe 1 (2 * b2n prefer) ++
    toLe 1 (if good then lvl else 0xFF) ++ toLe 2 (if good then fld r 0x38 2 / 2 ^ lvl else 0) ++
    toLe 2 (if good then rows else 0) ++ cut r 0x20 4 ++ toLe 2 k ++ toLe 2 (fld r 0x34 1) ++ toLe 4 (d.now - firedAt) ++
    cut r 0x18 8 ++ cut r 0x2C 4 ++ zeros 8 ++ (if good then (List.range rows).flatMap row else [])

/-- Read the stored parts and send the result (R317, R318). -/
def mergeFire (k : Chip) (w : Nat) (r : Bytes) (t : Trigger) (addr : Nat) : Dev :=
  let d := k.dev
  let ps := (List.range t.threshold).map fun n =>
    let len := t.lengths.getD n 0
    (len, readTier1 k (addr + n * wkLen r) (min len (wkLen r)))
  let bad := (List.range t.threshold).flatMap fun n =>
    badBursts d (addr + n * wkLen r) (min (t.lengths.getD n 0) (wkLen r))
  let status := match bad, ps.find? fun p => fld p.2 1 1 != St.ok with
    | _ :: _, _ => St.uncorrectable
    | [], some p => fld p.2 1 1
    | [], none => if mergeChecks r ps then St.ok else St.fieldInvalid
  let d := badServed d bad (wkTenant r) St.uncorrectable
  let n := fld r 0x34 1
  let d := d.onRma fun x => { x with work := tupd x.work w fun k => { k with unacked := n } }
  let d := (List.range n).foldl (fun d i =>
    sendTo d (wkTenant r) (wkDest r)
      { body := mergePart d r ps t.firedAt status i, vc := 1, service := 1, subscriber := 1, op := .work w }) d
  if wkDest r = d.regs.nodeId then workOutcome d w St.ok else d

/-- One posted work request fires. -/
def fireWork (m : Memory) (d : Dev) (w : Nat) : Dev :=
  match tfind d.rma.work w with
  | none => d
  | some k =>
    let r := k.record
    let d := d.onRma fun x => { x with work := tupd x.work w fun k => { record := k.record, fired := true } }
    match workSource d r with
    | none => workOutcome d w St.regionRevoked
    | some (i, g, addr) =>
      if wkOp r = 3 then mergeFire ⟨d, m⟩ w r (d.trig (wkCounter r)) addr
      else if g.tier1 then
        match badBursts d addr (wkLen r) with
        | b :: bs => workOutcome (badServed d (b :: bs) (wkTenant r) St.uncorrectable) w St.uncorrectable
        | [] => workSend d w r (readTier1 ⟨d, m⟩ addr (wkLen r))
      else if d.hostUp then
        let id := d.rma.nextOp
        let d := d.onRma fun x =>
          { x with ops := x.ops ++ [{ id := id, conn := goneConn, reg := i, body := toLe 4 w, sub := 1, issued := false }],
                   nextOp := id + 1 }
        ioRead (d.onReg i fun g => { g with running := g.running + 1 }) 6 (.rma id) addr (wkLen r)
      else workOutcome d w St.dieLost

/-- A counter is incremented; at its threshold its list fires (R311, R314). The caller has seen that it is not FIRING. -/
def trigInc (k : Chip) (c tenant : Nat) : Dev :=
  let d := k.dev
  let t := d.trig c
  match t.state with
  | .idle => anomaly (d.onRma fun x => { x with idleCount := inc48 x.idleCount }) c tenant 1
  | .fired =>
    if t.tenant = tenant then anomaly (d.onRma fun x => { x with excess := inc48 x.excess }) c tenant 2
    else anomaly d c tenant 3
  | .firing => d
  | .armed =>
    if t.tenant ≠ tenant then anomaly d c tenant 3
    else if t.value + 1 = t.threshold then
      let d := count d (16 + Config.triggerDie c % 8) 0x1870 1
      let d := d.onTrig c fun t => { t with value := t.value + 1, state := .firing, firedAt := d.now }
      trigSettle (t.list.foldl (fireWork k.mem) d) c
    else d.onTrig c fun t => { t with value := t.value + 1 }

/-- Increment the counter of a tag, if it names one. -/
def tagInc (k : Chip) (tag tenant : Nat) : Dev := if tagValid tag then trigInc k (tagCounter tag) tenant else k.dev

/-! ### Late acceptance (R293, R312) -/

/-- A message that waited for a FIRING counter is accepted when it is processed. -/
def acceptLate (d : Dev) (m : Inb) : Dev :=
  let c := d.conn m.conn
  if m.conn != ownConn && msgType m.bytes == 0 && (c.state == .open_ || c.state == .closing) &&
      sortSeq c (msgSeq m.bytes) == .fresh then acceptMsg d m.conn m.bytes
  else d

/-! ### RMA_WRITE and RMA_READ (R307 to R310) -/

def raTag (b : Bytes) : Nat := fld b 0x20 4
def raLen (b : Bytes) : Nat := fld b 0x18 4
def raAddr (b : Bytes) : Nat := fld b 0x10 8

/-- The checks of Table 11-9. -/
def rmaChecks (d : Dev) (m : Inb) (write : Bool) : List (Bool × Nat) :=
  let b := msgBody m.bytes
  let dom := tfind d.rma.domains (fld b 4 2)
  let g := regFor d (fld b 4 2) (raAddr b)
  [(fld b 2 2 == msgTenant m.bytes, St.tenantMismatch),
   (headersOk m.bytes && decide (fld b 1 1 < 4) && decide (fld b 4 2 < 4096) && fld b 6 2 == 0 && fld b 0x24 4 == 0 && fld b 2 2 != 0 &&
      bitsOf (raTag b) 16 15 == 0, St.fieldInvalid),
   (decide (1 ≤ raLen b ∧ raLen b ≤ 262144) && b.length == 40 + (if write then raLen b else 0), St.lengthInvalid),
   (!m.stale, St.epochStale),
   (dom.isSome, St.fieldInvalid),
   ((dom.map (·.tenant)).getD 0 == fld b 2 2, St.tenantMismatch),
   ((dom.map (·.key)).getD 0 == fld b 8 8, St.keyMismatch),
   (g.isSome, St.regionRevoked),
   ((match g with | some (_, g) => decide (raAddr b + raLen b ≤ g.base + g.length) | none => false), St.lengthInvalid),
   ((match g with | some (_, g) => if write then g.write else g.read | none => false), St.fieldInvalid)]

/-- RMA_RESP (Table 11-10). A tenant mismatch echoes nothing of the request (R93). -/
def rmaRespBytes (b : Bytes) (tenant status : Nat) (write : Bool) (data : Bytes) : Bytes :=
  let bad := status == St.tenantMismatch && fld b 2 2 != tenant
  toLe 1 0x32 ++ toLe 1 status ++ toLe 2 (if bad then tenant else fld b 2 2) ++ toLe 1 (b2n (!write)) ++ zeros 3 ++
    (if bad then zeros 4 else cut b 0x1C 4) ++ toLe 4 data.length ++
    (if write || bad then zeros 4 else cut b 0x20 4) ++ zeros 4 ++ data

/-- Answer an RMA message. -/
def rmaAnswer (d : Dev) (conn sub tenant : Nat) (b : Bytes) (status : Nat) (write : Bool) (data : Bytes) : Dev :=
  if write && status == St.ok && !(bitOf (fld b 1 1) 0) then d
  else replyOn d conn 1 2 sub (rmaRespBytes b tenant status write data)

/-- Handle an RMA_WRITE (R309). -/
def rmaWriteOp (k : Chip) (m : Inb) : Chip :=
  let b := msgBody m.bytes
  let sub := actionSub m.action
  let no := fun (k : Chip) (st : Nat) => k.onDev fun d => rmaAnswer (acceptLate d m) m.conn sub (msgTenant m.bytes) b st true []
  match firstFail (rmaChecks k.dev m true), regFor k.dev (fld b 4 2) (raAddr b) with
  | some st, _ => no k st
  | none, none => no k St.regionRevoked
  | none, some (_, g) =>
    let a := g.target + (raAddr b - g.base)
    let data := b.drop 40
    let done := fun (k : Chip) =>
      ({ k with dev := rmaAnswer (tagInc (k.onDev fun d => acceptLate d m) (raTag b) (fld b 2 2)) m.conn sub
                  (msgTenant m.bytes) b St.ok true [] } : Chip)
    if g.tier1 then
      match writeBlocked k.dev a data.length with
      | x :: xs => no (k.onDev fun d => badServed d (x :: xs) (fld b 2 2) St.uncorrectable) St.uncorrectable
      | [] => done (nodeWrite (k.onDev fun d => hubMove d (addrDie a) a data.length) a data)
    else if k.dev.hostUp then done (k.onDev fun d => hostPutConn d m.conn sub (.write a data))
    else no k St.dieLost

/-- Handle an RMA_READ (R309). -/
def rmaReadOp (k : Chip) (m : Inb) : Dev :=
  let d := k.dev
  let b := msgBody m.bytes
  let sub := actionSub m.action
  let say := fun (d : Dev) (st : Nat) (data : Bytes) => rmaAnswer d m.conn sub (msgTenant m.bytes) b st false data
  match firstFail (rmaChecks d m false), regFor d (fld b 4 2) (raAddr b) with
  | some st, _ => say d st []
  | none, none => say d St.regionRevoked []
  | none, some (i, g) =>
    let a := g.target + (raAddr b - g.base)
    if g.tier1 then
      match badBursts d a (raLen b) with
      | x :: xs => say (badServed d (x :: xs) (fld b 2 2) St.uncorrectable) St.uncorrectable []
      | [] => say (hubMove d (homeDie m.conn) a (raLen b)) St.ok (readTier1 k a (raLen b))
    else if d.hostUp then
      let id := d.rma.nextOp
      let d := d.onRma fun x =>
        { x with ops := x.ops ++ [{ id := id, conn := m.conn, reg := i, body := b, sub := sub, issued := false }],
                 nextOp := id + 1 }
      ioRead (d.onReg i fun g => { g with running := g.running + 1 }) 6 (.rma id) a (raLen b)
    else say d St.dieLost []

/-- A CXL.io read for RMA has ended: the source of a posted work request, or the data of an RMA_READ. -/
def rmaHostRead (d : Dev) (id : Nat) (ok : Bool) (data : Bytes) : Dev :=
  match d.rma.ops.find? (·.id == id) with
  | none => d
  | some o =>
    let d := d.onRma fun x => { x with ops := dropWhere (·.id == id) x.ops }
    let d := d.onReg o.reg fun g => { g with running := g.running - 1 }
    if o.body.length = 4 then
      let w := fld o.body 0 4
      match tfind d.rma.work w with
      | some k => if ok then workSend d w k.record data else workOutcome d w St.dieLost
      | none => d
    else rmaAnswer d o.conn o.sub (fld o.body 2 2) o.body (if ok then St.ok else St.dieLost) false (if ok then data else [])

/-- An RMA_RESP as Table 11-10 has it (R7, R8); one that is not matches nothing. -/
def respOk (m : Inb) : Bool :=
  let b := msgBody m.bytes
  headersOk m.bytes && decide (fld b 4 1 < 2) && fld b 5 3 == 0 && fld b 0x14 4 == 0 && b.length == 24 + fld b 0xC 4 &&
    (m.conn == ownConn || fld b 2 2 == msgTenant m.bytes)

/-- An operation that an RMA_RESP answers, by REQUEST_ID on its connection (R310); a TENANT_MISMATCH echoes no REQUEST_ID
and answers the oldest one there (R93). -/
def answers (m : Inb) (o : RmaOp) : Bool :=
  let b := msgBody m.bytes
  o.issued && o.conn == m.conn &&
    (fld o.body 0x1C 4 == fld b 8 4 || (fld b 1 1 == St.tenantMismatch && fld b 8 4 == 0))

/-- Handle an RMA_RESP (R310). -/
def rmaRespOp (k : Chip) (m : Inb) : Dev :=
  let d := k.dev
  let b := msgBody m.bytes
  match if respOk m then d.rma.ops.find? (answers m) else none with
  | none => acceptLate (d.onRma fun x => { x with stray := inc48 x.stray }) m
  | some o =>
    let d := acceptLate (d.onRma fun x => { x with ops := dropWhere (·.id == o.id) x.ops }) m
    let d := workOutcome d o.reg (fld b 1 1)
    if fld b 4 1 = 1 ∧ fld b 1 1 = St.ok then tagInc ⟨d, k.mem⟩ (fld b 0x10 4) (fld b 2 2) else d

/-! ### Parts that arrive (R316, R377) -/

/-- The accumulator of an ARMED counter's MERGE_FORWARD: the address of its next slot and the slot's size. -/
def accumulator (d : Dev) (t : Trigger) : Option (Nat × Nat) :=
  match t.list.findSome? fun w => (tfind d.rma.work w).bind fun k => if wkOp k.record = 3 then some k.record else none with
  | none => none
  | some r =>
    match workSource d r with
    | some (_, g, a) => if g.tier1 && g.write then some (a + t.value * wkLen r, wkLen r) else none
    | none => none

/-- A part from a shadow is kept for its comparison. -/
def shadowPart (d : Dev) (src : Nat) (b : Bytes) : Dev :=
  let keep := fun (c : Compared) => { c with theirs := tins c.theirs (fld b 0x14 2) b }
  if d.mbr.shadowings.any fun p => p.2.shadow == src && p.2.compared.any (·.request == fld b 0x10 4) then
    d.onMbr fun m =>
      { m with shadowings := m.shadowings.map fun p =>
          if p.2.shadow = src then (p.1, { p.2 with compared := modWhere (·.request == fld b 0x10 4) keep p.2.compared }) else p }
  else d.onRma fun x => { x with discarded := inc48 x.discarded }

/-- A part whose TENANT is its framing's and whose reserved bits are 0 (R7, R93, Table 04-6); another is discarded and counted. -/
def partOk (m : Inb) : Bool :=
  let b := msgBody m.bytes
  (m.conn == ownConn || (fld b 2 2 == msgTenant m.bytes && headersOk m.bytes)) && decide (48 ≤ b.length) &&
    decide (fld b 0xA 1 < 4) && fld b 0x2C 4 == 0 && bitsOf (fld b 0x24 4) 16 15 == 0

/-- An ATTN_PARTIAL (R316): stored and counted, or discarded. -/
def partOp (k : Chip) (m : Inb) : Chip :=
  let b := msgBody m.bytes
  let tag := fld b 0x24 4
  let k := k.onDev fun d => acceptLate d m
  if !(partOk m) then k.onDev fun d => d.onRma fun x => { x with discarded := inc48 x.discarded }
  else if tagValid tag then
    let c := tagCounter tag
    let t := k.dev.trig c
    let drop := fun (d : Dev) => d.onRma fun x => { x with discarded := inc48 x.discarded }
    match t.state with
    | .armed =>
      if t.tenant = fld b 2 2 then
        match accumulator k.dev t with
        | none => k.onDev drop
        | some (a, len) =>
          let part := b.take len
          match writeBlocked k.dev a part.length with
          | x :: xs => k.onDev fun d => drop (badServed d (x :: xs) t.tenant St.uncorrectable)
          | [] =>
            let k := (nodeWrite k a part).onDev fun d =>
              d.onTrig c fun t => { t with lengths := t.lengths.take t.value ++ [b.length] }
            { k with dev := trigInc k c (fld b 2 2) }
      else k.onDev fun d => drop (anomaly d c (fld b 2 2) 3)
    | _ => { k with dev := drop (trigInc k c (fld b 2 2)) }
  else k.onDev fun d => shadowPart d (msgSrc m.bytes) b

end Sys2Proof.Machine
end

