-- ==== Sys2Proof/Machine/MbrOps.lean ====
section
/-! DEFINITION. The membership view, witness decisions and what a change of membership does to the node (R343 to R364). -/

namespace Sys2Proof.Machine

/-! ### Messages (Table 13-2) -/

def mbType (b : Bytes) : Nat := fld b 0 1
def mbChange (b : Bytes) : Nat := fld b 1 1
def mbDomain (b : Bytes) : Nat := fld b 2 2
def mbEpoch (b : Bytes) : Nat := fld b 4 4
def mbSubject (b : Bytes) : Nat := fld b 8 4 % 2 ^ 20
def mbHealth (b : Bytes) : Nat := fld b 0xC 2
def mbFlags (b : Bytes) : Nat := fld b 0xE 1
/-- LIST: node, flags (bit 0 PROBATION, bit 1 ENDPOINT), VALUE. -/
def mbList (b : Bytes) : List (Nat × Nat × Nat) :=
  (List.range (min (fld b 0xF 1) 32)).map fun i =>
    (fld b (0x10 + 8 * i) 4 % 2 ^ 20, bitsOf (fld b (0x10 + 8 * i) 4) 20 2, fld b (0x14 + 8 * i) 4)

/-- A body whose reserved bits are zero and whose COUNT fits it (R7, R8, Table 13-2); a message with another body is discarded
and counted. -/
def mbBodyOk (b : Bytes) : Bool :=
  fld b 8 4 / 2 ^ 20 == 0 && decide (fld b 0xF 1 ≤ 32) && decide (0x10 + 8 * fld b 0xF 1 ≤ b.length) && decide (mbChange b ≤ 8) &&
    (List.range (fld b 0xF 1)).all fun i => fld b (0x10 + 8 * i) 4 / 2 ^ 22 == 0

/-- A membership message body. -/
def mbBody (type change domain epoch subject health flags : Nat) (list : List (Nat × Nat × Nat)) : Bytes :=
  toLe 1 type ++ toLe 1 change ++ toLe 2 domain ++ toLe 4 epoch ++ toLe 4 subject ++ toLe 2 health ++ toLe 1 flags ++
    toLe 1 list.length ++ list.flatMap fun e => toLe 4 (e.1 + 2 ^ 20 * e.2.1) ++ toLe 4 e.2.2

def changeOf (b : Bytes) : Change :=
  { change := mbChange b, subject := mbSubject b, epoch := mbEpoch b,
    flags := if mbChange b = 1 then mbFlags b / 128 * 128 else 0, list := mbList b }

def changeBody (type domain : Nat) (c : Change) (flags : Nat) : Bytes :=
  mbBody type c.change domain c.epoch c.subject 0 (c.flags + flags) c.list

/-! ### The view -/

def Dev.onDomain (d : Dev) (f : Nat) (g : Domain → Domain) : Dev :=
  d.onMbr fun m => { m with domains := tmod {} m.domains f g }

def Dev.member (d : Dev) (node : Nat) : Option Member := tfind d.mbr.view node

/-- This node's place in a domain's witness set. -/
def witnessIndex (d : Dev) (f : Nat) : Option Nat :=
  let i := (d.domain f).witnesses.findIdx (·.1 == d.regs.nodeId)
  if i < (d.domain f).witnesses.length then some i else none

def isWitness (d : Dev) (f : Nat) : Bool := (witnessIndex d f).isSome

/-- A majority of a domain's witness set (R345). -/
def majority (d : Dev) (f : Nat) : Nat := (d.domain f).witnesses.length / 2 + 1

/-- Witnesses that have a vote: LIVE, and as they were declared (R345, R547). -/
def voters (d : Dev) (f : Nat) : List Nat :=
  ((d.domain f).witnesses.filter fun w =>
    match d.member w.1 with | some m => m.live && m.domain == w.2 && !m.endpoint | none => false).map (·.1)

/-- A domain's membership is frozen (R345). -/
def frozen (d : Dev) (f : Nat) : Bool := decide ((voters d f).length < majority d f)

/-- A MEMBERSHIP record. -/
def mbrEvent (d : Dev) (f change subject epoch : Nat) : Dev :=
  logEv d 0x0701 Config.noDie (toLe 2 f ++ toLe 1 change ++ toLe 4 subject ++ toLe 4 epoch)

/-- A witness whose view disagrees with its declaration is reported once (R547). -/
def checkDeclared (d : Dev) (node : Nat) : Dev :=
  (d.mbr.domains.filter fun p => !(p.2.disagree.contains node) && p.2.witnesses.any fun w => w.1 == node &&
      (match d.member node with | some m => m.live && (m.domain != w.2 || m.endpoint) | none => false)).foldl
    (fun d p => (mbrEvent d p.1 0xFF node p.2.epoch).onDomain p.1 fun x => { x with disagree := x.disagree ++ [node] }) d

/-- The ACTIVE link partners, each once. -/
def partners (d : Dev) : List Nat :=
  (((List.range 32).filter d.active).filterMap fun n => (d.link n).partner.map (·.node)).eraseDups

/-- Link partners that are nodes: the neighbour set (R351). -/
def neighbours (d : Dev) : List Nat :=
  (((List.range 32).filter d.active).filterMap fun n =>
    match (d.link n).partner with | some p => if p.kind = 0 then some p.node else none | none => none).eraseDups

/-- Send a membership message to several members. -/
def sendAll (d : Dev) (to_ : List Nat) (body : Bytes) : Dev := to_.foldl (fun d n => sendVc0 d n body) d

/-- The own witnesses' nodes. -/
def witnessesOf (d : Dev) (f : Nat) : List Nat := (d.domain f).witnesses.map (·.1)

/-- MEMBER_PULL to a member: the updates of a domain that follow the epoch held (R350). -/
def sendPull (d : Dev) (node f : Nat) : Dev :=
  sendVc0 d node (mbBody 0x45 0 f (d.domain f).epoch d.regs.nodeId 0 0 [])

/-- After reset the view is empty (R350): the node pulls its own domain, the domains whose witness sets it has and those
of its link partners from its first ACTIVE link partner (DEDUCED, notes/assumptions/48.md). -/
def fillView (d : Dev) : Dev :=
  match partners d with
  | [] => d
  | n :: _ =>
    let near := (List.range 32).filterMap fun k => if d.active k then (d.link k).partner.map (·.domain) else none
    let sets := (d.mbr.domains.filter fun p => !p.2.witnesses.isEmpty).map (·.1)
    ((d.mbr.domain :: (sets ++ near)).eraseDups.filter (· != 0)).foldl (fun d f => sendPull d n f) d

/-! ### Losing the place in the fabric (R363) -/

/-- An object goes from the node: its pages and what is kept about it (R61). Pages that children share stay, under the
record as it was (R158); an object created later under the same ID owns them (DESIGN CHOICE, notes/assumptions/95.md). -/
def dropObject (d : Dev) (obj : Nat) : Dev :=
  let owned := (pagesOf d obj).any fun k => decide (1 < (d.entry k).refs)
  let o := d.objAt obj
  let d := blockEnd (blockEnd ((pagesOf d obj).foldl removePage d) 1 (objId obj) (objTenant obj)) 2 (objId obj) (objTenant obj)
  d.onObj fun x =>
    { x with objs := tdel x.objs obj, lastLayer := x.lastLayer.filter fun p => p.1 % 2 ^ 48 != obj, orphans := match o, owned with | some o, true => tins x.orphans obj o | _, _ => x.orphans,
             prefetch := x.prefetch.map fun p => (p.1, dropWhere (·.tenantObject == obj) p.2),
             loads := x.loads }

/-- The slots of an object are freed. -/
def dropSlots (d : Dev) (p : Slot → Bool) : Dev :=
  ((d.attn.slots.filter fun q => q.2.reserved && p q.2).map (·.1)).foldl freeSlot d

/-- The node has ceased to be LIVE: its requests end, its connections are torn down, its roles go. -/
def leaveFabric (d : Dev) (change : Nat) : Dev :=
  let d := requestsEnd d St.epochStale fun _ _ => true
  let d := ((d.tr.conns.map (·.1)).foldl (fun d i => connTeardown d i St.deadlineExpired)) d
  let d := dropSlots d fun _ => true
  let d := (d.obj.objs.map (·.1)).foldl dropObject d
  let d := d.onEvt fun e => { e with episodes := dropWhere (·.1 == 6) e.episodes }
  d.onMbr fun m => { m with homes := [], shadowings := [], asks := [], leftBy := change, joining := decide (change = 2) }

/-! ### Applying a change (R348, R363, Table 13-3) -/

/-- The member a change leaves. -/
def memberAfter (f : Nat) (c : Change) (m : Option Member) : Option Member :=
  match c.change with
  | 1 => some { live := true, admission := c.epoch, domain := f, endpoint := bitOf c.flags 7 }
  | 5 => m.map fun m => { m with probation := true }
  | 6 => m.map fun m => { m with probation := false }
  | 8 => m
  | _ => m.map fun m => { m with live := false, probation := false }

/-- A change takes a member out of the fabric. -/
def expels (c : Change) : Bool := c.change == 2 || c.change == 3 || c.change == 4 || c.change == 7

/-- What a domain keeps of an update that it applies. -/
def domainAfter (now : Nat) (body : Bytes) (c : Change) (x : Domain) : Domain :=
  { x with
    epoch := c.epoch
    recent := ((body, now) :: x.recent).take 16
    witnesses := if c.change = 8 then c.list.map fun e => (e.1, e.2.2) else x.witnesses
    expulsions := if c.change = 2 ∨ c.change = 3 ∨ c.change = 4 then now :: x.expulsions else x.expulsions
    suspicions := if expels c then dropWhere (·.1 == c.subject) x.suspicions else x.suspicions
    reports := if c.change = 1 then
        tins x.reports c.subject { at_ := now, epoch := c.epoch, health := 1000, flags := 0, neighbours := [] }
      else if expels c then tdel x.reports c.subject else x.reports
    grant := none
    votes := []
    warranted := dropWhere (fun w => w.1.change == c.change && w.1.subject == c.subject) x.warranted
    joins := if c.change = 1 ∨ expels c then dropWhere (· == c.subject) x.joins else x.joins
    proposal := match x.proposal with
      | some p => if p.committed then some p else none
      | none => none }

/-- Commands that waited for a change to be committed complete with its epoch (Table 15-1). -/
def mbrCmds (d : Dev) (f : Nat) (c : Change) : Dev :=
  let cmds := d.hif.rings.flatMap fun p => (p.2.cmds.filter (·.phase == .running)).map fun x => (p.1, x)
  let waits := fun (x : Cmd) =>
    (fld x.desc 0 1 == 5 && fld x.desc 0x12 2 == f && c.change == 8) ||
      (fld x.desc 0 1 == 6 && fld x.desc 0x10 1 == 1 && fld x.desc 0x14 4 == c.subject && expels c)
  (cmds.filter fun p => waits p.2).foldl (fun d p => cmdDone d p.1 p.2.index St.ok c.epoch) d

/-- This node is admitted at an epoch: MEMBERSHIP ENTER completes (R427). -/
def admitted (d : Dev) (epoch : Nat) : Dev :=
  let d := d.mbr.entering.foldl (fun d e => cmdDone d e.1 e.2.1 St.ok epoch) d
  d.onMbr fun m =>
    { m with everLive := true, joining := false, joinAt := none, entering := [], leftBy := 0,
             drain := if m.drain.step = 6 then {} else m.drain }

/-- What an update about this node itself does. -/
def selfChange (d : Dev) (c : Change) : Dev :=
  if c.subject ≠ d.regs.nodeId then d
  else if expels c then leaveFabric d c.change
  else if c.change = 1 then admitted d c.epoch
  else d

/-- Connections to a member that has been expelled enter QUARANTINE (Table 11-4). -/
def dropPeer (d : Dev) (node : Nat) : Dev :=
  ((d.tr.conns.filter (·.2.peer == node)).map (·.1)).foldl (fun d i => connTeardown d i St.deadlineExpired) d

/-- Apply the update that creates the next epoch of a domain. -/
def applyChange (d : Dev) (f : Nat) (c : Change) : Dev :=
  let body := changeBody 0x44 f c 0
  let old := d.member c.subject
  let d := d.onDomain f (domainAfter d.now body c)
  let d := match memberAfter f c old with
    | some m => d.onMbr fun x => { x with view := tins x.view c.subject m }
    | none => d
  let d := checkDeclared (mbrEvent d f c.change c.subject c.epoch) c.subject
  let d := if expels c && c.subject != d.regs.nodeId then dropPeer d c.subject else d
  selfChange (mbrCmds (blockEnd d 7 c.subject 0) f c) c

/-- Forward an update to every ACTIVE link partner but one (R348). -/
def floodUpdate (d : Dev) (f : Nat) (c : Change) (from_ : Nat) : Dev :=
  sendAll d ((partners d).filter (· != from_)) (changeBody 0x44 f c 0)

/-! ### Warranted changes (R353, R354, R360) -/

/-- A member is suspected (R353). -/
def isSuspected (d : Dev) (f subject : Nat) : Bool :=
  let x := d.domain f
  match tfind x.reports subject with
  | none => false
  | some r =>
    if r.neighbours.isEmpty then d.due r.at_ 50000000
    else
      let by_ := (x.suspicions.filter fun s => s.1 == subject && r.neighbours.contains s.2.1 && d.live s.2.1 &&
        decide (d.now < s.2.2 + 20000000)).length
      decide (r.neighbours.length < 2 * by_)

/-- A flag of a member's latest STATUS_REPORT (Table 13-2). -/
def reported (d : Dev) (f subject bit : Nat) : Bool :=
  match tfind (d.domain f).reports subject with | some r => bitOf r.flags bit | none => false

/-- The member's latest report set LAST_REPLICA. -/
def lastReplica (d : Dev) (f subject : Nat) : Bool := reported d f subject 1

/-- Expulsions counted in the budget's window (R359). -/
def budgetUsed (d : Dev) (f : Nat) : Bool :=
  let x := d.domain f
  decide (x.budget ≤ (x.expulsions.filter fun t => decide (d.now < t + 60000000000)).length)

/-- A change is valid here (Table 13-3): what warrants it holds by the view, the reports and the JOINs that this witness
has. The runtime's command behind EXPEL_FORCED and WITNESS_SET is the proposer's (notes/assumptions/50.md). -/
def changeValid (d : Dev) (f : Nat) (c : Change) : Bool :=
  let m := d.member c.subject
  let here := match m with | some m => m.live && m.domain == f | none => false
  let probation := match m with | some m => m.probation | none => false
  let last := lastReplica d f c.subject
  let low := reported d f c.subject 2
  let joined := (d.domain f).joins.contains c.subject
  match c.change with
  | 1 => !(d.live c.subject) && joined
  | 2 => here && (joined || (isSuspected d f c.subject && !last))
  | 3 => here && low && !last && !(budgetUsed d f)
  | 4 => here
  | 5 => here && low && !probation && (last || budgetUsed d f)
  | 6 => here && probation && !low
  | 7 => here && reported d f c.subject 6
  | 8 => (c.list.length == 3 || c.list.length == 5) && decide (c.list.map (·.1)).Nodup && decide (c.list.map (·.2.2)).Nodup &&
      c.list.all fun e => e.2.2 != f && e.2.2 != 0 && !(d.endpoint e.1)
  | _ => false

/-- A witness finds a change warranted: its delay starts (R354). What is warranted no longer is forgotten. -/
def warrant (d : Dev) (f : Nat) (c : Change) : Dev :=
  if isWitness d f then
    let kept := (d.domain f).warranted.filter fun w => changeValid d f w.1
    let same := kept.any fun w => w.1.change == c.change && w.1.subject == c.subject && w.1.list == c.list
    d.onDomain f fun x => { x with warranted := if same then kept else kept ++ [(c, d.now, d.now)] }
  else d

/-- A suspected member whose report did not set LAST_REPLICA is to be expelled. -/
def suspectCheck (d : Dev) (f subject : Nat) : Dev :=
  if isSuspected d f subject && !(lastReplica d f subject) && d.live subject then
    warrant d f { change := 2, subject := subject, epoch := 0 }
  else d

/-! ### Proposals and votes (R355, R356) -/

/-- This witness commits a change: it applies it and sends it to every witness. -/
def commitChange (d : Dev) (f : Nat) (c : Change) : Dev :=
  let d := applyChange d f c
  let d := d.onDomain f fun x =>
    { x with proposal := some { change := c, at_ := d.now, applied := [d.regs.nodeId], committed := true } }
  sendAll d ((witnessesOf d f).filter (· != d.regs.nodeId)) (changeBody 0x44 f c 0)

/-- The content of a change named by votes: from the own proposal, or from the change granted. -/
def knownChange (x : Domain) (change subject : Nat) : Option Change :=
  let ok := fun (c : Change) => c.change == change && c.subject == subject && c.epoch == x.epoch + 1
  match x.proposal with
  | some p => if ok p.change then some p.change
      else (match x.grant with | some (c, _) => if ok c then some c else none | none => none)
  | none => match x.grant with | some (c, _) => if ok c then some c else none | none => none

/-- A vote for a change at the next epoch is noted; at a majority it is committed. -/
def noteVote (d : Dev) (f voter change subject : Nat) : Dev :=
  let d := d.onDomain f fun x => { x with votes := (voter, change, subject) :: dropWhere (·.1 == voter) x.votes }
  let x := d.domain f
  let n := (x.votes.filter fun v => v.2.1 == change && v.2.2 == subject && (voters d f).contains v.1).length
  if majority d f ≤ n then
    match knownChange x change subject with
    | some c => commitChange d f c
    | none => d
  else d

/-- Answer a PROPOSE (R355). -/
def proposeOp (d : Dev) (src : Nat) (b : Bytes) : Dev :=
  let f := mbDomain b
  let c := changeOf b
  let x := d.domain f
  if isWitness d f && (witnessesOf d f).contains src then
    let vote := fun (d : Dev) (g : Option Change) (flags : Nat) =>
      let g := g.getD { change := 0, subject := 0, epoch := c.epoch }
      sendVc0 d src (mbBody 0x43 g.change f c.epoch g.subject 0 (g.flags + flags) [])
    if c.epoch ≤ x.epoch then
      let d := vote d none 0
      match x.recent.find? fun r => mbEpoch r.1 == c.epoch with
      | some (u, _) => sendVc0 d src u
      | none => d
    else if c.epoch ≠ x.epoch + 1 then vote d none 0
    else
      match x.grant with
      | some (g, _) => vote d (some g) 0
      | none =>
        if changeValid d f c then
          vote (d.onDomain f fun x => { x with grant := some (c, d.now) }) (some c) 0x10
        else vote d none 0
  else d

/-- Handle a VOTE (R355). -/
def voteOp (d : Dev) (src : Nat) (b : Bytes) : Dev :=
  let f := mbDomain b
  let x := d.domain f
  if !(isWitness d f) || !((witnessesOf d f).contains src) then d
  else if bitOf (mbFlags b) 5 then
    match x.proposal with
    | some p =>
      if p.committed ∧ p.change.epoch = mbEpoch b then
        let a := if p.applied.contains src then p.applied else p.applied ++ [src]
        let now_ := decide (majority d f ≤ a.length) && !p.flooded
        let d := d.onDomain f fun x =>
          { x with proposal := some { p with applied := a, flooded := p.flooded || now_ } }
        if now_ then floodUpdate d f p.change d.regs.nodeId else d
      else d
    | none => d
  else if mbEpoch b = x.epoch + 1 ∧ mbChange b ≠ 0 then noteVote d f src (mbChange b) (mbSubject b)
  else d

/-! ### Updates and pulls (R348, R350) -/

/-- A snapshot's entries gather; the message with fewer than 32 entries ends it (DEDUCED, notes/assumptions/40.md). -/
def snapshotOp (d : Dev) (f : Nat) (b : Bytes) : Dev :=
  let e := mbEpoch b
  if e ≤ (d.domain f).epoch then d
  else
    let had := match (d.domain f).snapshot with | some (e', l) => if e' = e then l else [] | none => []
    let l := had ++ mbList b
    if (mbList b).length = 32 then d.onDomain f fun x => { x with snapshot := some (e, l) }
    else
      let listed := fun (x : Nat × Nat × Nat) =>
        ({ live := true, probation := bitOf x.2.1 0, admission := x.2.2, domain := f, endpoint := bitOf x.2.1 1 } : Member)
      let was := match d.member d.regs.nodeId with | some m => m.live && m.probation | none => false
      let gone := (d.mbr.view.filter fun p => p.2.domain == f && p.2.live && !(l.any (·.1 == p.1))).map (·.1)
      let d := d.onMbr fun m =>
        { m with view := l.foldl (fun v x => tins v x.1 (listed x)) (m.view.filter fun p => p.2.domain != f) }
      let fresh : Report := { at_ := d.now, epoch := e, health := 1000, flags := 0, neighbours := [] }
      let reports := l.foldl (fun t y => if (tfind t y.1).isSome then t else tins t y.1 fresh) (d.domain f).reports
      let d := d.onDomain f fun x =>
        { x with epoch := e, recent := [], snapshot := none, grant := none, proposal := none, votes := [], warranted := [],
                 reports := reports }
      let d := l.foldl (fun d x => checkDeclared d x.1) d
      let d := (gone.filter (· != d.regs.nodeId)).foldl dropPeer d
      if gone.contains d.regs.nodeId then leaveFabric d 2
      else
        match l.find? (·.1 == d.regs.nodeId) with
        | some x =>
          let d := if bitOf x.2.1 0 == was then d else mbrEvent d f (if was then 6 else 5) x.1 e
          if !d.mbr.entering.isEmpty || d.mbr.joining then admitted d x.2.2 else d
        | none => d

/-- Handle a MEMBER_UPDATE (R348, R355 step 3). -/
def updateOp (d : Dev) (src : Nat) (b : Bytes) : Dev :=
  let f := mbDomain b
  let c := changeOf b
  let x := d.domain f
  let witnessed := isWitness d f && (witnessesOf d f).contains src
  let applied := fun (d : Dev) => sendVc0 d src (mbBody 0x43 c.change f c.epoch c.subject 0 (c.flags + 0x20) [])
  if c.change = 0 then snapshotOp d f b
  else if c.epoch = x.epoch + 1 then
    let d := applyChange d f c
    if witnessed then applied d else floodUpdate d f c src
  else if x.epoch + 1 < c.epoch then sendPull d src f
  else if witnessed && c.epoch == x.epoch then applied d
  else d

/-- The updates of a domain that follow an epoch, if this node holds them. -/
def updatesAfter (d : Dev) (f e : Nat) : Option (List Bytes) :=
  let x := d.domain f
  let fresh := (x.recent.filter fun r => decide (d.now < r.2 + 60000000000)).map (·.1)
  let want := (List.range (x.epoch - e)).map fun i => fresh.find? fun b => mbEpoch b == e + 1 + i
  if want.all (·.isSome) then some (want.filterMap id) else none

/-- SNAPSHOT messages of a domain: 32 members to a message. -/
def snapshotBodies (f epoch : Nat) : Nat → List (Nat × Nat × Nat) → List Bytes
  | 0, _ => []
  | n + 1, l => mbBody 0x44 0 f epoch 0 0 0 (l.take 32) :: (if 32 ≤ l.length then snapshotBodies f epoch n (l.drop 32) else [])

/-- A MEMBER_PULL goes on to another member as it came, under the route header of its sender (R350). -/
def passPull (d : Dev) (dest : Nat) (bytes : Bytes) : Dev :=
  pushMsg d 0 0 1 (toLe 4 (dest % 2 ^ 20) ++ bytes.drop 4) none

/-- Handle a MEMBER_PULL (R350): its sender gets updates or a snapshot, or the pull goes on to a witness. -/
def pullOp (d : Dev) (bytes : Bytes) : Dev :=
  let b := msgBody bytes
  let f := mbDomain b
  let to_ := msgSrc bytes
  if (d.domain f).epoch ≤ mbEpoch b then d
  else
    match updatesAfter d f (mbEpoch b) with
    | some us => us.foldl (fun d u => sendVc0 d to_ u) d
    | none =>
      if isWitness d f then
        let l := (d.mbr.view.filter fun p => p.2.live && p.2.domain == f).map fun p =>
          (p.1, b2n p.2.probation + 2 * b2n p.2.endpoint, p.2.admission)
        (snapshotBodies f (d.domain f).epoch (l.length / 32 + 1) l).foldl (fun d u => sendVc0 d to_ u) d
      else
        match (voters d f).head? with
        | some w => passPull d w bytes
        | none => d

/-! ### Reports (R351, R357 to R362) -/

/-- The shards of an object that name this node as primary or mirror. -/
def ownShards (d : Dev) : List (Nat × Nat × Shard) :=
  d.obj.objs.flatMap fun o => (o.2.shards.filter fun p =>
    p.2.primary == some d.regs.nodeId || p.2.mirror == some d.regs.nodeId).map fun p => (o.1, p.1, p.2)

/-- LAST_REPLICA (R361). -/
def isLastReplica (d : Dev) : Bool :=
  (ownShards d).any fun s => match otherReplica d.regs.nodeId s.2.2 with | some n => !(d.live n) | none => true

/-- This node is on probation. -/
def onProbation (d : Dev) : Bool := match d.member d.regs.nodeId with | some m => m.probation | none => false

/-- The fields of the own STATUS_REPORT. -/
def reportFields (d : Dev) : Bytes :=
  let flags := b2n (onProbation d) + 2 * b2n (isLastReplica d) + 4 * b2n d.mbr.healthLow +
    64 * b2n (d.mbr.drain.step == 4 || d.mbr.drain.step == 5)
  mbBody 0x40 0 d.mbr.domain (nodeEpoch d) d.regs.nodeId d.mbr.score flags (((neighbours d).take 32).map fun n => (n, 0, 0))

/-- A witness acts on a member's report (R351, R360, Table 13-3). -/
def reportOp (d : Dev) (src : Nat) (b : Bytes) : Dev :=
  let f := mbDomain b
  match d.member src with
  | none => d
  | some m =>
    if isWitness d f && m.live && m.domain == f then
      let r : Report := { at_ := d.now, epoch := mbEpoch b, health := mbHealth b, flags := mbFlags b, neighbours := (mbList b).map (·.1) }
      let d := d.onDomain f fun x => { x with reports := tins x.reports src r }
      let c := fun (k : Nat) => ({ change := k, subject := src, epoch := 0 } : Change)
      if bitOf r.flags 6 then warrant d f (c 7)
      else if bitOf r.flags 2 then
        let d := if frozen d f then blockStart d 7 src 0 else blockEnd d 7 src 0
        if bitOf r.flags 1 || budgetUsed d f then (if m.probation then d else warrant d f (c 5)) else warrant d f (c 3)
      else if m.probation then warrant d f (c 6)
      else blockEnd d 7 src 0
    else d

/-- Sum of a list's entries within a window. -/
def within (now n : Nat) (l : List Nat) : Nat := (l.filter fun t => decide (now < t + n)).length

/-- Penalties of Table 13-4. -/
def penalties (d : Dev) : Nat :=
  let m := d.mbr
  let hot := ((List.range 32).map d.temp).foldl max (-1000)
  let strag := ((m.compositions.map (·.1)).map fun c => match straggler d c with
    | some (s, k) => if 3 * k < 2 * s then min 200 ((400 * s - 600 * k) / (2 * k)) else 0
    | none => 0).foldl max 0
  min 150 (within d.now 6000000000 m.corrected / 10) + min 300 (50 * within d.now 60000000000 m.uncorrectable) +
    min 200 (20 * within d.now 6000000000 m.retrains) + min 100 (5 * within d.now 6000000000 m.scrubs) +
    min 400 (100 * within d.now 60000000000 m.shadows) +
    (if 95 < hot then min 200 (10 * (hot - 95).toNat) else 0) +
    (if d.lp.temp.any fun p => decide (95 < p.2) then 50 else 0) +
    min 450 (150 * within d.now 360000000000 m.dieLosses) + strag

/-- HEALTH_LOW as it is to be; a change is recorded in the CXL warning log (R358, Table 16-6). -/
def setHealthLow (d : Dev) (low : Bool) : Dev :=
  if d.mbr.healthLow = low then d
  else cxlWarn (d.onMbr fun m => { m with healthLow := low }) { kind := 2, dpa := 0, type := 0, transaction := 0, detail := [d.mbr.score] }

/-- HEALTH_SCORE_UPDATE's effect (R357, R358). -/
def scoreOp (d : Dev) : Dev :=
  let score := 1000 - penalties d
  let t := d.mbr.threshold
  let low := if t = 0 then false
    else if score ≤ t then true
    else if min (t + 100) 1000 ≤ score then false
    else d.mbr.healthLow
  setHealthLow (d.onMbr fun m => { m with score := score, scoreAt := d.now }) low

end Sys2Proof.Machine
end

