-- ==== Sys2Proof/Machine/HomeOps.lean ====
section
/-! DEFINITION. Home records, role changes, tail handover and shadowing as operations (spec 13). -/

namespace Sys2Proof.Machine

/-! ### Records as bytes (Tables 13-5 and 13-6) -/

/-- A node field with its VALID bit 31. -/
def nodeField (n : Option Nat) : Nat := match n with | some x => x + 2 ^ 31 | none => 0

/-- The node a field with a VALID bit 31 names. -/
def fieldNode (v : Nat) : Option Nat := if bitOf v 31 then some (v % 2 ^ 20) else none

def shardBytes (s : Shard) : Bytes :=
  toLe 4 s.first ++ toLe 4 (if s.isOpen then 2 ^ 31 else s.last) ++ toLe 4 (nodeField s.primary) ++
    toLe 4 (nodeField s.mirror) ++ toLe 4 (nodeField s.shadow + 2 ^ 30 * b2n s.fromMirror) ++ toLe 4 s.epoch ++
    toLe 4 (nodeField s.tail) ++ toLe 4 (nodeField s.handover) ++ toLe 1 s.state ++ zeros 7

def readShard (b : Bytes) : Shard :=
  { first := fld b 0 4 % 2 ^ 18, last := fld b 4 4 % 2 ^ 18, isOpen := bitOf (fld b 4 4) 31, primary := fieldNode (fld b 8 4),
    mirror := fieldNode (fld b 0xC 4), shadow := fieldNode (fld b 0x10 4), fromMirror := bitOf (fld b 0x10 4) 30,
    epoch := fld b 0x14 4, tail := fieldNode (fld b 0x18 4), handover := fieldNode (fld b 0x1C 4), state := fld b 0x20 1 }

def recordHeader (h : HomeRec) : Bytes :=
  toLe 2 h.tenant ++ toLe 2 h.shards.length ++ toLe 4 h.object ++ toLe 4 h.home ++ toLe 4 (nodeField h.mirror) ++
    toLe 4 h.epoch ++ toLe 1 h.format ++ toLe 1 h.tCode ++ toLe 1 h.hkv ++ toLe 1 h.dCode ++ toLe 2 h.layers ++
    toLe 4 h.composition ++ zeros 2

/-- A record header with its SHARD_COUNT empty shards. -/
def readRecord (b : Bytes) : HomeRec :=
  { tenant := fld b 0 2, object := fld b 4 4, format := fld b 0x14 1, tCode := fld b 0x15 1, hkv := fld b 0x16 1,
    dCode := fld b 0x17 1, layers := fld b 0x18 2, composition := fld b 0x1A 4, home := fld b 8 4 % 2 ^ 20,
    mirror := fieldNode (fld b 0xC 4), epoch := fld b 0x10 4, shards := List.replicate (fld b 2 2) {}, isHome := false }

/-- A whole record: its header and its shard records. -/
def readWhole (b : Bytes) : HomeRec :=
  let h := readRecord b
  { h with shards := (List.range (fld b 2 2)).map fun n => readShard (cut b (32 + 40 * n) 40) }

def recordBytes (h : HomeRec) : Bytes := recordHeader h ++ h.shards.flatMap shardBytes

/-- The node knows an object, by its pages or by its record. -/
def knowsObj (d : Dev) (obj : Nat) : Bool := (d.objAt obj).isSome || (tfind d.mbr.homes obj).isSome

/-- The checks of an object command on the object it names at an offset (R31, section Objects of spec 15). -/
def objIdChecks (d : Dev) (desc : Bytes) (off : Nat) : List (Bool × (Nat × Nat)) :=
  let tenant := fld desc 8 2
  let id := fld desc off 4
  let others := (d.obj.objs.map (·.1)) ++ d.mbr.homes.map (·.1)
  [(id != 0, (St.fieldInvalid, off)),
   (knowsObj d (mkObj tenant id) || !(others.any fun o => objId o == id), (St.tenantMismatch, 8))]

/-! ### The record at the home -/

def Dev.home (d : Dev) (obj : Nat) : Option HomeRec := tfind d.mbr.homes obj

def Dev.onHome (d : Dev) (obj : Nat) (f : HomeRec → HomeRec) : Dev :=
  d.onMbr fun m => { m with homes := tupd m.homes obj f }

def HomeRec.shard (h : HomeRec) (n : Nat) : Shard := h.shards.getD n {}

/-- The nodes a shard record names. -/
def namedIn (s : Shard) : List Nat := s.primary.toList ++ s.mirror.toList ++ s.shadow.toList

/-- The REQUEST_ID of a SHARD_UPDATE: it names the shard. -/
def updateTag (n : Nat) : Nat := 0xF0000000 + n

/-- SHARD_UPDATE of a shard to nodes; each answer is waited for. -/
def sendUpdate (d : Dev) (obj n : Nat) (nodes : List Nat) : Dev :=
  match d.home obj with
  | none => d
  | some h =>
    let s := h.shard n
    let body := recMsg 0x52 0 obj (updateTag n) n 0 s.epoch 0 (recordHeader h ++ shardBytes s)
    let d := nodes.foldl (fun d x => sendRec d x 2 3 body) d
    d.onHome obj fun h =>
      { h with unacked := (h.unacked ++ nodes.map fun x => (x, n)).eraseDups, sentAt := d.now }

/-- The home mirror that a change is written to before the replicas hear of it (R366, R367). -/
def mirrorOf (d : Dev) (h : HomeRec) : Option Nat :=
  match h.mirror with
  | some m => if d.live m && m != d.regs.nodeId then some m else none
  | none => none

/-- Write a shard's change: to the home mirror first, then to every node named (R366 steps 2 and 3). -/
def announce (d : Dev) (obj : Nat) (p : Nat × List Nat) : Dev :=
  match d.home obj with
  | none => d
  | some h =>
    match mirrorOf d h with
    | some m =>
      let d := d.onHome obj fun h =>
        { h with waiting := (h.waiting.filter (·.1 != p.1)) ++
            [(p.1, ((h.waiting.filter (·.1 == p.1)).flatMap (·.2) ++ p.2).eraseDups.filter (· != m))] }
      sendUpdate d obj p.1 [m]
    | none => sendUpdate d obj p.1 p.2

/-- The source of a shadowing (Table 13-11). -/
def shadowSource (s : Shard) : Option Nat := if s.fromMirror then s.mirror else s.primary

/-- A shadowing cannot go on: its source is not LIVE or has withdrawn (Table 16-8 kind 6). -/
def shadowBlocked (d : Dev) (s : Shard) : Bool :=
  s.shadow.isSome && match shadowSource s with
    | some n => n != d.regs.nodeId && !(d.live n)
    | none => true

/-- R447, Table 16-8 kind 6: a home finds that a shadowing of its object is blocked, or no longer is. -/
def sourceCheck (d : Dev) (obj : Nat) : Dev :=
  match d.home obj with
  | none => d
  | some h =>
    if h.isHome && h.shards.any (shadowBlocked d) then blockStart d 6 (objId obj) (objTenant obj) else blockEnd d 6 (objId obj) (objTenant obj)

/-- Make one change to a record (R366): RECORD_EPOCH advances, and with `bump` the epoch of each changed shard. -/
def homeChange (d : Dev) (obj : Nat) (shards : List Shard) (changed : List Nat) (bump : Bool) : Dev :=
  match d.home obj with
  | none => d
  | some h =>
    let new := (List.range shards.length).map fun n =>
      let s := shards.getD n {}
      if changed.contains n && bump then { s with epoch := m32 (s.epoch + 1) } else s
    let tell := changed.map fun n => (n, (namedIn (h.shard n) ++ namedIn (new.getD n {})).eraseDups)
    let d := d.onHome obj fun h => { h with shards := new, epoch := m32 (h.epoch + 1) }
    sourceCheck (tell.foldl (fun d p => announce d obj p) d) obj

/-- Commands that wait for a record's acknowledgements complete (R430, R434). -/
def homeSettle (d : Dev) (obj : Nat) : Dev :=
  match d.home obj with
  | none => d
  | some h =>
    let busy := fun (n : Nat) => h.unacked.any (·.2 == n) || h.waiting.any (·.1 == n)
    let d := match h.creating with
      | some (ring, index) =>
        if h.unacked.isEmpty && h.waiting.isEmpty then
          (cmdDone d ring index h.badStatus h.epoch).onHome obj fun h => { h with creating := none, badStatus := 0 }
        else d
      | none => d
    h.shadowing.foldl (fun d w =>
      match w.2.2.2 with
      | some (ring, index) =>
        if busy w.1 then d
        else (cmdDone d ring index St.ok (h.shard w.1).epoch).onHome obj fun h =>
          { h with shadowing := modWhere (·.1 == w.1) (fun x => (x.1, x.2.1, x.2.2.1, none)) h.shadowing }
      | none => d) d

/-- Table 13-9: the roles of a shard once some of its nodes are lost or withdrawn. The survivor owns the tail. -/
def loseRoles (gone : Nat → Bool) (s : Shard) : Shard :=
  let out := fun (n : Option Nat) => match n with | some x => gone x | none => false
  let s := if out s.shadow then { s with shadow := none, fromMirror := false } else s
  if !(out s.primary) && !(out s.mirror) then s
  else
    let left := if out s.primary then s.mirror else s.primary
    match left with
    | none => { s with primary := none, mirror := none, tail := none, handover := none, state := 2 }
    | some p =>
      if gone p then { s with primary := none, mirror := none, tail := none, handover := none, state := 2 }
      else { s with primary := some p, mirror := none, tail := if s.isOpen then some p else none, handover := none, state := 1 }

/-- The home takes nodes out of a record's shards, all in one change (R369). -/
def loseNodes (d : Dev) (obj : Nat) (only : Option Nat) (gone : Nat → Bool) : Dev :=
  match d.home obj with
  | none => d
  | some h =>
    let new := (List.range h.shards.length).map fun n =>
      if only.isNone || only == some n then loseRoles gone (h.shard n) else h.shard n
    let changed := (List.range h.shards.length).filter fun n => new.getD n {} != h.shard n
    if changed.isEmpty then d
    else
      let d := d.onHome obj fun h =>
        { h with handovers := h.handovers.filter fun p => (new.getD p.1 {}).handover.isSome,
                 shadowing := h.shadowing.filter fun p => (new.getD p.1 {}).shadow.isSome }
      homeChange d obj new changed true

/-- SHARD_ACK in answer to a record message. -/
def shardAckMsg (m : Inb) (status epoch : Nat) : Bytes :=
  let b := msgBody m.bytes
  recMsg 0x53 status (rmObj b) (rmTag b) (rmShard b) 0 epoch 0 []

def ackShard (d : Dev) (m : Inb) (status : Nat) : Dev :=
  let b := msgBody m.bytes
  let epoch := match (d.objAt (rmObj b)).bind fun o => tfind o.shards (rmShard b) with | some s => s.epoch | none => rmEpoch b
  reply d m 1 2 (shardAckMsg m status epoch)

/-! ### Taking over (R367, R374) -/

/-- The lengths of a layer in a resent offer: this node's when it holds the shard. -/
def offerLens (k : Chip) (obj layers : Nat) (held : Bool) : Nat → Bytes × Dev
  | 0 => ([], k.dev)
  | n + 1 =>
    let r := offerLens k obj layers held n
    match k.dev.objAt obj, held with
    | some o, true => (r.1 ++ toLe 4 (layerLength k obj o.geom n), r.2)
    | _, _ =>
      let q := r.2.draw
      (r.1 ++ toLe 4 (Config.offerLength q.1).toNat, q.2)

/-- The offer to the receiver of a handover that the record shows in progress. -/
def sendOffer (d : Dev) (obj n : Nat) : Dev :=
  match d.home obj with
  | none => d
  | some h =>
    match (h.shard n).handover with
    | none => d
    | some r =>
      let (tag, d) := freshTag d
      sendRec d r 2 3 (recMsg 0x54 0 obj tag n 0 (h.shard n).epoch r (tget [] h.offers n))

/-- A handover shown in progress begins again: its timeout counts from the resend. -/
def resumeHandover (k : Chip) (obj : Nat) (d : Dev) (n : Nat) : Dev :=
  match d.home obj with
  | none => d
  | some h =>
    let s := h.shard n
    let held := match d.objAt obj with | some o => (tfind o.shards n).isSome && tailsRead d obj o.layers | none => false
    let r := offerLens ⟨d, k.mem⟩ obj h.layers held h.layers
    let d := r.2.onHome obj fun h =>
      { h with handovers := h.handovers ++ [(n, s.tail.getD 0, s.epoch, d.now)], offers := tins h.offers n r.1 }
    sendOffer d obj n

/-- The home mirror becomes home (R367): no home mirror, a new RECORD_EPOCH, handovers in progress go on. -/
def takeOver (k : Chip) (obj : Nat) : Dev :=
  let d := k.dev
  let d := d.onHome obj fun h =>
    { h with isHome := true, home := d.regs.nodeId, mirror := none, epoch := m32 (h.epoch + 1) }
  let d := d.onObjAt obj fun o => { o with home := d.regs.nodeId, homeMirror := none, recordEpoch := m32 (o.recordEpoch + 1) }
  match d.home obj with
  | none => d
  | some h =>
    ((List.range h.shards.length).filter fun n => (h.shard n).handover.isSome).foldl (fun d n => resumeHandover k obj d n) d

/-! ### A replica applies a record (R366, R372, R375) -/

/-- The owner's appends of a shard whose record has changed (R129): NOT_OWNER when it no longer names this node as tail owner;
SINGLE_REPLICA when it no longer lists the mirror that is waited for. -/
def remirror (d : Dev) (obj n : Nat) (s : Shard) : Dev :=
  (d.attn.acks.filter fun a => a.tenantObject == obj && a.shard == n).foldl (fun d a =>
    if s.tail ≠ some d.regs.nodeId then
      ackAppend (d.onAttn fun x => { x with acks := dropWhere (·.id == a.id) x.acks }) (msgBody a.bytes) a.conn a.sub
        (msgTenant a.bytes) St.notOwner a.flags
    else if otherReplica d.regs.nodeId s = some a.mirror then d
    else ackOwner d a 2) d

def shardPages (d : Dev) (obj : Nat) (s : Shard) : List Nat :=
  (pagesOf d obj).filter fun k => decide (s.first ≤ keyPage k) && (s.isOpen || decide (keyPage k ≤ s.last))

/-- An unsolicited PAGE_IMAGE to a shadow (Table 13-11 step 2). -/
def sendImage (d : Dev) (to_ key : Nat) (growing : Bool) (img : Bytes) : Dev :=
  match keyShard d key with
  | none => d
  | some (n, s) => sendRec d to_ 3 5 (recMsg 0x5A 0 (keyObj key) 0 n (2 * b2n growing) s.epoch 0 (keyBytes key ++ img))

/-- Send a page that lies in tier 1; a page that cannot be read becomes SUSPECT and is not sent. -/
def sendTier1 (k : Chip) (d : Dev) (to_ key : Nat) : Dev :=
  let own := d.ownerKey key
  let e := d.entry own
  let g := keyGeom ⟨d, k.mem⟩ own e.run
  match entryBad ⟨d, k.mem⟩ e g with
  | x :: xs => suspectPage (badFound d (x :: xs) 2 (keyTenant own) St.uncorrectable) own false
  | [] =>
    let img := readEntry ⟨d, k.mem⟩ e
    if e.grows then sendImage d to_ key true (img.take g.growing)
    else
      match pageImageCheck img img.length own g with
      | .ok _ => sendImage (verified d own (storedPart img).length) to_ key false (storedPart img)
      | .error c => suspectPage (formatFault d own c) own false

/-- Send sealed pages in order until one has to be read from tier 2. -/
def shadowPump (k : Chip) (key : Nat) : Nat → Dev → Dev
  | 0, d => d
  | f + 1, d =>
    match tfind d.mbr.shadowings key with
    | none => d
    | some w =>
      match w.toSend with
      | [] => d
      | p :: _ =>
        let drop := fun (d : Dev) => d.onMbr fun m => { m with shadowings := tupd m.shadowings key fun w => { w with toSend := w.toSend.drop 1 } }
        let e := d.ownerEntry p
        if e.state ≠ .sealed then shadowPump k key f (drop d)
        else if e.tier = 1 then shadowPump k key f (drop (sendTier1 k d w.shadow p))
        else
          match copyFor d (d.ownerKey p) with
          | some c =>
            shadowPump k key f (drop (sendImage d w.shadow p false (storedPart (readTier1 ⟨d, k.mem⟩ (4096 * c.frame) (4096 * c.count)))))
          | none =>
            if tier2Up d && uioRoom d e.count && !(d.obj.uioReads.any fun r => r.use == .shadow key p) then
              uioRead d 5 (.shadow key p) e.frame e.count
            else d

/-- SAMPLE and MATCHES of a shadowing: as the shadow command gave them when this node is the home, otherwise the
defaults (DEDUCED, notes/assumptions/44.md). -/
def shadowTerms (d : Dev) (obj n : Nat) : Nat × Nat :=
  match (d.home obj).bind fun h => h.shadowing.find? (·.1 == n) with
  | some w => (w.2.1, w.2.2.1)
  | none => (16, 10000)

/-- Start, keep or end this node's side of a shadowing as primary or source. -/
def shadowSide (k : Chip) (d : Dev) (obj n : Nat) (s : Shard) : Dev :=
  let self := d.regs.nodeId
  let key := obj * 256 + n
  let old := tfind d.mbr.shadowings key
  let stop := fun (d : Dev) =>
    let d := d.onMbr fun m => { m with shadowings := tdel m.shadowings key }
    d.onAttn fun x => { x with own := dropWhere (fun o => o.object == obj && o.shard == n) x.own }
  match s.shadow with
  | none => if old.isSome then stop d else d
  | some x =>
    let source := shadowSource s == some self
    if (match old with | some w => w.shadow == x | none => false) then d
    else if source || s.primary == some self then
      let d := stop d
      let t := shadowTerms d obj n
      let pages := if source then shardPages d obj s else []
      let grow := if s.isOpen then pages.filter fun p => (d.entry p).state == .growing else []
      let whole := pages.filter fun p => (d.ownerEntry p).state == .sealed
      let d := grow.foldl (fun d p => sendTier1 k d x p) d
      let w : Shadowing := { shadow := x, sample := t.1, matchesWanted := t.2, toSend := whole }
      let d := d.onMbr fun m => { m with shadowings := tins m.shadowings key w }
      shadowPump k key (whole.length + 1) d
    else if old.isSome then stop d else d

/-- A failed recovery starts again at once when the shard has a new other replica (R49). -/
def retryRecoveries (d : Dev) (obj : Nat) (s : Shard) : Dev :=
  ((d.obj.recoveries.filter fun p => keyObj p.1 == obj && !p.2.active && decide (s.first ≤ keyPage p.1) &&
      (s.isOpen || decide (keyPage p.1 ≤ s.last))).map fun p => (p.1, p.2.copyBack)).foldl
    (fun d p => startRecovery d p.1 p.2) d

/-- Offer a shard's tail to the other replica: new appends are held from here on (Table 13-10 step 1). -/
def offerTail (k : Chip) (d : Dev) (obj n : Nat) : Dev :=
  match d.objAt obj with
  | none => d
  | some o =>
    if o.offering.any (·.1 == n) then d
    else offerCheck ⟨d.onObjAt obj fun o => { o with offering := o.offering ++ [(n, false)] }, k.mem⟩ obj n

/-- An offer that was sent has ended with the tail still here (Table 13-10 step 6, R373): held appends are released. -/
def offerEnds (d : Dev) (obj n : Nat) : Dev :=
  d.onObjAt obj fun o =>
    { o with offering := dropWhere (· == (n, true)) o.offering
             reverts := if o.offering.contains (n, true) then (n, d.now) :: dropWhere (·.1 == n) o.reverts else o.reverts }

/-- Offers that have ended with the tail still here are made again after the guard of R373 (Table 17-7 step 2). -/
def revertedAgain (k : Chip) (d : Dev) : Dev :=
  (ownShards d).foldl (fun d p =>
    let due := match d.objAt p.1 with
      | some o => (o.reverts.any fun r => r.1 == p.2.1 && d.due r.2 100000) && !(o.offering.any (·.1 == p.2.1))
      | none => false
    if p.2.2.state == 0 && p.2.2.tail == some d.regs.nodeId && due then offerTail k d p.1 p.2.1 else d) d

/-- Move this node's roles in a PAIRED shard to the other replica (R362, Table 17-7). -/
def moveRoles (k : Chip) (d : Dev) (obj n : Nat) (s : Shard) : Dev :=
  let self := d.regs.nodeId
  if s.state ≠ 0 then d
  else
    let d := if s.tail = some self then offerTail k d obj n else d
    if s.primary = some self then withdrawShard d obj n true else d

/-- This node leaves a shard: its pages of it go (Table 13-11 step 8, R377). -/
def leaveShard (d : Dev) (obj n : Nat) (s : Shard) : Dev :=
  let d := (shardPages d obj s).foldl removePage d
  let d := d.onObjAt obj fun o => { o with shards := tdel o.shards n, offering := dropWhere (·.1 == n) o.offering }
  match d.objAt obj with
  | some o => if o.shards.isEmpty then dropObject d obj else d
  | none => d

/-- Whether roles are to be handed on: on probation (R362) or in a drain (Table 17-7). -/
def handingOn (d : Dev) : Bool := onProbation d || (decide (1 ≤ d.mbr.drain.step) && decide (d.mbr.drain.step ≤ 4))

/-- Apply a shard record to an object that the node holds. -/
def applyShard (k : Chip) (d : Dev) (obj n : Nat) (h : HomeRec) (s : Shard) : Dev :=
  let self := d.regs.nodeId
  let old := ((d.objAt obj).bind fun o => tfind o.shards n).getD {}
  let d := d.onObjAt obj fun o =>
    { o with home := h.home, homeMirror := h.mirror, recordEpoch := h.epoch, shards := tins o.shards n s,
             offering := dropWhere (·.1 == n) o.offering }
  let d := remirror d obj n s
  if holdsRole self s then
    let d := shadowSide k d obj n s
    let d := if otherReplica self s != otherReplica self old && (otherReplica self s).isSome then retryRecoveries d obj s else d
    if handingOn d then moveRoles k d obj n s else d
  else leaveShard (shadowSide k d obj n { s with shadow := none }) obj n old

/-- Move this node's roles in every PAIRED shard to the other replica. -/
def moveAllRoles (k : Chip) (d : Dev) : Dev := (ownShards d).foldl (fun d p => moveRoles k d p.1 p.2.1 p.2.2) d

/-- A new object of a record, with no pages (R430, R156). -/
def newObj (h : HomeRec) : Obj :=
  { format := h.format, tCode := h.tCode, hkv := h.hkv, dCode := h.dCode, layers := h.layers, composition := h.composition,
    home := h.home, homeMirror := h.mirror, recordEpoch := h.epoch }

/-- The reserved bits of a record's header are 0 (Table 13-5). -/
def headReserved (b : Bytes) : Bool :=
  decide (fld b 8 4 < 2 ^ 20) && fld b 0xC 4 / 2 ^ 20 % 2 ^ 11 == 0 && fld b 0x1E 2 == 0

/-- The reserved bits and codes of a shard record (Table 13-6). -/
def shardReserved (r : Bytes) : Bool :=
  decide (fld r 0 4 < 2 ^ 18) && fld r 4 4 / 2 ^ 18 % 2 ^ 13 == 0 && fld r 8 4 / 2 ^ 20 % 2 ^ 11 == 0 &&
    fld r 0xC 4 / 2 ^ 20 % 2 ^ 11 == 0 && fld r 0x10 4 / 2 ^ 20 % 2 ^ 10 == 0 && fld r 0x18 4 / 2 ^ 20 % 2 ^ 11 == 0 &&
    fld r 0x1C 4 / 2 ^ 20 % 2 ^ 11 == 0 && decide (fld r 0x20 1 < 3) && allZero (r.drop 0x21)

/-- The reserved bits of a whole record are 0. -/
def recordReserved (b : Bytes) : Bool :=
  headReserved b && (List.range (fld b 2 2)).all fun n => shardReserved (cut b (32 + 40 * n) 40)

/-- The shards lie in order without gaps, on page groups, the last one and only it open (R365). -/
def shardsInOrder (g : Geom) (ss : List Shard) : Bool :=
  (List.range ss.length).all fun n =>
    let s := ss.getD n {}
    let last := n + 1 == ss.length
    s.first == (if n = 0 then 0 else (ss.getD (n - 1) {}).last + 1) && s.first % 16 == 0 && s.isOpen == last &&
      (if last then s.last == 0 else decide (s.first ≤ s.last) && s.last % 16 == 15) && decide (s.first < g.pages)

/-- One shard record as R82 and R365 have it: its boundaries lie on page groups, its nodes are distinct, and the mirror's and
the shadow's failure domains differ from the primary's, where the view names them. -/
def shardOk (d : Dev) (g : Geom) (s : Shard) : Bool :=
  let nodes := namedIn s
  let apart := fun (n : Option Nat) =>
    match n.bind d.member, s.primary.bind d.member with
    | some a, some b => a.domain != b.domain
    | _, _ => true
  s.first % 16 == 0 && decide (s.first < g.pages) &&
    (if s.isOpen then s.last == 0 else decide (s.first ≤ s.last) && s.last % 16 == 15) &&
    nodes.eraseDups.length == nodes.length && apart s.mirror && apart s.shadow

/-- The checks of a record that arrives in a message (R7, R8, R30, R31, R82, R365); the status of the first that fails. -/
def carriedBad (d : Dev) (obj : Nat) (b : Bytes) (n : Nat) (shards : List Bytes) : Option Nat :=
  let h := readRecord b
  let g : Geom := ⟨h.format, h.tCode, h.hkv, h.dCode⟩
  firstFail
    ([(headReserved b && shards.all shardReserved, St.fieldInvalid), (fld b 2 2 != 0xFFFF, St.lengthInvalid),
      (mkObj h.tenant h.object == obj, St.fieldInvalid),
      (decide (1 ≤ fld b 2 2 ∧ fld b 2 2 ≤ 64 ∧ n < fld b 2 2), St.fieldInvalid)] ++
     (match geomCheck h.format h.tCode h.hkv h.dCode h.layers with | some st => [(false, st)] | none => []) ++
     [(shards.all fun r => shardOk d g (readShard r), St.fieldInvalid)])

/-- Take a shard record as replica or shadow: the status of its acknowledgement, and the node after it. -/
def takeShard (k : Chip) (d : Dev) (obj n : Nat) (h : HomeRec) (s : Shard) : Nat × Dev :=
  match d.objAt obj with
  | none =>
    if holdsRole d.regs.nodeId s then
      if (compIndex d h.composition).isNone then (St.fieldInvalid, d)
      else
        let d := d.onObj fun x => { x with objs := tins x.objs obj (newObj h) }
        (St.ok, applyShard k d obj n h s)
    else (St.ok, d)
  | some o =>
    let unbound := holdsRole d.regs.nodeId s && (compIndex d h.composition).isNone
    match tfind o.shards n with
    | some t =>
      if t.epoch < s.epoch then if unbound then (St.fieldInvalid, d) else (St.ok, applyShard k d obj n h s)
      else (St.ok, offerEnds d obj n)
    | none =>
      if unbound then (St.fieldInvalid, d)
      else if holdsRole d.regs.nodeId s then (St.ok, applyShard k d obj n h s) else (St.ok, d)

/-- The home mirror keeps the record. -/
def takeMirror (d : Dev) (obj n : Nat) (h : HomeRec) (s : Shard) : Dev :=
  if h.mirror = some d.regs.nodeId ∧ h.home ≠ d.regs.nodeId then
    let kept := match d.home obj with | some r => r.shards | none => []
    let all := (List.range h.shards.length).map fun i => if i = n then s else kept.getD i {}
    d.onMbr fun m => { m with homes := tins m.homes obj { h with shards := all } }
  else
    match d.home obj with
    | some r => if r.isHome then d else d.onMbr fun m => { m with homes := tdel m.homes obj }
    | none => d

/-- Handle a SHARD_UPDATE (R366). -/
def shardUpdateOp (k : Chip) (m : Inb) : Dev :=
  let d := k.dev
  let b := msgBody m.bytes
  let p := rmPayload b
  let h := readRecord p
  let s := readShard (p.drop 32)
  if m.stale then ackShard d m St.epochStale
  else if let some st := recHeadBad m.bytes then ackShard d m st
  else if let some st := carriedBad d (rmObj b) p (rmShard b) [p.drop 32] then ackShard d m st
  else
    let r := takeShard k (takeMirror d (rmObj b) (rmShard b) h s) (rmObj b) (rmShard b) h s
    reply r.2 m 1 2 (shardAckMsg m r.1 s.epoch)

/-! ### Answers at the home -/

/-- The home mirror holds a shard's change: the replicas are told, and an offer that waited goes out. -/
def mirrorHolds (d : Dev) (obj n : Nat) : Dev :=
  match d.home obj with
  | none => d
  | some h =>
    let nodes := (h.waiting.filter (·.1 == n)).flatMap (·.2)
    let d := d.onHome obj fun h => { h with waiting := dropWhere (·.1 == n) h.waiting }
    let d := if nodes.isEmpty then d else sendUpdate d obj n nodes
    if h.offers.any (·.1 == n) && (h.shard n).handover.isSome then sendOffer d obj n else d

/-- A node's bad answer, or none, while a record is created: it is treated as withdrawn (R430). -/
def badAnswer (d : Dev) (obj node status : Nat) : Dev :=
  let d := d.onHome obj fun h =>
    { h with unacked := dropWhere (·.1 == node) h.unacked, badStatus := if h.badStatus = 0 then status else h.badStatus,
             mirror := if h.mirror = some node then none else h.mirror }
  let d := match d.home obj with
    | some h => if h.mirror.isNone then (h.waiting.map (·.1)).foldl (fun d n => mirrorHolds d obj n) d else d
    | none => d
  loseNodes d obj none (· == node)

/-- The primary's side of a digest's answer (Table 13-11 steps 6 and 7). -/
def digestAnswer (d : Dev) (obj n tag status : Nat) : Dev :=
  let key := obj * 256 + n
  match tfind d.mbr.shadowings key with
  | none => d
  | some w =>
    match w.digest with
    | none => d
    | some tags =>
      if tags.contains tag then
        let left := tags.erase tag
        let failed := status ≠ St.ok
        let d := d.onMbr fun m =>
          { m with shadowings := tupd m.shadowings key fun w => { w with digest := some (if failed then [] else left) } }
        if failed ∨ left = [] then
          match d.objAt obj with
          | none => d
          | some o =>
            let (t, d) := freshTag d
            let epoch := match tfind o.shards n with | some s => s.epoch | none => 0
            sendRec d (homeNode d o) 2 3 (recMsg 0x58 0 obj t n (b2n failed) epoch w.shadow [])
        else d
      else d

/-- Handle a SHARD_ACK (R366). -/
def shardAckOp (d : Dev) (m : Inb) : Dev :=
  let b := msgBody m.bytes
  let obj := rmObj b
  let n := rmShard b
  let src := msgSrc m.bytes
  if (recHeadBad m.bytes).isSome then d
  else if rmTag b = updateTag n then
    match d.home obj with
    | none => d
    | some h =>
      if h.isHome = false ∨ (rmStatus b = St.ok ∧ rmEpoch b ≠ (h.shard n).epoch) then d
      else
        let d := d.onHome obj fun h => { h with unacked := dropWhere (· == (src, n)) h.unacked }
        let d := if rmStatus b ≠ St.ok ∧ h.creating.isSome = true then badAnswer d obj src (rmStatus b) else d
        let d := if h.mirror == some src && h.waiting.any (·.1 == n) then mirrorHolds d obj n else d
        homeSettle d obj
  else
    let d := if rmStatus b = St.notOwner then
        offerEnds d obj n
      else d
    digestAnswer d obj n (rmTag b) (rmStatus b)

/-- Handle a HOME_QUERY (R371, R548). -/
def homeQueryOp (d : Dev) (m : Inb) : Dev :=
  let b := msgBody m.bytes
  let obj := rmObj b
  let no := fun (st node : Nat) => reply d m 1 2 (recMsg 0x51 st obj (rmTag b) 0xFF 0 0 node [])
  if m.stale then no St.epochStale 0
  else if m.conn ≠ ownConn ∧ fld b 2 2 ≠ msgTenant m.bytes then no St.tenantMismatch 0
  else if let some st := recHeadBad m.bytes then no st 0
  else
    match d.home obj with
    | some h =>
      if h.isHome then reply d m 1 2 (recMsg 0x51 0 obj (rmTag b) 0xFF 0 0 0 (recordBytes h)) else no St.noSuchObject h.home
    | none =>
      match d.objAt obj with
      | some o => no St.noSuchObject o.home
      | none => no St.noSuchObject 0

/-- Handle a HOME_REPLY (R374): the record decides. -/
def homeReplyOp (k : Chip) (m : Inb) : Dev :=
  let d := k.dev
  let b := msgBody m.bytes
  let obj := rmObj b
  match if (recHeadBad m.bytes).isSome then none else d.mbr.asks.find? fun a => a.requestId == rmTag b && a.tenantObject == obj with
  | none => d
  | some a =>
    let d := d.onMbr fun x => { x with asks := dropWhere (· == a) x.asks }
    if rmStatus b = St.ok then
      let p := rmPayload b
      let n := fld p 2 2
      let h := readWhole p
      let raw := (List.range n).map fun i => cut p (32 + 40 * i) 40
      if p.length ≠ 32 + 40 * n ∨ (carriedBad d obj p 0 raw).isSome ∨
          shardsInOrder ⟨h.format, h.tCode, h.hkv, h.dCode⟩ h.shards = false then d
      else
      (List.range h.shards.length).foldl (fun d n => (takeShard k d obj n h (h.shard n)).2) d
    else if rmStatus b = St.noSuchObject ∧ rmNode b ≠ 0 ∧ rmNode b ≠ a.node then homeQuery d obj (rmNode b)
    else d

/-- Handle a SHARD_WITHDRAW (R369). -/
def withdrawOp (d : Dev) (m : Inb) : Dev :=
  let b := msgBody m.bytes
  let obj := rmObj b
  let n := rmShard b
  match d.home obj with
  | none => ackShard d m (if m.stale then St.epochStale else (recHeadBad m.bytes).getD St.noSuchObject)
  | some h =>
    let s := h.shard n
    if m.stale then ackShard d m St.epochStale
    else if let some st := recHeadBad m.bytes then ackShard d m st
    else if h.isHome = false then ackShard d m St.noSuchObject
    else if bitOf (rmFlags b) 2 then
      if s.state = 0 ∧ s.primary = some (rmNode b) ∧ n < h.shards.length then
        ackShard (homeChange d obj (h.shards.set n { s with primary := s.mirror, mirror := s.primary }) [n] true) m St.ok
      else ackShard d m St.fieldInvalid
    else ackShard (loseNodes d obj (some n) (· == rmNode b)) m St.ok

/-- The home's part of a TAIL_OFFER (Table 13-10 step 3). -/
def offerAtHome (d : Dev) (m : Inb) (h : HomeRec) : Dev :=
  let b := msgBody m.bytes
  let obj := rmObj b
  let n := rmShard b
  let s := h.shard n
  let src := msgSrc m.bytes
  let guarded := h.guards.any fun g => g.1 == n && decide (d.now < g.2 + 100000)
  if s.tail = some src ∧ s.epoch = rmEpoch b ∧ s.handover = none ∧ guarded = false ∧ otherReplica src s = some (rmNode b) then
    let d := d.onHome obj fun h =>
      { h with handovers := h.handovers ++ [(n, src, s.epoch, d.now)], offers := tins h.offers n (rmPayload b),
               guards := dropWhere (·.1 == n) h.guards }
    let d := d.onHome obj fun h => { h with shards := h.shards.set n { s with handover := some (rmNode b) }, epoch := m32 (h.epoch + 1) }
    match mirrorOf d h with
    | some _ => announce d obj (n, [])
    | none => sendOffer d obj n
  else ackShard d m St.notOwner

/-- The receiver's part of a TAIL_OFFER (Table 13-10 step 4). -/
def offerAtReceiver (k : Chip) (m : Inb) : Dev :=
  let b := msgBody m.bytes
  let obj := rmObj b
  let layers := match k.dev.objAt obj with | some o => o.layers | none => 0
  let same := match k.dev.objAt obj with
    | none => false
    | some o => tailsRead k.dev obj layers &&
        (List.range o.layers).all fun l => layerLength k obj o.geom l == fld (rmPayload b) (4 * l) 4
  reply (tailsLost k.dev obj layers) m 1 2 (recMsg 0x55 (if same then St.ok else St.fieldInvalid) obj (rmTag b) (rmShard b) 0 (rmEpoch b) 0 [])

/-- Handle a TAIL_OFFER. -/
def tailOfferOp (k : Chip) (m : Inb) : Dev :=
  let d := k.dev
  let b := msgBody m.bytes
  let receiver := rmNode b == d.regs.nodeId &&
    match d.objAt (rmObj b) with | some o => homeNode d o == msgSrc m.bytes | none => false
  if m.stale then ackShard d m St.epochStale
  else if let some st := recHeadBad m.bytes then ackShard d m st
  else
    match d.home (rmObj b) with
    | some h =>
      if h.isHome && !(receiver && (h.shard (rmShard b)).handover.isSome) then offerAtHome d m h
      else if receiver then offerAtReceiver k m else ackShard d m St.notOwner
    | none => if receiver then offerAtReceiver k m else ackShard d m St.notOwner

/-- A handover is over without a new owner: IN_PROGRESS goes, and the offerer hears it at its epoch. -/
def endHandover (d : Dev) (obj n : Nat) : Dev :=
  match d.home obj with
  | none => d
  | some h =>
    let d := d.onHome obj fun h => { h with handovers := dropWhere (·.1 == n) h.handovers, offers := tdel h.offers n }
    homeChange d obj (h.shards.set n { h.shard n with handover := none }) [n] false

/-- Handle a TAIL_ACCEPT (Table 13-10 step 5). -/
def tailAcceptOp (d : Dev) (m : Inb) : Dev :=
  let b := msgBody m.bytes
  let obj := rmObj b
  let n := rmShard b
  if (recHeadBad m.bytes).isSome then d
  else
  match d.home obj with
  | none => lateDiscard d 4 Config.noDie (objTenant obj) (rmStatus b)
  | some h =>
    let s := h.shard n
    if h.isHome && h.handovers.any (·.1 == n) && s.handover == some (msgSrc m.bytes) && rmEpoch b == s.epoch then
      if rmStatus b = St.ok then
        let d := d.onHome obj fun h => { h with handovers := dropWhere (·.1 == n) h.handovers, offers := tdel h.offers n }
        homeChange d obj (h.shards.set n { s with handover := none, tail := s.handover }) [n] true
      else endHandover d obj n
    else lateDiscard d 4 Config.noDie (objTenant obj) (rmStatus b)

/-! ### Comparison and digest at the primary (R376, R377) -/

/-- Two parts are equal in what R377 compares. -/
def partsEqual (a b : Bytes) : Bool :=
  cut a 1 1 == cut b 1 1 && cut a 9 1 == cut b 9 1 && cut a 0xB 1 == cut b 0xB 1 && cut a 0xC 2 == cut b 0xC 2 &&
    cut a 0xE 2 == cut b 0xE 2 && a.drop 48 == b.drop 48

/-- Every part of both sides is here. -/
def comparedWhole (c : Compared) : Bool :=
  decide (0 < c.total) &&
    (List.range c.total).all fun k => (tfind c.own k).isSome && (tfind c.theirs k).isSome

def comparedEqual (c : Compared) : Bool :=
  (List.range c.total).all fun k => partsEqual (tget [] c.own k) (tget [] c.theirs k)

/-- The header CRC of a sealed page as it stands; 0 for a page that is not sealed (Table 13-7). -/
def digestOf (k : Chip) (d : Dev) (key : Nat) : Nat :=
  let own := d.ownerKey key
  let e := d.entry own
  if e.state ≠ .sealed then 0
  else if e.tier = 1 then fld (readTier1 ⟨d, k.mem⟩ (4096 * e.frame + 0x14) 4) 0 4
  else tget 0 d.obj.crcs own

/-- SHADOW_DIGEST of consecutive pages of a layer, at most 16,384 in a message. -/
def sendDigest (k : Chip) (obj n shadow layer last : Nat) : Nat → Nat → Dev → Dev
  | 0, _, d => d
  | f + 1, first, d =>
    if last < first then d
    else
      let count := min 16384 (last + 1 - first)
      let crcs := (List.range count).flatMap fun i => toLe 4 (digestOf k d (mkKey (objTenant obj) (objId obj) layer (first + i)))
      let (tag, d) := freshTag d
      let d := d.onMbr fun m =>
        { m with shadowings := tupd m.shadowings (obj * 256 + n) fun w => { w with digest := some (w.digest.getD [] ++ [tag]) } }
      let epoch := match (d.objAt obj).bind fun o => tfind o.shards n with | some s => s.epoch | none => 0
      let d := sendRec d shadow 3 5 (recMsg 0x57 0 obj tag n 0 epoch 0 (toLe 4 (layer * 2 ^ 18 + first) ++ crcs))
      sendDigest k obj n shadow layer last f (first + count) d

/-- The digests of every sealed page of a shard (Table 13-11 step 6). -/
def sendDigests (k : Chip) (d : Dev) (obj n : Nat) (w : Shadowing) : Dev :=
  match d.objAt obj with
  | none => d
  | some o =>
    match tfind o.shards n with
    | none => d
    | some s =>
      let d := d.onMbr fun m => { m with shadowings := tupd m.shadowings (obj * 256 + n) fun w => { w with digest := some [] } }
      let pages := (shardPages d obj s).filter fun p => (d.ownerEntry p).state == .sealed
      (List.range o.layers).foldl (fun d l =>
        match ((pages.filter fun p => keyLayer p == l).map keyPage).getLast? with
        | none => d
        | some last => sendDigest k obj n w.shadow l last (last / 16384 + 1) s.first d) d

/-- SHADOW_READY with FAILED (R377). -/
def shadowFailed (d : Dev) (obj n shadow : Nat) : Dev :=
  match d.objAt obj with
  | none => d
  | some o =>
    let d := d.onMbr fun m => { m with shadowings := tupd m.shadowings (obj * 256 + n) fun w => { w with digest := some [] } }
    let (tag, d) := freshTag d
    let epoch := match tfind o.shards n with | some s => s.epoch | none => 0
    sendRec d (homeNode d o) 2 3 (recMsg 0x58 0 obj tag n 1 epoch shadow [])

/-- The comparison of a forwarded request has its outcome. -/
def compareDone (k : Chip) (obj n request : Nat) (same : Bool) : Dev :=
  let d := k.dev
  let key := obj * 256 + n
  let upd := fun (w : Shadowing) =>
    let w := { w with compared := dropWhere (·.request == request) w.compared }
    if same then { w with matched := w.matched + 1 } else { w with matched := 0, mismatches := w.mismatches + 1 }
  let d := d.onMbr fun m => { m with shadowings := tupd m.shadowings key upd }
  let d := if same then d
    else logFull d 0x0702 Config.noDie (objTenant obj) 0 0 (toLe 4 (objId obj) ++ toLe 1 n ++ toLe 1 1)
  match tfind d.mbr.shadowings key with
  | none => d
  | some w =>
    if w.digest.isSome then d
    else if !same && w.mismatches == 3 then shadowFailed d obj n w.shadow
    else if same && decide (w.matchesWanted ≤ w.matched) then
      let d := sendDigests k d obj n w
      -- with no sealed page there is nothing to wait for
      match tfind d.mbr.shadowings key with
      | some v =>
        if v.digest = some [] then
          let d := d.onMbr fun m => { m with shadowings := tupd m.shadowings key fun w => { w with digest := some [0] } }
          digestAnswer d obj n 0 St.ok
        else d
      | none => d
    else d

/-- One page of a digest compared (Table 13-11 step 6): the shadow's page has the CRC that the digest gives, and its image passes the checks of
R147. A page whose image cannot be read or fails becomes SUSPECT (Table 07-4). -/
def digestPage (k : Chip) (d : Dev) (key crc : Nat) : Bool × Dev :=
  let own := d.ownerKey key
  let e := d.entry own
  if crc = 0 then (true, d)
  else if e.state ≠ .sealed ∨ digestOf k d key ≠ crc then (false, d)
  else if e.tier = 2 then (true, d)
  else
    let k := ⟨d, k.mem⟩
    let g := keyGeom k own e.run
    match entryBad k e g with
    | [] =>
      match pageImageCheck (readEntry k e) (4096 * e.count) own g with
      | .ok raw => (true, verified d own (128 + raw.length))
      | .error n => (false, suspectPage (formatFault d own n) own false)
    | bs => (false, suspectPage (badServed d bs (keyTenant own) St.uncorrectable) own false)

/-- A shadow re-reads its copies and compares their CRCs (Table 13-11 step 6). A copy that differs is the mismatch it counts
(R377): no message tells it of a request that does not match. -/
def digestOp (k : Chip) (m : Inb) : Dev :=
  let d := k.dev
  let b := msgBody m.bytes
  let p := rmPayload b
  let layer := fld p 0 4 / 2 ^ 18 % 256
  let first := fld p 0 4 % 2 ^ 18
  if m.stale then ackShard d m St.epochStale
  else if let some st := recHeadBad m.bytes then ackShard d m st
  else
    let (same, d) := (List.range ((p.length - 4) / 4)).foldl (fun r i =>
      let q := digestPage k r.2 (mkKey (objTenant (rmObj b)) (objId (rmObj b)) layer (first + i)) (fld p (4 + 4 * i) 4)
      (r.1 && q.1, q.2)) (true, d)
    let d := if same then d
      else
        let d := d.onMbr fun x => { x with shadows := d.now :: x.shadows }
        match pageSlice d (mkKey (objTenant (rmObj b)) (objId (rmObj b)) layer first) with
        | some n => fixedCount d (dieOfSlice n) 60 1
        | none => d
    ackShard d m (if same then St.ok else St.pageCrcMismatch)

/-- Handle a SHADOW_READY at the home (Table 13-11 step 8). -/
def shadowReadyOp (d : Dev) (m : Inb) : Dev :=
  let b := msgBody m.bytes
  let obj := rmObj b
  let n := rmShard b
  match d.home obj with
  | none => ackShard d m (if m.stale then St.epochStale else (recHeadBad m.bytes).getD St.noSuchObject)
  | some h =>
    let s := h.shard n
    if m.stale then ackShard d m St.epochStale
    else if let some st := recHeadBad m.bytes then ackShard d m st
    else if h.isHome = false then ackShard d m St.noSuchObject
    else if s.shadow ≠ some (rmNode b) ∨ s.primary ≠ some (msgSrc m.bytes) then ackShard d m St.notOwner
    else
      let failed := bitOf (rmFlags b) 0
      let new := if failed then { s with shadow := none, fromMirror := false }
        else { s with mirror := s.shadow, shadow := none, fromMirror := false, state := 0,
                      handover := none, tail := if s.tail.isSome then s.primary else none }
      let d := logFull d 0x0702 Config.noDie (objTenant obj) 0 0
        (toLe 4 (objId obj) ++ toLe 1 n ++ toLe 1 (if failed then 3 else 2))
      let d := d.onHome obj fun h =>
        { h with shadowing := dropWhere (·.1 == n) h.shadowing, handovers := dropWhere (·.1 == n) h.handovers }
      ackShard (homeChange d obj (h.shards.set n new) [n] true) m St.ok

end Sys2Proof.Machine
end

