-- ==== Sys2Proof/Machine/MatchOps.lean ====
section
/-! DEFINITION. Associative match: searches, the table manager, copies, confirmation and the overflow table (spec 09). -/

namespace Sys2Proof.Machine

/-! ### Searches (R227 to R232) -/

/-- Entries of a Teasel die. -/
def dieEntries : Nat := 262144

def matIndex (die index : Nat) : Nat := (die - 28) * dieEntries + index

/-- All 160 bits. -/
def keyOnes : Nat := 2 ^ 160 - 1

/-- An entry matches a key under a mask whose set bits are out of consideration (R227). -/
def entryMatches (e : MEntry) (key mask : Nat) : Bool := ((e.value ^^^ key) &&& e.care &&& (keyOnes ^^^ mask)) == 0

/-- The valid entries of a die by physical index. -/
def dieTab (d : Dev) (die : Nat) : Tab MEntry :=
  (d.mat.entries.filter fun p => p.1 / dieEntries == die - 28).map fun p => (p.1 % dieEntries, p.2)

/-- First and past-last physical index of a partition: 0 classification, 1 prefix (Table 09-1). -/
def partRange (d : Dev) (part : Nat) : Nat × Nat :=
  if part = 0 then (0, 4096 * d.regs.classBlocks) else (4096 * d.regs.classBlocks, dieEntries)

/-- Of some entries, the first with the lowest physical index. -/
def lowestEntry : List (Nat × MEntry) → Option (Nat × MEntry)
  | [] => none
  | p :: l =>
    match lowestEntry l with
    | none => some p
    | some q => if p.1 ≤ q.1 then some p else some q

/-- The winner of a search: the matching entry of the partition with the lowest physical index (R230). -/
def tabSearch (t : Tab MEntry) (lo hi key mask : Nat) : Option (Nat × MEntry) :=
  lowestEntry (t.filter fun p => decide (lo ≤ p.1) && decide (p.1 < hi) && entryMatches p.2 key mask)

/-- A search on a Teasel die. -/
def matSearch (d : Dev) (die part key mask : Nat) : Option (Nat × MEntry) :=
  tabSearch (dieTab d die) (partRange d part).1 (partRange d part).2 key mask

/-- S (R242, Table 21-18). -/
def holeSpacing (d : Dev) : Nat := [8, 16, 32].getD d.regs.holeSpacing 16

/-! ### Keys and actions (Tables 09-2 and 09-3) -/

def prefixKey (tenant hash : Nat) : Nat := 2 ^ 156 + tenant * 2 ^ 136 + hash % 2 ^ 128
/-- CARE of a prefix entry (R429): ones in KEY_TYPE, TENANT and CHAIN_HASH. -/
def prefixCare : Nat := 15 * 2 ^ 156 + 65535 * 2 ^ 136 + (2 ^ 128 - 1)
def keyHash (key : Nat) : Nat := key % 2 ^ 128
def keyTenant16 (key : Nat) : Nat := bitsOf key 136 16
/-- The die a prefix key lives on (R236). -/
def prefixDie (key : Nat) : Nat := 28 + bitsOf key 127 1
def actKind (a : Nat) : Nat := bitsOf a 62 2
def actObject (a : Nat) : Nat := bitsOf a 18 32
def actPage (a : Nat) : Nat := bitsOf a 0 18

/-! ### Authoritative copies (R185, R247, R250) -/

def copyBytes (e : Option MEntry) : Bytes :=
  match e with
  | none => zeros 64
  | some e => toLe 20 e.value ++ toLe 20 e.care ++ toLe 8 e.action ++ toLe 2 e.prio ++ toLe 1 1 ++ zeros 13

def readCopyBytes (b : Bytes) : Option MEntry :=
  if bitOf (fld b 0x32 1) 0 then
    some { value := fld b 0 20, care := fld b 0x14 20, action := fld b 0x28 8, prio := fld b 0x30 2 }
  else none

/-- Where a copy area's structures begin: its slice's node granule. -/
def areaBase (d : Dev) (area : Nat) : Nat := d.mat.areas.getD area 0 * sliceBytes

def copyAddr (d : Dev) (area slot : Nat) : Nat := areaBase d area + 64 * slot

/-- A bucket of the overflow table lies behind the copy area (DEDUCED, notes/assumptions/43.md). -/
def bucketAddr (d : Dev) (area bucket : Nat) : Nat := areaBase d area + 33554432 + 256 * bucket

/-- A range of a node structure reads well. -/
def copyGood (d : Dev) (a n : Nat) : Bool := d.ready (addrDie a) && (badBursts d a n).isEmpty

/-- A copy that reads as uncorrectable is reported (R187); one on a die that does not run is not read. -/
def failedCopy (k : Chip) (a n : Nat) : Chip :=
  k.when (k.dev.ready (addrDie a)) fun k => k.onDev fun d => badServed d (badBursts d a n) 0 St.ok

/-- A failed copy is rewritten from the good one (R185). -/
def mendCopy (k : Chip) (a n : Nat) (b : Bytes) : Chip :=
  k.when (k.dev.ready (addrDie a)) fun k => storeNow (failedCopy k a n) a b

/-- Read a structure held twice: the other copy serves when one fails, and the failed one is rewritten (R185); none when
both fail. -/
def readTwice (k : Chip) (addr : Nat → Nat) (n : Nat) : Option Bytes × Chip :=
  let a := addr 0
  let b := addr 1
  match copyGood k.dev a n, copyGood k.dev b n with
  | true, true => (some (readTier1 k a n), k)
  | true, false =>
    let x := readTier1 k a n
    (some x, mendCopy k b n x)
  | false, true =>
    let x := readTier1 k b n
    (some x, mendCopy k a n x)
  | false, false => (none, (failedCopy (failedCopy k a n) b n))

/-- Write a structure held twice. -/
def writeTwice (k : Chip) (addr : Nat → Nat) (b : Bytes) : Chip :=
  let k := k.when (k.dev.ready (addrDie (addr 0))) fun k => storeNow k (addr 0) b
  k.when (k.dev.ready (addrDie (addr 1))) fun k => storeNow k (addr 1) b

def readCopy (k : Chip) (slot : Nat) : Option Bytes × Chip := readTwice k (fun a => copyAddr k.dev a slot) 64

/-- Write the array's entry alone. -/
def putEntry (d : Dev) (slot : Nat) (e : Option MEntry) : Dev :=
  let d := count d (28 + slot / dieEntries) 0x2430 1
  d.onMat fun m => { m with entries := match e with | some e => tins m.entries slot e | none => tdel m.entries slot }

/-- Write an entry: both copies, then the array (R247). -/
def writeEntry (k : Chip) (die index : Nat) (e : Option MEntry) : Chip :=
  let slot := matIndex die index
  (writeTwice k (fun a => copyAddr k.dev a slot) (copyBytes e)).onDev fun d => putEntry d slot e

/-- Carry out a table manager's writes on a die, in order (R244, R247). -/
def writeEntries (k : Chip) (die : Nat) (ws : List (Nat × Option MEntry)) : Chip :=
  ws.foldl (fun k w => writeEntry k die w.1 w.2) k

/-! ### The table manager (R241 to R243) -/

/-- Move the entries at the given indices by one, nearest the hole first: each destination is written and its source
invalidated. -/
def moveWrites (t : Tab MEntry) (up : Bool) (l : List Nat) : List (Nat × Option MEntry) :=
  l.flatMap fun i => [((if up then i + 1 else i - 1), tfind t i), (i, none)]

/-- Apply writes to a table. -/
def tabWrites (t : Tab MEntry) (ws : List (Nat × Option MEntry)) : Tab MEntry :=
  ws.foldl (fun t w => match w.2 with | some e => tins t w.1 e | none => tdel t w.1) t

def isHole (t : Tab MEntry) (i : Nat) : Bool := (tfind t i).isNone

/-- The run that holds an index, by its first index; an index past the partition counts to its last run. -/
def runOf (S hi i : Nat) : Nat := min i (hi - 1) / S * S

def runHoles (t : Tab MEntry) (S first : Nat) : List Nat := ((List.range S).map (· + first)).filter (isHole t)

/-- The nearest of some indices to a position, the lower on a tie. -/
def nearest (pos : Nat) : List Nat → Option Nat
  | [] => none
  | h :: l =>
    let dist := fun (x : Nat) => if x < pos then pos - x else x - pos
    match nearest pos l with
    | none => some h
    | some g => if dist h ≤ dist g then some h else some g

/-- The sorted position of a new entry (R242). -/
def sortedPos (t : Tab MEntry) (lo hi prio : Nat) : Nat :=
  match (t.filter fun p => decide (lo ≤ p.1) && decide (p.1 < hi) && decide (p.2.prio ≤ prio)).getLast? with
  | some p => p.1 + 1
  | none => lo

/-- The writes that insert an entry (R242); none while its run has no hole. -/
def insertWrites (t : Tab MEntry) (lo hi S : Nat) (e : MEntry) : Option (List (Nat × Option MEntry)) :=
  let pos := sortedPos t lo hi e.prio
  match nearest pos (runHoles t S (runOf S hi pos)) with
  | none => none
  | some h =>
    if h = pos then some [(pos, some e)]
    else if pos < h then
      some (moveWrites t true (((List.range (h - pos)).map (· + pos)).reverse) ++ [(pos, some e)])
    else some (moveWrites t false ((List.range (pos - 1 - h)).map (· + (h + 1))) ++ [(pos - 1, some e)])

/-- Carry one hole over the boundary between two neighbouring runs (R242): from the higher run to the lower, or the other
way. -/
def crossWrites (t : Tab MEntry) (S lower : Nat) (down : Bool) : List (Nat × Option MEntry) :=
  let mid := lower + S
  if down then
    -- the hole of the higher run goes to its first index, then the lower run's last entry crosses
    match (runHoles t S mid).head?, ((List.range S).map (· + lower)).reverse.find? fun i => !(isHole t i) with
    | some h, some e =>
      moveWrites t true (((List.range (h - mid)).map (· + mid)).reverse) ++ [(mid, tfind t e), (e, none)]
    | _, _ => []
  else
    match (runHoles t S lower).getLast?, ((List.range S).map (· + mid)).find? fun i => !(isHole t i) with
    | some h, some e =>
      moveWrites t false ((List.range (mid - 1 - h)).map (· + (h + 1))) ++ [(mid - 1, tfind t e), (e, none)]
    | _, _ => []

/-- The writes that carry a hole over `n` boundaries into a run. -/
def carryWrites (S : Nat) : Nat → Nat → Bool → Tab MEntry → List (Nat × Option MEntry)
  | 0, _, _, _ => []
  | n + 1, donor, down, t =>
    let ws := crossWrites t S (if down then donor - S else donor) down
    ws ++ carryWrites S n (if down then donor - S else donor + S) down (tabWrites t ws)

/-- The donor run for a run without a hole: the nearest with two or more, the lower-numbered on a tie. -/
def donorRun (t : Tab MEntry) (lo hi S run : Nat) : Option Nat :=
  let n := (hi - lo) / S
  (List.range n).findSome? fun i =>
    let dist := (i + 1) * S
    let two := fun (r : Nat) => decide (2 ≤ (runHoles t S r).length)
    if lo + dist ≤ run ∧ two (run - dist) = true then some (run - dist)
    else if run + dist + S ≤ hi ∧ two (run + dist) = true then some (run + dist)
    else none

/-- The writes of a hole repair. -/
def repairWrites (t : Tab MEntry) (lo hi S run : Nat) : List (Nat × Option MEntry) :=
  match donorRun t lo hi S run with
  | none => []
  | some r => if r < run then carryWrites S ((run - r) / S) r false t else carryWrites S ((r - run) / S) r true t

/-- The dies whose arrays a partition's edit goes to: classification to both, a prefix key's to its own (R246). -/
def editDies (part key : Nat) : List Nat := if part = 0 then [28, 29] else [prefixDie key]

def partCount (d : Dev) (die part : Nat) : Nat :=
  ((dieTab d die).filter fun p => decide ((partRange d part).1 ≤ p.1) && decide (p.1 < (partRange d part).2)).length

/-- A partition holds its largest number of entries (R243). -/
def partFull (d : Dev) (die part : Nat) : Bool :=
  let n := (partRange d part).2 - (partRange d part).1
  decide ((holeSpacing d - 1) * (n / holeSpacing d) ≤ partCount d die part)

/-- A run that an insertion left without a hole waits for its repair. -/
def noteRepair (d : Dev) (die part index : Nat) : Dev :=
  let r := partRange d part
  let S := holeSpacing d
  let run := runOf S r.2 index
  if (runHoles (dieTab d die) S run).isEmpty then
    d.onMat fun m => { m with repairs := tmod [] m.repairs ((die - 28) * 2 + part) fun l => l ++ [run] }
  else d

/-- Insert an entry on its dies; none while its run waits for a hole. -/
def insertEntry (k : Chip) (part : Nat) (e : MEntry) : Option Chip :=
  let r := partRange k.dev part
  let die := (editDies part e.value).headD 28
  let t := dieTab k.dev die
  match insertWrites t r.1 r.2 (holeSpacing k.dev) e with
  | none => none
  | some ws =>
    let k := (editDies part e.value).foldl (fun k die => writeEntries k die ws) k
    some (k.onDev fun d => noteRepair d die part (sortedPos t r.1 r.2 e.prio))

/-! ### The overflow table (R240) -/

def bucketOf (d : Dev) (key : Nat) : Nat := (key % 2 ^ 20 ^^^ keyTenant16 key) % 2 ^ d.regs.overflowLog2

def readBucket (k : Chip) (bucket : Nat) : Option Bytes × Chip := readTwice k (fun a => bucketAddr k.dev a bucket) 256

def writeBucket (k : Chip) (bucket : Nat) (b : Bytes) : Chip := writeTwice k (fun a => bucketAddr k.dev a bucket) b

/-- The valid records of a bucket, in order: key and action. -/
def bucketRecs (b : Bytes) : List (Nat × Nat) :=
  (List.range 8).filterMap fun i =>
    if bitOf (fld b (32 * i + 0x1C) 4) 0 then some (fld b (32 * i) 20, fld b (32 * i + 0x14) 8) else none

/-- A bucket of records: local before remote. -/
def bucketBytes (rs : List (Nat × Nat)) : Bytes :=
  padTo 256 (((rs.filter fun r => actKind r.2 == 0) ++ rs.filter fun r => actKind r.2 != 0).flatMap fun r =>
    toLe 20 r.1 ++ toLe 8 r.2 ++ toLe 4 1)

/-! ### Confirmation (R239) -/

def mismatch (d : Dev) (die index kind : Nat) : Dev :=
  logEv d 0x0601 die (toLe 1 die ++ toLe 4 index ++ toLe 1 kind)

/-- What a prefix lookup of one key finds: its flags and status, its action, and the tier-2 page whose header it must read
first. -/
structure Found where
  hit : Bool := false
  fromOverflow : Bool := false
  bad : Bool := false
  action : Nat := 0
  asks : Option Nat := none
deriving DecidableEq, Repr

/-- The outcome of R239's second check: the header confirms the hit, shows that the entry is stale, cannot be read, or has to
be read from tier 2 first. -/
inductive Confirm where
  | yes | stale | unread | ask (page : Nat)
deriving DecidableEq, Repr

/-- A page header's TENANT and SEALED. -/
def headerConfirms (key : Nat) (b : Bytes) : Confirm :=
  if keyTenant (readHdr b).key = keyTenant16 key ∧ bitOf (readHdr b).flags 0 = true then .yes else .stale

/-- R239, second check; `got` is a page's header that has come from tier 2, or the failure of its read. A header that cannot be
read makes its page SUSPECT. -/
def pageConfirms (k : Chip) (key action : Nat) (got : Option (Nat × Option Bytes)) : Confirm × Chip :=
  let d := k.dev
  let page := d.ownerKey (mkKey (keyTenant16 key) (actObject action) 0 (actPage action))
  let e := d.entry page
  if e.state = .absent ∨ e.state = .shared then (.stale, k)
  else
    match (if e.tier = 1 then some e.frame else (copyFor d page).map (·.frame)) with
    | some frame =>
      match badBursts d (4096 * frame) 128 with
      | [] => (headerConfirms key (readTier1 k (4096 * frame) 128), k)
      | bs => (.unread, ⟨suspectPage (badServed d bs (keyTenant page) St.uncorrectable) page false, k.mem⟩)
    | none =>
      match got with
      | some (p, some b) => if p = page then (headerConfirms key b, k) else (.ask page, k)
      | some (p, none) => if p = page then (.unread, k) else (.ask page, k)
      | none => (.ask page, k)

/-- A local hit of an entry that passed R239's first check: confirmed, or a stale one deleted with an event record. -/
def confirmHit (k : Chip) (die i key : Nat) (e : MEntry) (got : Option (Nat × Option Bytes)) : Found × Chip :=
  match pageConfirms k key e.action got with
  | (.yes, k) => ({ hit := true, action := e.action }, k)
  | (.stale, k) => ({}, (writeEntry k die i none).onDev fun d => mismatch d die i 3)
  | (.unread, k) => ({ bad := true }, k)
  | (.ask page, k) => ({ asks := some page }, k)

/-- Search the array of a die and confirm a local hit (R238 steps 1 and 2, R239). Each search that fails the first check mends
one entry of the array from its copy, so that the count of entries bounds them. -/
def arrayLookup (k : Chip) (die key : Nat) (got : Option (Nat × Option Bytes)) : Nat → Found × Chip
  | 0 => ({}, k)
  | f + 1 =>
    let k := k.onDev fun d => count d die 0x2400 1
    match matSearch k.dev die 1 key 0 with
    | none => ({}, k)
    | some (i, e) =>
      let k := k.onDev fun d => count d die 0x2410 1
      if actKind e.action ≠ 0 then ({ hit := true, action := e.action }, k)
      else
        let slot := matIndex die i
        match readCopy k slot with
        | (none, k) => ({ bad := true }, k)
        | (some b, k) =>
          let c := readCopyBytes b
          if (match c with | some x => x.value == e.value && x.care == e.care && x.action == e.action | none => false) = true ∧
              e.value = key then confirmHit k die i key e got
          else arrayLookup (k.onDev fun d => mismatch (putEntry d slot c) die i 2) die key got f

/-- The first of a die's authoritative copies that matches a key, in the order of the indices; no answer when a copy that comes
before it reads badly in both areas (R250). -/
def scanCopies (die key : Nat) : List Nat → Chip → Option (Option (Nat × MEntry)) × Chip
  | [], k => (some none, k)
  | i :: is, k =>
    match readCopy k (matIndex die i) with
    | (none, k) => (none, k)
    | (some b, k) =>
      match readCopyBytes b with
      | some e => if entryMatches e key 0 then (some (some (i, e)), k) else scanCopies die key is k
      | none => scanCopies die key is k

/-- The same against the authoritative copies of a lost die (R251): only check 2 confirms. -/
def copyLookup (k : Chip) (die key : Nat) (got : Option (Nat × Option Bytes)) : Found × Chip :=
  let r := partRange k.dev 1
  match scanCopies die key ((List.range (r.2 - r.1)).map (· + r.1)) k with
  | (none, k) => ({ bad := true }, k)
  | (some none, k) => ({}, k)
  | (some (some (i, e)), k) =>
    if actKind e.action ≠ 0 then ({ hit := true, action := e.action }, k) else confirmHit k die i key e got

/-- Probe the overflow table (R238 step 3). -/
def overflowLookup (k : Chip) (key : Nat) (found : Found) (got : Option (Nat × Option Bytes)) : Found × Chip :=
  if k.dev.mat.overflow = 0 then (found, k)
  else
    let k := k.onDev fun d => count d (prefixDie key) 0x2450 1
    match readBucket k (bucketOf k.dev key) with
    | (none, k) => ({ bad := true }, k)
    | (some b, k) =>
      let rs := bucketRecs b
      match rs.find? fun r => r.1 == key && actKind r.2 == 0 with
      | some r =>
        match pageConfirms k key r.2 got with
        | (.yes, k) => ({ hit := true, fromOverflow := true, action := r.2 }, k)
        | (.unread, k) => ({ bad := true }, k)
        | (.ask page, k) => ({ asks := some page }, k)
        | (.stale, k) =>
          let k := writeBucket k (bucketOf k.dev key) (bucketBytes (rs.filter (· != r)))
          (found, k.onDev fun d =>
            mismatch (d.onMat fun m => { m with overflow := m.overflow - 1 }) (prefixDie key) (8 * bucketOf d key + rs.idxOf r) 3)
      | none =>
        match rs.find? fun r => r.1 == key with
        | some r => (if found.hit then found else { hit := true, fromOverflow := true, action := r.2 }, k)
        | none => (found, k)

/-- Answer one key (R238), on its die's array, or on the copies when a scan of that die serves it. A key that needs a header
from tier 2 changes nothing until it has come. -/
def prefixAnswer (k : Chip) (key : Nat) (scan : Bool) (got : Option (Nat × Option Bytes)) : Found × Chip :=
  let die := prefixDie key
  let k1 := k.onDev fun d => count d die 0x2440 1
  let a := if scan then copyLookup k1 die key got else arrayLookup k1 die key got (k.dev.mat.entries.length + 1)
  let b := if a.1.bad ∨ a.1.asks.isSome ∨ (a.1.hit = true ∧ actKind a.1.action = 0) then a else overflowLookup a.2 key a.1 got
  if b.1.asks.isSome then (b.1, k) else b

/-- A result record (Table 15-13). -/
def foundBytes (f : Found) : Bytes :=
  toLe 1 (b2n f.hit + 2 * b2n f.fromOverflow) ++ toLe 1 (if f.bad then St.uncorrectable else St.ok) ++ zeros 6 ++
    toLe 8 (if f.hit then f.action else 0)

end Sys2Proof.Machine
end

