-- ==== Sys2Proof/Machine/Rma.lean ====
section
/-! DEFINITION. Remote memory access and triggered work (spec 11; commands RMA_WRITE, RMA_READ, RMA_RESP, ATTN_PARTIAL,
WORK_REQUEST_COMPLETE, MDOM_CREATE to CONN_CLOSE, REGISTRATION_DRAINED). -/

namespace Sys2Proof.Machine

/-- A message whose trigger tag names a FIRING counter waits (R312). -/
def tagWaits (d : Dev) (id type off : Nat) : Bool :=
  match d.msg id type with | some m => tagFiring d (fld (msgBody m.bytes) off 4) | none => false

/-- RMA_WRITE (R309). -/
def execRmaWrite (msg : Nat) (s : State) : Out :=
  s.actMem fun k => if tagWaits k.dev msg 0x30 0x20 then k else onMsgMem k msg 0x30 rmaWriteOp

/-- An RMA_READ whose tier-1 range lies under a row operation waits for it (R219). -/
def rmaReadWaits (d : Dev) (id : Nat) : Bool :=
  match d.msg id 0x31 with
  | none => false
  | some m =>
    let b := msgBody m.bytes
    match regFor d (fld b 4 2) (raAddr b) with
    | some (_, g) => (firstFail (rmaChecks d m false)).isNone && g.tier1 && rangeBusy d (g.target + (raAddr b - g.base)) (raLen b)
    | none => false

/-- RMA_READ (R309). -/
def execRmaRead (msg : Nat) (s : State) : Out :=
  s.actRead fun k => if rmaReadWaits k.dev msg then k.dev else onMsgRead k msg 0x31 rmaReadOp

/-- RMA_RESP (R310). -/
def execRmaResp (msg : Nat) (s : State) : Out :=
  s.actRead fun k => if tagWaits k.dev msg 0x32 0x10 then k.dev else onMsgRead k msg 0x32 rmaRespOp

/-- ATTN_PARTIAL (R316). -/
def execAttnPartial (msg : Nat) (s : State) : Out :=
  s.actMem fun k => if tagWaits k.dev msg 0x24 0x24 then k else onMsgMem k msg 0x24 partOp

/-- A work request completes: its DONE_TAG counter, or an event record (R315); FIRING may end. -/
def workDone (k : Chip) (w : Nat) (x : Work) (status : Nat) : Dev :=
  let d := k.dev
  let r := x.record
  let tag := fld r 0x30 4
  let c := wkCounter r
  let d := d.onRma fun y => { y with work := tupd y.work w fun x => { x with done := true, fired := false, outcome := none } }
  let d := if status = St.ok then d
    else logFull d 0x0504 Config.noDie (wkTenant r) status 0 (toLe 4 w)
  let d := trigSettle d c
  if status = St.ok then tagInc ⟨d, k.mem⟩ tag (wkTenant r) else d

/-- The increment that a request's completion makes must wait: its counter is FIRING, and this completion does not end
that. -/
def doneWaits (d : Dev) (w : Nat) (x : Work) : Bool :=
  let tag := fld x.record 0x30 4
  let c := wkCounter x.record
  tagFiring d tag && !(tagCounter tag == c && ((d.trig c).list.all fun v =>
    v == w || (match tfind d.rma.work v with | some y => y.done | none => true)))

/-- WORK_REQUEST_COMPLETE (R315): with the status the request has come to. -/
def execWorkRequestComplete (work status : Nat) (s : State) : Out :=
  s.actRead fun k =>
    match tfind k.dev.rma.work work with
    | some x =>
      if x.fired && x.outcome == some status && !(status == St.ok && doneWaits k.dev work x) then workDone k work x status
      else k.dev
    | none => k.dev

/-! ### Commands (Table 15-22, Table 15-23) -/

/-- Run a command that fails by a list of checks, each with its status and descriptor offset, or has its effect. -/
def cmdChecks (d : Dev) (ring index op : Nat) (checks : Cmd → List (Bool × (Nat × Nat))) (f : Dev → Cmd → Dev) : Dev :=
  match d.cmdReady ring index op with
  | none => d
  | some c =>
    match firstFail (checks c) with
    | some (st, off) => cmdFail d ring index st off
    | none => f d c

def cTenant (c : Cmd) : Nat := fld c.desc 8 2

/-- MDOM_CREATE (R438). -/
def execMdomCreate (ring index : Nat) (s : State) : Out :=
  s.act fun d => cmdChecks d ring index 0x20
    (fun c => [(decide (fld c.desc 0x12 2 < 4096), (St.fieldInvalid, 0x12)), (cTenant c != 0, (St.fieldInvalid, 8)),
      (fld c.desc 0x18 8 != 0, (St.fieldInvalid, 0x18)),
      ((tfind d.rma.domains (fld c.desc 0x12 2)).isNone, (St.fieldInvalid, 0x12))])
    fun d c =>
      cmdDone (d.onRma fun x => { x with domains := tins x.domains (fld c.desc 0x12 2) { tenant := cTenant c, key := fld c.desc 0x18 8 } })
        ring index St.ok 0

/-- The domain a command names belongs to its tenant. -/
def domainChecks (d : Dev) (c : Cmd) : List (Bool × (Nat × Nat)) :=
  let m := tfind d.rma.domains (fld c.desc 0x12 2)
  [(m.isSome, (St.fieldInvalid, 0x12)), ((m.map (·.tenant)).getD 0 == cTenant c, (St.tenantMismatch, 8))]

/-- MDOM_REKEY (R304). -/
def execMdomRekey (ring index : Nat) (s : State) : Out :=
  s.act fun d => cmdChecks d ring index 0x21
    (fun c => (fld c.desc 0x18 8 != 0, (St.fieldInvalid, 0x18)) :: domainChecks d c)
    fun d c =>
      cmdDone (d.onRma fun x => { x with domains := tupd x.domains (fld c.desc 0x12 2) fun m => { m with key := fld c.desc 0x18 8 } })
        ring index St.ok 0

/-- MDOM_DELETE (R306): every registration is revoked; it completes when the last is INVALID. -/
def execMdomDelete (ring index : Nat) (s : State) : Out :=
  s.act fun d => cmdChecks d ring index 0x22 (domainChecks d) fun d c =>
    let dom := fld c.desc 0x12 2
    let d := d.onCmd ring index fun c => { c with phase := .running }
    let d := d.onRma fun x =>
      { x with
        domains := tupd x.domains dom fun m => { m with deleting := m.deleting ++ [(ring, index)] }
        regs := x.regs.map fun p => if p.2.domain = dom then (p.1, { p.2 with state := .draining }) else p }
    domainGone ((d.rma.regs.filter fun p => p.2.domain == dom).foldl (fun d p => regDrained d p.1) d) dom

/-- A tier-1 range lies wholly in runs of a tenant; for WRITE, in runs that a load command has opened (R305). -/
def tier1RangeOk (d : Dev) (tenant a n : Nat) (write : Bool) : Bool :=
  let rs := d.obj.runs.filter fun p => runTier p.1 == 1 && p.2.tenant == tenant && !p.2.left &&
    (match p.2.use with | .freed => false | .load _ => true | _ => !write)
  let spans := rs.map fun p =>
    let lo := max (a / 4096) (runFrame p.1)
    let hi := min ((a + n) / 4096) (runFrame p.1 + p.2.count)
    hi - lo
  spans.sum == n / 4096

/-- REG_CREATE (R305). -/
def execRegCreate (ring index : Nat) (s : State) : Out :=
  s.act fun d => cmdChecks d ring index 0x23
    (fun c =>
      let b := c.desc
      let base := fld b 0x18 8
      let len := fld b 0x20 8
      let tgt := fld b 0x28 8
      let tier1 := fld b 0x15 1 == 1
      [(decide (1 ≤ fld b 0x14 1 ∧ fld b 0x14 1 ≤ 3), (St.fieldInvalid, 0x14)), (decide (fld b 0x15 1 ≤ 1), (St.fieldInvalid, 0x15)),
       (base % 4096 == 0, (St.fieldInvalid, 0x18)),
       (len % 4096 == 0 && decide (4096 ≤ len ∧ len ≤ 2 ^ 40) && decide (base + len ≤ 2 ^ 64), (St.fieldInvalid, 0x20))] ++
      domainChecks d c ++
        [(!(d.rma.regs.any fun p => p.2.domain == fld b 0x12 2 && decide (base < p.2.base + p.2.length) &&
            decide (p.2.base < base + len)), (St.fieldInvalid, 0x18)),
         (tgt % 4096 == 0 && (if tier1 then tier1RangeOk d (cTenant c) tgt len (bitOf (fld b 0x14 1) 1)
            else !(inHdmWindow d tgt len)), (St.fieldInvalid, 0x28)),
         ((d.reg (fld b 0x10 2)).isNone, (St.busy, 0x10))])
    fun d c =>
      let b := c.desc
      let r : Registration :=
        { domain := fld b 0x12 2, base := fld b 0x18 8, length := fld b 0x20 8, read := bitOf (fld b 0x14 1) 0,
          write := bitOf (fld b 0x14 1) 1, tier1 := fld b 0x15 1 == 1, target := fld b 0x28 8 }
      cmdDone (d.onRma fun x => { x with regs := tins x.regs (fld b 0x10 2) r }) ring index St.ok 0

/-- REG_REVOKE (R306). -/
def execRegRevoke (ring index : Nat) (s : State) : Out :=
  s.act fun d => cmdChecks d ring index 0x24
    (fun c =>
      let g := d.reg (fld c.desc 0x10 2)
      let m := g.bind fun g => tfind d.rma.domains g.domain
      [(g.isSome, (St.fieldInvalid, 0x10)), ((m.map (·.tenant)).getD 0 == cTenant c, (St.tenantMismatch, 8))])
    fun d c =>
      let i := fld c.desc 0x10 2
      let d := d.onCmd ring index fun c => { c with phase := .running }
      regDrained (d.onReg i fun g => { g with state := .draining, revoking := g.revoking ++ [(ring, index)] }) i

/-- REGISTRATION_DRAINED (R306). -/
def execRegistrationDrained (reg : Nat) (s : State) : Out := s.act fun d => regDrained d reg

/-- TRIG_ARM (R311, R312). -/
def execTrigArm (ring index : Nat) (s : State) : Out :=
  s.act fun d => cmdChecks d ring index 0x25
    (fun c =>
      let t := d.trig (fld c.desc 0x10 2)
      [(fld c.desc 0x14 4 != 0xFFFFFFFF, (St.lengthInvalid, 0x14)), (fld c.desc 0x14 4 != 0, (St.fieldInvalid, 0x14)),
       (t.state == .idle || t.tenant == cTenant c, (St.tenantMismatch, 8)),
       (t.state == .idle || t.state == .fired, (St.busy, 0x10))])
    fun d c =>
      let i := fld c.desc 0x10 2
      let l := (d.trig i).list
      let d := d.onRma fun x => { x with work := l.foldl (fun w k => tupd w k fun y => { record := y.record }) x.work }
      let d := d.onTrig i fun t =>
        { state := .armed, tenant := cTenant c, threshold := fld c.desc 0x14 4, repeat_ := bitOf (fld c.desc 0x12 1) 0,
          list := t.list }
      cmdDone d ring index St.ok 0

/-- TRIG_DISARM: the counter becomes IDLE and its list's requests are freed. -/
def execTrigDisarm (ring index : Nat) (s : State) : Out :=
  s.act fun d => cmdChecks d ring index 0x26
    (fun c =>
      let t := d.trig (fld c.desc 0x10 2)
      [(t.state == .idle || t.tenant == cTenant c, (St.tenantMismatch, 8)), (t.state != .firing, (St.busy, 0x10))])
    fun d c =>
      let i := fld c.desc 0x10 2
      cmdDone ((freeWork d (d.trig i).list).onTrig i fun _ => {}) ring index St.ok 0

/-- The checks of R313 on a posted work request. -/
def workChecks (d : Dev) (c : Cmd) : List (Bool × Nat) :=
  let r := c.buf
  let t := d.trig (wkCounter r)
  let g := d.reg (wkReg r)
  let len := (g.map (·.length)).getD 0
  let mf := wkOp r == 3
  let dim := codeDim (fld r 0x35 1)
  let owner := (g.bind fun g => tfind d.rma.domains g.domain).map (·.tenant)
  let allOnes := wkLen r == 0xFFFFFFFF
  [(wkTenant r == cTenant c, St.tenantMismatch),
   (decide (1 ≤ wkOp r ∧ wkOp r ≤ 3) && decide (fld r 1 1 < 4) && decide (fld r 4 4 < 2 ^ 20) && fld r 0x2A 2 == 0 &&
      decide (fld r 0x28 2 < 4096) && bitsOf (fld r 0x30 4) 16 15 == 0 && fld r 0x3C 4 == 0 &&
      bitsOf (fld r 0x2C 4) 16 15 == 0, St.fieldInvalid),
   (t.state == .armed && t.tenant == wkTenant r, St.fieldInvalid),
   (!mf || !(t.list.any fun w => match tfind d.rma.work w with | some k => wkOp k.record == 3 | none => false), St.fieldInvalid),
   ((g.map (·.state)) == some .valid && owner == some (wkTenant r), St.fieldInvalid),
   (mf || allOnes || decide (1 ≤ wkLen r ∧ wkLen r ≤ 262144), St.fieldInvalid),
   (wkOp r == 1 || fld r 0x28 2 == 0, St.fieldInvalid),
   (wkOp r != 2 || (fld r 0x2C 4 == 0 && fld r 0x18 8 == 0 && fld r 0x20 8 == 0), St.fieldInvalid),
   (if mf then
      (match g with | some g => g.tier1 && g.write | none => false) && (fld r 0x34 1 == 0xFF || decide (1 ≤ fld r 0x34 1 ∧ fld r 0x34 1 ≤ 16)) &&
        dim != 0 && (fld r 0x36 2 == 0xFFFF || decide (1 ≤ fld r 0x36 2 ∧ fld r 0x36 2 ≤ 256)) && decide (fld r 0x38 2 ≤ fld r 0x3A 2 ∧ fld r 0x3A 2 < 16384) &&
        fld r 0x24 4 == 0 && (allOnes || fld r 0x36 2 == 0xFFFF || wkLen r == 48 + fld r 0x36 2 * (20 + 4 * dim))
    else allZero (cut r 0x34 8), St.fieldInvalid),
   -- a count field that is all ones is refused at the first check whose status is LENGTH_INVALID (R8)
   (!allOnes && (!mf || (fld r 0x34 1 != 0xFF && fld r 0x36 2 != 0xFFFF)), St.lengthInvalid),
   (decide (wkOffset r + (if mf then t.threshold else 1) * wkLen r ≤ len), St.lengthInvalid),
   (decide (d.rma.work.length < 262144), St.busy)]

/-- The lowest number that no posted work request has. -/
def freeWorkNo (d : Dev) : Nat := ((List.range (d.rma.work.length + 1)).find? fun i => (tfind d.rma.work i).isNone).getD 0

/-- WORK_POST (R313): the request enters the record store and the counter's list; its number is the result. -/
def execWorkPost (ring index : Nat) (s : State) : Out :=
  s.act fun d =>
    match d.cmdReady ring index 0x27 with
    | none => d
    | some c =>
      match firstFail (workChecks d c) with
      | some st => cmdFailState d ring index st
      | none =>
        let w := freeWorkNo d
        let d := d.onRma fun x => { x with work := tins x.work w { record := c.buf.take 64 } }
        cmdDone (d.onTrig (wkCounter c.buf) fun t => { t with list := t.list ++ [w] }) ring index St.ok w

/-- CONN_CLOSE (R290): every OPEN connection of a tenant to a peer closes; it completes when each is in QUARANTINE. -/
def execConnClose (ring index : Nat) (s : State) : Out :=
  s.act fun d =>
    match d.cmdReady ring index 0x28 with
    | none => d
    | some c =>
      let l := (d.tr.conns.filter fun p => p.2.state == .open_ && p.2.tenant == cTenant c && p.2.peer == fld c.desc 0x14 4).map (·.1)
      let d := d.onCmd ring index fun c => { c with phase := .running, result := l.length }
      closeDone (l.foldl (fun d i => closeSend (d.onConn i fun c => { c with wantClose := true }) i) d)

end Sys2Proof.Machine
end

