-- ==== Sys2Proof/Machine/Match.lean ====
section
/-! DEFINITION. Associative match (spec 09, 15, 21; commands MASK_PROFILE, TABLE_EDIT, HOLE_REPAIR, PREFIX_LOOKUP,
PREFIX_COPY_SCAN, MATCH_SCRUB, MATCH_ENABLE_DONE). -/

namespace Sys2Proof.Machine

/-- MASK_PROFILE (R229): the mask and the link assignments on both Teasel dies. -/
def execMaskProfile (ring index : Nat) (s : State) : Out :=
  s.act fun d => cmdChecks d ring index 0x0A
    (fun c => [(decide (1 ≤ fld c.desc 0x10 1 ∧ fld c.desc 0x10 1 ≤ 63), (St.fieldInvalid, 0x10)),
      (d.mat.ready, (St.busy, 0x10))])
    fun d c =>
      let p := fld c.desc 0x10 1
      let links := bitIdx 32 (fld c.desc 0x28 4)
      cmdDone (d.onMat fun m =>
        { m with profiles := tput 0 m.profiles p (fld c.desc 0x14 20),
                 assigned := links.foldl (fun t l => tput 0 t l p) m.assigned }) ring index St.ok 0

/-! ### TABLE_EDIT (R429) -/

/-- An edit record (Table 15-12). -/
structure Edit where
  op : Nat
  part : Nat
  prio : Nat
  value : Nat
  care : Nat
  action : Nat
deriving DecidableEq, Repr

def readEdit (b : Bytes) : Edit :=
  { op := fld b 0 1, part := fld b 1 1, prio := fld b 2 2, value := fld b 8 20, care := fld b 0x1C 20, action := fld b 0x30 8 }

/-- The entry an edit record describes: a prefix entry's CARE and PRIORITY are the node's (R241, R429). -/
def Edit.entry (r : Edit) : MEntry :=
  if r.part = 0 then { value := r.value, care := r.care, action := r.action, prio := r.prio }
  else { value := r.value, care := prefixCare, action := r.action, prio := actKind r.action }

/-- What an edit record's own fields must satisfy (Table 15-12, R228, R233, R237, R320, R321). -/
def editFieldsOk (b : Bytes) (r : Edit) : Bool :=
  let keyOk := if r.part = 0 then bitsOf r.value 156 4 == 2 && bitsOf r.value 0 60 == 0
    else bitsOf r.value 156 4 == 1 && bitsOf r.value 152 4 == 0 && bitsOf r.value 128 8 == 0
  let careOk := if r.part = 0 then (r.value &&& (keyOnes ^^^ r.care)) == 0 else r.care == 0 && r.prio == 0
  let actionOk := if r.part = 0 then
      bitsOf r.action 0 27 == 0 && decide (3 ≤ bitsOf r.action 45 3) && decide (2 ≤ bitsOf r.action 34 11)
    else if r.op = 2 then decide (actKind r.action < 2)
    else decide (actKind r.action < 2) && bitsOf r.action 50 12 == 0 && bitsOf r.value 136 16 != 0 &&
      (if actKind r.action = 0 then actObject r.action != 0 else bitsOf r.action 36 14 == 0)
  decide (1 ≤ r.op) && decide (r.op ≤ (if r.part = 0 then 3 else 2)) && decide (r.part < 2) && fld b 4 4 == 0 && fld b 0x38 8 == 0 &&
    keyOk && careOk && (r.part == 0 && r.op == 2 || actionOk)

/-- What one edit record comes to. -/
inductive Edited where
  | applied (k : Chip) | fails (status : Nat) | waits

/-- Where a rule of the same PRIORITY, VALUE and CARE stands. -/
def ruleAt (d : Dev) (r : Edit) : Option Nat :=
  ((dieTab d 28).find? fun p => decide (p.1 < (partRange d 0).2) && p.2.prio == r.prio && p.2.value == r.value &&
    p.2.care == r.care).map (·.1)

/-- Where the prefix entry of a key and kind stands in the array. -/
def prefixAt (d : Dev) (key kind : Nat) : Option Nat :=
  ((dieTab d (prefixDie key)).find? fun p => decide ((partRange d 1).1 ≤ p.1) && p.2.value == key && actKind p.2.action == kind).map
    (·.1)

/-- A classification edit. -/
def classEdit (k : Chip) (r : Edit) : Edited :=
  let both := fun (i : Nat) (e : Option MEntry) => Edited.applied (writeEntry (writeEntry k 28 i e) 29 i e)
  if r.op = 1 then
    if partFull k.dev 28 0 then .fails St.busy
    else match insertEntry k 0 r.entry with | some k => .applied k | none => .waits
  else
    match ruleAt k.dev r with
    | none => .fails St.fieldInvalid
    | some i => if r.op = 2 then both i none else both i (some r.entry)

/-- A prefix edit (R237, R240, R243). -/
def prefixEdit (k : Chip) (r : Edit) : Edited :=
  let die := prefixDie r.value
  let kind := actKind r.action
  let d := k.dev
  match prefixAt d r.value kind with
  | some i => .applied (writeEntry k die i (if r.op = 1 then some r.entry else none))
  | none =>
    let bucket := bucketOf d r.value
    match readBucket k bucket with
    | (none, _) => .fails St.uncorrectable
    | (some b, k) =>
      let rs := bucketRecs b
      let same := rs.find? fun x => x.1 == r.value && actKind x.2 == kind
      let rest := rs.filter fun x => some x != same
      if r.op = 2 then
        if same.isNone then .fails St.fieldInvalid
        else .applied ((writeBucket k bucket (bucketBytes rest)).onDev fun d => d.onMat fun m => { m with overflow := m.overflow - 1 })
      else if same.isSome then .applied (writeBucket k bucket (bucketBytes (rest ++ [(r.value, r.action)])))
      else if partFull d die 1 then
        if 8 ≤ rs.length then .fails St.busy
        else .applied ((writeBucket k bucket (bucketBytes (rs ++ [(r.value, r.action)]))).onDev fun d =>
          d.onMat fun m => { m with overflow := m.overflow + 1 })
      else match insertEntry k 1 r.entry with | some k => .applied k | none => .waits

def editOne (k : Chip) (b : Bytes) : Edited :=
  let r := readEdit b
  if editFieldsOk b r then (if r.part = 0 then classEdit k r else prefixEdit k r) else .fails St.fieldInvalid

/-- Apply records from number `n` on, until one fails or waits for a hole. -/
def editRun (ring index count : Nat) (buf : Bytes) : Nat → Nat → Chip → Chip
  | 0, n, k => k.onDev fun d => cmdDone d ring index St.ok n
  | f + 1, n, k =>
    if count ≤ n then k.onDev fun d => cmdDone d ring index St.ok n
    else
      match editOne k (cut buf (64 * n) 64) with
      | .applied k => editRun ring index count buf f (n + 1) k
      | .fails st => k.onDev fun d => cmdFailAt d ring index st n n
      | .waits => k.onDev fun d => d.onMat fun m => { m with edits := m.edits ++ [(ring, index, n)] }

/-- TABLE_EDIT (R429): from its first record, or from the one that waited for a hole. -/
def execTableEdit (ring index : Nat) (s : State) : Out :=
  s.actMem fun k =>
    match k.dev.cmdReady ring index 0x0B with
    | none => k
    | some c =>
      let count := fld c.desc 0x10 2
      let fails := fun (st off : Nat) => k.onDev fun d => cmdFail d ring index st off
      if count = 0 ∨ 4096 < count then fails St.fieldInvalid 0x10
      else if fld c.desc 0x20 4 ≠ 64 * count then fails St.lengthInvalid 0x20
      else if k.dev.mat.ready = false then fails St.busy 0x10
      else
        let done := match k.dev.mat.edits.find? fun e => e.1 == ring && e.2.1 == index with | some e => e.2.2 | none => 0
        let k := k.onDev fun d => d.onMat fun m => { m with edits := dropWhere (fun e => e.1 == ring && e.2.1 == index) m.edits }
        editRun ring index count c.buf (count + 1) done k

/-- HOLE_REPAIR (R242): a hole is carried into the run that used up its last one. -/
def execHoleRepair (die partition : Nat) (s : State) : Out :=
  s.actMem fun k =>
    if die < 28 ∨ 29 < die ∨ 1 < partition then k
    else
      let n := (die - 28) * 2 + partition
      match (tget [] k.dev.mat.repairs n).head? with
      | none => k
      | some run =>
        let r := partRange k.dev partition
        let ws := repairWrites (dieTab k.dev die) r.1 r.2 (holeSpacing k.dev) run
        let dies := if partition = 0 then [28, 29] else [die]
        let k := k.onDev fun d => d.onMat fun m => { m with repairs := tmod [] m.repairs n fun l => l.drop 1 }
        if (runHoles (dieTab k.dev die) (holeSpacing k.dev) run).isEmpty then dies.foldl (fun k x => writeEntries k x ws) k else k

/-! ### PREFIX_LOOKUP (R238, R251) -/

/-- The key of number `n` of a lookup. -/
def lookupKey (c : Cmd) (n : Nat) : Nat := prefixKey (fld c.desc 8 2) (fld c.buf (16 * n) 16)

/-- A scan of a die's copies is under way. -/
def scanRuns (d : Dev) (die : Nat) : Bool :=
  d.mat.lookups.any fun l => l.scanning && l.asks.isNone &&
    match d.cmd l.ring l.index with | some c => prefixDie (lookupKey c l.next) == die | none => false

/-- Read the header of a tier-2 page for a lookup's next key, when a read is free for it (R239). -/
def headerAsk (k : Chip) (ring index page : Nat) : Chip :=
  let d := k.dev
  k.when (tier2Up d && uioRoom d 1 && !(d.obj.uioReads.any fun r => r.use == .header ring index page)) fun k =>
    k.onDev fun d => uioReadBytes d 3 (.header ring index page) (d.entry page).frame 128

/-- Bound of a lookup's run: each key is answered once, or once more when tier 2 cannot be reached for its header. -/
def lookupFuel (count : Nat) : Nat := 2 * count + 1

/-- Answer keys until all are answered or one waits for the scan of a lost die. `scan` is the die whose scan serves. -/
def lookupRun (ring index : Nat) (c : Cmd) (count : Nat) (scan : Option Nat) (got : Option (Nat × Option Bytes)) :
    Nat → Nat → Nat → Bytes → Chip → Chip
  | 0, _, _, _, k => k
  | f + 1, n, hits, out, k =>
    if count ≤ n then
      k.onDev fun d => (cmdDone d ring index St.ok hits).onCmd ring index fun x => { x with data := [(fld c.desc 0x28 8, out)] }
    else
      let key := lookupKey c n
      let die := prefixDie key
      if k.dev.ready die ∨ scan = some die then
        let r := prefixAnswer k key (!(k.dev.ready die)) got
        match r.1.asks with
        | some page =>
          if tier2Up k.dev = false then lookupRun ring index c count scan (some (page, none)) f n hits out k
          else headerAsk (r.2.onDev fun d => d.onMat fun m =>
            { m with lookups := m.lookups ++
                [{ ring := ring, index := index, next := n, hits := hits, out := out, scanning := scan.isSome, asks := some page }] })
            ring index page
        | none => lookupRun ring index c count scan none f (n + 1) (hits + b2n r.1.hit) (out ++ foundBytes r.1) r.2
      else
        k.onDev fun d => d.onMat fun m =>
          { m with lookups := m.lookups ++
              [{ ring := ring, index := index, next := n, hits := hits, out := out, scanning := !(scanRuns d die) }] }

/-- The answer to a header read: the lookup that waits for it goes on with its key. -/
def lookupResume (k : Chip) (ring index page : Nat) (header : Option Bytes) : Chip :=
  match k.dev.mat.lookups.find? (fun l => l.ring == ring && l.index == index && l.asks == some page), k.dev.cmd ring index with
  | some l, some c =>
    let count := fld c.desc 0x10 2
    lookupRun ring index c count (if l.scanning then some (prefixDie (lookupKey c l.next)) else none) (some (page, header))
      (lookupFuel count) l.next l.hits l.out (k.onDev fun d => d.onMat fun m => { m with lookups := m.lookups.erase l })
  | _, _ => k

/-- PREFIX_LOOKUP (R238). -/
def execPrefixLookup (ring index : Nat) (s : State) : Out :=
  s.actMem fun k =>
    match k.dev.cmdReady ring index 0x0C with
    | none => k
    | some c =>
      let count := fld c.desc 0x10 2
      let fails := fun (st off : Nat) => k.onDev fun d => cmdFail d ring index st off
      if k.dev.mat.lookups.any (fun l => l.ring == ring && l.index == index) then
        match k.dev.mat.lookups.find? fun l => l.ring == ring && l.index == index with
        | some { asks := some page, .. } =>
          if tier2Up k.dev then headerAsk k ring index page else lookupResume k ring index page none
        | _ => k
      else if count = 0 ∨ 4096 < count then fails St.fieldInvalid 0x10
      else if fld c.desc 0x20 4 ≠ 16 * count then fails St.lengthInvalid 0x20
      else if fld c.desc 0x30 4 < 16 * count then fails St.lengthInvalid 0x30
      else lookupRun ring index c count none none (lookupFuel count) 0 0 [] k

/-- Serve one lookup at the end of a scan. -/
def scanServe (die : Nat) (k : Chip) (l : Lookup) : Chip :=
  match k.dev.cmd l.ring l.index with
  | none => k
  | some c =>
    let count := fld c.desc 0x10 2
    lookupRun l.ring l.index c count (some die) none (lookupFuel count) l.next l.hits l.out k

/-- PREFIX_COPY_SCAN: a scan of a lost die's copies ends and answers what had waited when it began; the rest waits for the
next scan, which begins now (R251). -/
def execPrefixCopyScan (die : Nat) (s : State) : Out :=
  s.actMem fun k =>
    if k.dev.lost die then
      let on := fun (l : Lookup) => l.asks.isNone && match k.dev.cmd l.ring l.index with
        | some c => prefixDie (lookupKey c l.next) == die
        | none => false
      let served := k.dev.mat.lookups.filter fun l => l.scanning && on l
      let k := k.onDev fun d => d.onMat fun m =>
        { m with lookups := (m.lookups.filter fun l => !(l.scanning && on l)).map fun l => if on l then { l with scanning := true } else l }
      served.foldl (scanServe die) k
    else k

/-- A Teasel die that runs again answers the lookups that waited for it (R251). -/
def lookupsReady (k : Chip) (die : Nat) : Chip :=
  let on := fun (l : Lookup) => l.asks.isNone && match k.dev.cmd l.ring l.index with
    | some c => prefixDie (lookupKey c l.next) == die
    | none => false
  (k.dev.mat.lookups.filter on).foldl (fun k l =>
    match k.dev.cmd l.ring l.index with
    | none => k
    | some c =>
      let count := fld c.desc 0x10 2
      lookupRun l.ring l.index c count none none (lookupFuel count) l.next l.hits l.out k)
    (k.onDev fun d => d.onMat fun m => { m with lookups := dropWhere on m.lookups })

/-- MATCH_SCRUB: every 10 ticks a Teasel die compares its next entry with the copy (R248, R250). -/
def execMatchScrub (die : Nat) (s : State) : Out :=
  s.actMem fun k =>
    let d := k.dev
    let at_ := tget 0 d.mat.scrubAt die
    k.when (d.ready die && d.mat.ready && decide (28 ≤ die) && decide (die ≤ 29) && d.due at_ 10) fun k =>
      let i := tget 0 k.dev.mat.scrubNext die
      let k := k.onDev fun d => (count d die 0x2420 1).onMat fun m =>
        { m with scrubNext := tput 0 m.scrubNext die ((i + 1) % dieEntries), scrubAt := tput 0 m.scrubAt die d.now }
      let slot := matIndex die i
      let note := fun (d : Dev) (kind : Nat) => mismatch d die i kind
      match readCopy k slot with
      | (none, k) => k.onDev fun d => note (if (tfind d.mat.entries slot).isSome then putEntry d slot none else d) 4
      | (some b, k) =>
        if tfind k.dev.mat.entries slot = readCopyBytes b then k
        else k.onDev fun d =>
          fixedCount (note ((putEntry d slot (readCopyBytes b)).onMbr fun m => { m with scrubs := d.now :: m.scrubs }) 1) die 44 1

/-! ### Match enable (R538) -/

/-- The slices of the two copy areas: on the two lowest Yarrow dies with DONE and a slice whose channels are ready, its
lowest such slice. -/
def matAreas (d : Dev) : List Nat :=
  ((List.range 16).filterMap fun die =>
    if tget false d.lp.done die then ((List.range 4).map (· + 4 * die)).find? (sliceReady d) else none).take 2

/-- Zero a copy area and its overflow table: every slot and bucket is invalid. -/
def clearArea (k : Chip) (slice : Nat) : Chip := zeroNow k (slice * sliceBytes) (33554432 + 256 * 2 ^ k.dev.regs.overflowLog2)

/-- MATCH_ENABLE_DONE: it sets READY or FAILED (R538). -/
def execMatchEnableDone (s : State) : Out :=
  s.actMem fun k =>
    k.when (k.dev.regs.matEnable && !k.dev.mat.ready && !k.dev.mat.failed) fun k =>
      let areas := matAreas k.dev
      if areas.length < 2 then k.onDev fun d => d.onMat fun m => { m with failed := true }
      else
        (areas.foldl clearArea k).onDev fun d => d.onMat fun m =>
          { m with ready := true, areas := areas, entries := [], profiles := [], assigned := [], repairs := [], overflow := 0 }

end Sys2Proof.Machine
end

