-- ==== Sys2Proof/Machine/MoveOps.lean ====
section
/-! DEFINITION. Migration, prefetch and the outcomes of unordered I/O as operations (spec 06, 14). -/

namespace Sys2Proof.Machine

/-! ### Placement (R158, R159, R163) -/

/-- A move is over: the policy as it stands now may move the page again (R165). -/
def moveOver (d : Dev) (m : Move) : Dev :=
  placeCheck (directMove (d.onObj fun x => { x with moves := dropWhere (·.id == m.id) x.moves }) m.key) (keyObj m.key)

def Dev.onMove (d : Dev) (id : Nat) (f : Move → Move) : Dev := d.onObj fun x => { x with moves := modWhere (·.id == id) f x.moves }

/-- The destination of a move is freed. -/
def freeDst (d : Dev) (m : Move) : Dev := match m.dst with | some (t, f, _) => dropRun d t f | none => d

/-- A move's rank: Table 06-4, then the order of PLACE, then layer and page (R163). -/
def moveRank (d : Dev) (m : Move) : Nat :=
  let seq := match d.objAt (keyObj m.key) with | some o => o.placeSeq | none => 0
  m.priority * 2 ^ 128 + seq * 2 ^ 64 + keyLayer m.key * 2 ^ 18 + keyPage m.key

def leastRank (d : Dev) : List Move → Option Move
  | [] => none
  | m :: l => match leastRank d l with
    | none => some m
    | some n => if moveRank d m ≤ moveRank d n then some m else some n

/-- A page's tier-1 run lies in its slice's transit reserve. -/
def inTransit (d : Dev) (e : Entry) : Bool :=
  let t := tget 0 d.obj.transit (e.frame / (48 * granFrames))
  e.tier == 1 && t != 0 && e.frame / granFrames % 48 == t

/-- The tier a move is to bring its page to, as the policy stands now (R165). A page just sealed goes to tier 2 under T2 and
EVICT, and under PREFER_T1 out of the transit reserve; under PIN_T1 it stays (R161; DESIGN CHOICE for a pinned page whose
reservation lay in the transit reserve, notes/assumptions/102.md). -/
def moveTarget (d : Dev) (m : Move) : Nat :=
  let e := d.entry m.key
  let p := policyOf d (keyObj m.key)
  if m.priority = 6 then e.tier
  else if m.priority = 1 then (if p = 0 ∨ (p = 1 ∧ inTransit d e = false) then 1 else 2)
  else if m.priority = 5 ∧ p = 1 then 1
  else directedTier p e.tier

/-- What a queued move can do now. -/
inductive MovePlan where
  /-- nothing is left to do -/
  | drop
  /-- the page is not in service -/
  | wait
  /-- no tier-1 room -/
  | noRoom
  /-- the tier-2 path is down, or the window has no free run (Table 16-8) -/
  | blocked
  | toTier2 | toTier1 | within
deriving DecidableEq, Repr

def tier1Room (d : Dev) (m : Move) (n : Nat) : Bool :=
  match pageSlice d m.key with
  | none => false
  | some s =>
    (allocTier1 d s n (keyTenant m.key) false false (.move m.id)).isSome &&
      (m.priority == 6 || policyOf d (keyObj m.key) != 1 || decide (n + granFrames ≤ freeOrdinary d s (keyTenant m.key)))

def movePlan (d : Dev) (m : Move) : MovePlan :=
  let e := d.entry m.key
  let t := moveTarget d m
  if e.state = .absent ∨ e.state = .shared then .drop
  else if e.state ≠ .sealed then .wait
  else if t = e.tier ∧ m.priority ≠ 6 then .drop
  else if t = 2 then
    if tier2Up d && (allocTier2 d e.count (keyTenant m.key) (.move m.id)).isSome then
      (if e.tier = 1 then .toTier2 else .drop)
    else .blocked
  else if e.tier = 2 then
    if !(tier2Up d) then .blocked
    else if !(uioRoom d e.count) then .wait
    else if tier1Room d m e.count then .toTier1 else .noRoom
  else if tier1Room d m e.count then .within else .noRoom

/-- The source of a move cannot be read: the move stops and the page is recovered (Table 07-4). -/
def sourceFails (d : Dev) (m : Move) : Dev := suspectPage (moveOver (freeDst d m) m) m.key false

/-- Start a move that can go on. -/
def moveStart (k : Chip) (m : Move) : Chip :=
  let d := k.dev
  let e := d.entry m.key
  let d := blockEnd d 1 (keyObject m.key) (keyTenant m.key)
  let g := keyGeom k m.key e.run
  let read := fun (go : Bytes → Chip) =>
    match entryBad k e g with
    | b :: bs => (⟨sourceFails (badFound d (b :: bs) 2 (keyTenant m.key) St.uncorrectable) m, k.mem⟩ : Chip)
    | [] => go (readEntry k e)
  match movePlan d m with
  | .toTier2 =>
    read fun img =>
      let img := storedPart img
      let n := framesFor img.length
      match allocTier2 d n (keyTenant m.key) (.move m.id) with
      | none => k
      | some (f, d) =>
        let d := uioWrite (noteCrc d m.key img) m.id f (uioWrites img.length) 0 img
        ⟨d.onMove m.id fun m => { m with dst := some (2, f, n), writes := uioWrites img.length, waitAt := none, told := false }, k.mem⟩
  | .toTier1 =>
    match allocTier1 d ((pageSlice d m.key).getD 0) e.count (keyTenant m.key) false false (.move m.id) with
    | none => k
    | some (f, d) =>
      let d := uioRead d 6 (.move m.id) e.frame e.count
      ⟨d.onMove m.id fun m => { m with dst := some (1, f, e.count), waitAt := none, told := false }, k.mem⟩
  | .within =>
    read fun img =>
      match allocTier1 d ((pageSlice d m.key).getD 0) e.count (keyTenant m.key) false false (.move m.id) with
      | none => k
      | some (f, d) =>
        match storeImage ⟨d, k.mem⟩ f img with
        | none => ⟨dropRun d 1 f, k.mem⟩
        | some k => k.onDev fun d => d.onMove m.id fun m => { m with dst := some (1, f, e.count), arrived := true, waitAt := none, told := false }
  | _ => ⟨d, k.mem⟩

/-- The moves a die may start. -/
def dieMoves (d : Dev) (die : Nat) : List Move :=
  d.obj.moves.filter fun m => !m.scrub && !m.recovery && m.dst.isNone && m.failedAt.isNone && pageDie d m.key == die

/-- What waits is noted: tier-1 room since when, and a blocked decision (R159, R447); what is settled is dropped. -/
def noteMove (d : Dev) (m : Move) : Dev :=
  let goesOn := d.onMove m.id fun m => { m with waitAt := none, told := false }
  match movePlan d m with
  | .drop => moveOver (blockEnd d 1 (keyObject m.key) (keyTenant m.key)) m
  | .noRoom => (blockEnd d 1 (keyObject m.key) (keyTenant m.key)).onMove m.id fun m => { m with waitAt := if m.waitAt.isSome then m.waitAt else some d.now }
  | .blocked => blockStart goesOn 1 (keyObject m.key) (keyTenant m.key)
  | .wait => goesOn
  | _ => blockEnd goesOn 1 (keyObject m.key) (keyTenant m.key)

def movable (d : Dev) (m : Move) : Bool :=
  match movePlan d m with | .toTier2 => true | .toTier1 => true | .within => true | _ => false

/-- The entry switches to a move's destination, and the old run leaves it (R62). -/
def moveSwitch (d : Dev) (m : Move) (tier frame count : Nat) : Dev :=
  let e := d.entry m.key
  let d := (leaveRun d e.run).setEntry m.key { e with frame := frame, count := count, tier := tier }
  let d := d.onRun (runKey tier frame) fun r => { r with use := .image m.key }
  moveOver (dropStaleCopies d m.key) m

/-- A destination fails its check: it is freed, and the page is handled under R147 (R165). -/
def destinationBad (d : Dev) (m : Move) (check : Nat) : Dev := sourceFails (formatFault d m.key check) m

/-! ### Prefetch (R168 to R172) -/

/-- Demand reads that wait in a die's fetch queue. -/
def demandWaiting (d : Dev) (die : Nat) : Nat :=
  (d.attn.staged.filter fun c => c.die == die && !c.issued && c.ahead.isNone).length

/-- Prefetch reads outstanding on a die. -/
def prefetchOut (d : Dev) (die : Nat) : Nat :=
  (d.obj.copies.filter fun c => !c.arrived && pageDie d c.key == die).length +
    (d.attn.staged.filter fun c => c.die == die && c.issued && !c.ready && c.ahead.isSome).length

/-- A slice's prefetch area has, or will have once its freed runs are scrubbed, `n` frames in a row. -/
def areaWillFit (d : Dev) (slice n : Nat) : Bool :=
  let d := d.onObj fun x => { x with runs := x.runs.filter fun p => p.2.use != .freed }
  !(gapsIn d slice 0 n (areaOf d slice)).isEmpty

/-- Make room in a slice's prefetch area: copies without a reader go, oldest first (R169). -/
def copyRoom (slice n : Nat) : Nat → Dev → Dev
  | 0, d => d
  | f + 1, d =>
    if areaWillFit d slice n then d
    else
      match d.obj.copies.find? fun c => c.frame / (48 * granFrames) == slice && c.ready &&
          (match tfind d.obj.runs (runKey 1 c.frame) with | some r => r.refs == 0 | none => false) with
      | none => d
      | some c => copyRoom slice n f (dropCopy d c.id)

/-- Issue a prefetch copy of a tier-2 page (R168). Whether it is issued; copies released for it stay released (R169). -/
def issuePrefetch (d : Dev) (p : Prefetch) : Bool × Dev :=
  let e := d.entry p.key
  let s := (pageSlice d p.key).getD 64
  if e.state = .sealed ∧ e.tier = 2 ∧ tier2Up d = true ∧ uioRoom d e.count = true ∧
      (d.obj.copies.any fun c => c.key == p.key && c.srcFrame == e.frame) = false then
    let d := copyRoom s e.count d.obj.copies.length d
    match chooseGap d e.count (gapsIn d s 0 e.count (areaOf d s)) with
    | none => (false, d)
    | some (f, d) =>
      let id := d.obj.nextCopy
      let d := placeRun d 1 f e.count (keyTenant p.key) (.copy id)
      let c : Copy := { id := id, key := p.key, srcFrame := e.frame, srcTier := e.tier, frame := f, count := e.count, asked := p }
      let d := d.onObj fun x => { x with copies := x.copies ++ [c], nextCopy := id + 1 }
      (true, yarrow (uioRead d 6 (.copy id) e.frame e.count) (dieOfSlice s) 7 (s % 4) 1)
  else (false, d)

/-- A slice's staging quota in bytes (Table 06-2). -/
def stageQuota (d : Dev) (slice : Nat) : Nat :=
  (tget ({} : Composition) d.mbr.compositions ((sliceComp d slice).getD 64)).staging * 65536

/-- A layer's share of a slice's staging quota (R170). -/
def stageShare (d : Dev) (p : Prefetch) (slice : Nat) : Nat :=
  match d.objAt p.tenantObject with
  | none => 0
  | some o => stageQuota d slice / max 1 (min o.depth (o.layers - 1))

/-- Bytes of a slice's staging quota that staged pages with a property take (R170). -/
def stageUsed (d : Dev) (slice : Nat) (p : Staged → Bool) : Nat :=
  ((d.attn.staged.filter fun c => c.slice == slice && c.ahead.isSome && p c).map (·.size)).sum

/-- Pages of a layer are staged in ascending order (R170): an earlier page of the slice is still queued. -/
def stageLater (d : Dev) (die slice : Nat) (p : Prefetch) : Bool :=
  (tget [] d.obj.prefetch die).any fun q =>
    q.stage && q.tenantObject == p.tenantObject && q.near == p.near && decide (keyPage q.key < keyPage p.key) &&
      entrySlice d q.key (d.entry q.key) == slice

/-- Stage a page ahead of its layer's requests (R170, R171). -/
def issueStage (k : Chip) (die : Nat) (p : Prefetch) : Option Dev :=
  let d := k.dev
  let e := d.entry p.key
  let pending := (d.obj.copies.any fun c => c.key == p.key && !c.ready) ||
    (tget [] d.obj.prefetch die).any (fun q => q.key == p.key && !q.stage)
  if e.state ≠ .sealed ∨ pending = true ∨ (d.attn.staged.any fun c => c.die == die && c.key == p.key && !c.bad && !c.tierFail) = true then none
  else
    match pageSource d p.key e with
    | none => none
    | some (run, uio) =>
      let slice := entrySlice d p.key e
      let g := keyGeom k p.key e.run
      let size := g.raw + 128
      let used := stageUsed d slice fun c => keyObj c.key == keyObj p.key && keyLayer c.key == keyLayer p.key
      if stageLater d die slice p = false ∧ used + size ≤ stageShare d p slice ∧
          stageUsed d slice (fun _ => true) + size ≤ stageQuota d slice ∧
          bufferUsed d slice + size ≤ bufferBytes ∧ (uio = false ∨ uioRoom d (runFrames d run) = true) then
        let id := d.attn.nextStaged
        let d := newStaged d
          { id := id, die := die, slice := slice, key := p.key, valid := g.T, growing := false, run := run, uio := uio,
            size := size, ahead := some p.near, issued := true }
        some (yarrow (if uio then uioRead d 6 (.staged die id) (runFrame run) (runFrames d run) else d) die 7 (slice % 4) 1)
      else none

/-- A queued prefetch has nothing left to do. -/
def prefetchOver (d : Dev) (die : Nat) (p : Prefetch) : Bool :=
  let e := d.entry p.key
  e.state != .sealed ||
    (if p.stage then d.attn.staged.any fun c => c.die == die && c.key == p.key && !c.bad && !c.tierFail
     else e.tier != 2 || d.obj.copies.any fun c => c.key == p.key && c.srcFrame == e.frame)

/-- Queued prefetches, nearest layer first. -/
def nearFirst (l : List Prefetch) : List Prefetch :=
  (List.range 17).flatMap fun n => l.filter (·.near == n)

/-- Issue the first prefetch of a list that can be issued: it, and the state after. -/
def issueFirst (k : Chip) (die : Nat) : List Prefetch → Dev → Option Prefetch × Dev
  | [], d => (none, d)
  | p :: l, d =>
    let (ok, d) := if p.stage then (match issueStage ⟨d, k.mem⟩ die p with | some d => (true, d) | none => (false, d))
      else issuePrefetch d p
    if ok then (some p, d) else issueFirst k die l d

/-- A prefetch of a page leaves the queues. -/
def dropPrefetch (d : Dev) (key : Nat) : Dev :=
  d.onObj fun x => { x with prefetch := x.prefetch.map fun p => (p.1, dropWhere (·.key == key) p.2) }

/-! ### PAGE_INSPECT and TIER2_EXTENTS: their last steps (R152, R425) -/

/-- PAGE_INSPECT writes the entry, and more when there is more (Table 15-20). -/
def inspectWrite (d : Dev) (ring index : Nat) (c : Cmd) (status : Nat) (out : Bytes) : Dev :=
  if fld c.desc 0x28 4 < out.length then cmdFail d ring index St.lengthInvalid 0x28
  else
    d.onCmd ring index fun x =>
      { x with phase := .done, status := status, result := out.length, data := [(fld c.desc 0x20 8, out)] }

/-- PAGE_INSPECT with an image at hand. -/
def inspectImage (d : Dev) (ring index : Nat) (c : Cmd) (entry : Bytes) (key limit : Nat) (g : Geom) (grows : Bool) (img : Bytes) : Dev :=
  if bitOf (fld c.desc 0x15 1) 1 then
    inspectWrite d ring index c St.ok (entry ++ (if grows then img.take g.growing else storedPart img))
  else if grows then
    if growPageOk img key g then inspectWrite d ring index c St.ok (entry ++ img.take 128 ++ growRaw g img)
    else inspectWrite (suspectPage d key false) ring index c St.pageCrcMismatch entry
  else
    match pageImageCheck img limit key g with
    | .ok raw => inspectWrite (verified d key (128 + raw.length)) ring index c St.ok (entry ++ img.take 128 ++ raw)
    | .error n => inspectWrite (suspectPage (formatFault d key n) key false) ring index c St.pageCrcMismatch entry

/-- The page key a PAGE_INSPECT names, and its entry's bytes. -/
def inspectKey (c : Cmd) : Nat := mkKey (fld c.desc 8 2) (fld c.desc 0x10 4) (fld c.desc 0x14 1) (fld c.desc 0x18 4)

/-- The extents of a TIER2_EXTENTS list, in bytes. -/
def extentList (c : Cmd) : List (Nat × Nat) :=
  (List.range (fld c.desc 0x10 1)).map fun i => (fld c.buf (16 * i) 8, fld c.buf (16 * i + 8) 4 * gib)

/-- Window offset at which an extent of a list starts. -/
def extentStart (l : List (Nat × Nat)) (i : Nat) : Nat := ((l.take i).map (·.2)).sum

/-- An extent of the window stays at its position in a new list, in the list and in the window. -/
def extentKept (d : Dev) (l : List (Nat × Nat)) (i : Nat) : Bool :=
  l[i]? == d.obj.extents[i]? && extentStart l i == extentStart d.obj.extents i

/-- An extent of the window in force holds an allocated or freed run. -/
def extentHeld (d : Dev) (i : Nat) : Bool :=
  let lo := extentStart d.obj.extents i
  let hi := extentStart d.obj.extents (i + 1)
  d.obj.runs.any fun p => runTier p.1 == 2 && decide (4096 * runFrame p.1 < hi) &&
    decide (lo < 4096 * (runFrame p.1 + p.2.count))

/-- The first extent that a new list would remove or shrink while it holds a run (R152). -/
def extentKeeps (d : Dev) (l : List (Nat × Nat)) : Option Nat :=
  (List.range d.obj.extents.length).find? fun i => extentHeld d i && !(extentKept d l i)

/-- TIER2_EXTENTS: the new window is in force once every extent has been read, unless a run has come to lie in an extent that
it would remove (R152). A list of extents that have all been read now is reached again, whatever was reported of the list
before (DESIGN CHOICE, notes/assumptions/103.md). -/
def extentsDone (d : Dev) (ring index : Nat) (c : Cmd) : Dev :=
  if d.obj.uioReads.any (fun r => match r.use with | .extent a b _ => a == ring && b == index | _ => false) then d
  else
    let l := extentList c
    match extentKeeps d l with
    | some i => cmdFailAt d ring index St.busy i 0
    | none =>
      let fresh := (List.range l.length).all fun i => !(extentKept d l i)
      cmdDone (d.onObj fun x => { x with extents := l, pathUp := x.pathUp || fresh }) ring index St.ok ((l.map (·.2)).sum / gib)

/-! ### Boundary pages of forks in tier 2 (R57) -/

/-- The same page of another object. -/
def rekey (key obj : Nat) : Nat := mkKey (objTenant obj) (objId obj) (keyLayer key) (keyPage key)

/-- Read one tier-2 boundary page of a fork, when it is still to be read and there is room. -/
def forkRead (f : Fork) (d : Dev) (key : Nat) : Dev :=
  let own := d.ownerKey (rekey key f.parent)
  let e := d.entry own
  let use : UioUse := .fork f.ring f.index key
  if e.state = .sealed && e.tier == 2 && (copyFor d own).isNone && (tfind f.images key).isNone && f.failed.isNone &&
      (d.entry key).state == .absent && !(d.obj.uioReads.any fun r => r.use == use) && tier2Up d && uioRoom d e.count then
    uioRead d 3 use e.frame e.count
  else d

def forkAt (d : Dev) (ring index : Nat) : Option Fork := d.obj.forks.find? fun f => f.ring == ring && f.index == index

/-- Read what a fork still needs from tier 2. -/
def forkReads (d : Dev) (ring index : Nat) : Dev :=
  match forkAt d ring index with
  | none => d
  | some f => f.copies.foldl (forkRead f) d

/-- Change a fork in progress. -/
def Dev.onFork (d : Dev) (ring index : Nat) (g : Fork → Fork) : Dev :=
  d.onObj fun x => { x with forks := modWhere (fun f => f.ring == ring && f.index == index) g x.forks }

/-! ### Unordered I/O comes to its end (R154, R398, Table 06-5) -/

/-- A read whose work ended before it: what comes is discarded and counted (R124, R154). -/
def uioUnused (d : Dev) (r : UioRead) : Dev :=
  lateDiscard d 2 Config.clover (match tfind d.obj.runs r.run with | some u => u.tenant | none => 0) 0

/-- A summary read in tier 2 failed: the page is SUSPECT, its bound is +∞ for every row, and no request ends (R118). -/
def summaryFail (d : Dev) (q : Request) (slot die head page : Nat) : Dev :=
  let key := d.ownerKey (mkKey (aqTenant q.body) (aqObject q.body) (aqLayer q.body) page)
  let d := suspectPage d key false
  let wait := fun (p : Resolved) => { p with run := 0, waited := true }
  let run := match q.ctx die head with
    | some c => (match c.resolved.find? (·.page == page) with | some p => p.run | none => 0)
    | none => 0
  setBounds ((unrefRun d run).onCtx slot die head fun c => { c with resolved := modWhere (·.page == page) wait c.resolved })
    slot die head page (infBounds q.body)

/-- Moves whose run in tier 2 is written are read back for their check, as room comes (R165). -/
def readBacks (d : Dev) : Dev :=
  d.obj.moves.foldl (fun d m =>
    match m.dst with
    | some (2, f, n) =>
      if m.writes = 0 ∧ m.arrived = false ∧ m.scrub = false ∧ m.recovery = false ∧ uioRoom d n = true ∧ tier2Up d = true ∧
          (d.obj.uioReads.any fun r => r.use == .move m.id) = false then
        uioRead d 6 (.move m.id) f n
      else d
    | _ => d) d

/-- A read of tier 2 has failed or timed out, and what that does. -/
def uioFail (k : Chip) (r : UioRead) : Chip :=
  let unused := uioUnused k.dev r
  let k := k.onDev fun d => uioOver d r
  let d := k.dev
  match r.use with
  | .staged _ copy => ⟨d.onStaged copy fun c => { c with tierFail := true }, k.mem⟩
  | .summary serial slot die head page =>
    match d.request slot with
    | some q =>
      if q.serial = serial then ⟨summaryFail d q slot die head page, k.mem⟩ else ⟨uioOver unused r, k.mem⟩
    | none => ⟨uioOver unused r, k.mem⟩
  | .copy id =>
    match d.obj.copies.find? (·.id == id) with
    | none => k
    | some c => ⟨suspectPage (dropPrefetch (dropCopy d id) c.key) c.key false, k.mem⟩
  | .move id =>
    match d.obj.moves.find? (·.id == id) with
    | none => k
    | some m =>
      match m.dst with
      -- a failed read-back of the destination is handled as a write error (DESIGN CHOICE, notes/assumptions/104.md)
      | some (2, f, _) =>
        let d := logEv (freeDst d m) 0x0307 Config.clover (toLe 1 3 ++ toLe 8 (4096 * f))
        ⟨d.onMove id fun m => { m with dst := none, failedAt := some d.now }, k.mem⟩
      | _ => ⟨sourceFails d m, k.mem⟩
  | .recovery key => ⟨recoveryFetch d key, k.mem⟩
  | .fetch b _ node => ⟨sendNode d node 3 6 (pageImageMsg d b St.tierReadFailed 0 []), k.mem⟩
  | .fork ring index key =>
    match forkAt d ring index with
    | some f => ⟨suspectPage d (d.ownerKey (rekey key f.parent)) false, k.mem⟩
    | none => k
  | .inspect ring index =>
    match d.cmd ring index with
    | none => k
    | some c => ⟨inspectWrite (suspectPage d (d.ownerKey (inspectKey c)) false) ring index c St.tierReadFailed (entryBytes (d.entry (inspectKey c))), k.mem⟩
  | .extent ring index _ =>
    ⟨(cmdFailState d ring index St.tierReadFailed).onObj fun x =>
      { x with uioReads := x.uioReads.filter fun r => match r.use with | .extent a b _ => !(a == ring && b == index) | _ => true }, k.mem⟩
  | .shadow s key =>
    let d := d.onMbr fun m => { m with shadowings := tupd m.shadowings s fun w => { w with toSend := w.toSend.erase key } }
    let d := suspectPage d (d.ownerKey key) false
    ⟨shadowPump k s (d.obj.pages.length + 1) d, k.mem⟩
  | .header ring index page => lookupResume ⟨suspectPage d page false, k.mem⟩ ring index page none
  | .append held =>
    match d.attn.held.find? (·.id == held) with
    | none => k
    | some h =>
      let k := k.onDev fun d => suspectPage d (d.ownerKey h.key) false
      appendDone k h.bytes h.conn h.action (some h) St.tierReadFailed false

/-- The bytes of a prefetch copy or of a move arrive at a tier-1 run. -/
def landBytes (k : Chip) (frame : Nat) (img : Bytes) : Option Chip :=
  storeImage (k.onDev fun d => hubMove d (addrDie (4096 * frame)) (4096 * frame) img.length) frame img

/-- A read of tier 2 has brought its bytes. -/
def uioGood (k : Chip) (r : UioRead) (data : Bytes) : Chip :=
  let unused := uioUnused k.dev r
  let k := k.onDev fun d => uioOver d r
  let d := k.dev
  let img := padTo (4096 * r.parts) data
  match r.use with
  | .staged _ copy =>
    match d.attn.staged.find? (·.id == copy) with
    | none => k
    | some c =>
      let d := hubMove d c.die (4096 * (runFrame r.run)) img.length
      ⟨d.onStaged copy fun c => { c with image := img }, k.mem⟩
  | .summary serial slot die head page =>
    match d.request slot with
    | some q =>
      if q.serial = serial then
        ⟨setBounds (hubMove d die (4096 * (runFrame r.run)) data.length) slot die head page
          (imageBounds q.body (reqGeom d q.body) img head), k.mem⟩
      else ⟨uioOver unused r, k.mem⟩
    | none => ⟨uioOver unused r, k.mem⟩
  | .copy id =>
    match d.obj.copies.find? (·.id == id) with
    | none => k
    | some c =>
      match landBytes k c.frame img with
      | none => ⟨dropCopy d id, k.mem⟩
      | some k => k.onDev fun d => d.onObj fun x => { x with copies := modWhere (·.id == id) (fun c => { c with arrived := true }) x.copies }
  | .move id =>
    match d.obj.moves.find? (·.id == id) with
    | none => k
    | some m =>
      match m.dst with
      | some (1, f, _) =>
        match landBytes k f img with
        | none => ⟨(freeDst d m).onMove id fun m => { m with dst := none }, k.mem⟩
        | some k => k.onDev fun d => d.onMove id fun m => { m with arrived := true }
      | some (2, f, _) =>
        match pageImageCheck img img.length m.key (keyGeom k m.key (d.entry m.key).run) with
        | .ok _ => ⟨(verified d m.key (storedPart img).length).onMove id fun m => { m with arrived := true }, k.mem⟩
        | .error n => ⟨destinationBad d { m with dst := some (2, f, 0) } n, k.mem⟩
      | _ => k
  | .recovery key =>
    match tfind d.obj.recoveries key with
    | some q =>
      if q.active && q.fetching.isNone && (d.entry key).suspect then
        ⟨recoverSealed (hubMove d (pageDie d key) (4096 * runFrame r.run) img.length) key img img.length (keyGeom k key r.run), k.mem⟩
      else k
    | none => k
  | .fetch b key node =>
    let q := fetchSealed d b key img.length (keyGeom k key r.run) img
    ⟨sendNode q.1 node 3 6 q.2, k.mem⟩
  | .fork ring index key =>
    ⟨forkReads (d.onFork ring index fun f => { f with images := tins f.images key img }) ring index, k.mem⟩
  | .inspect ring index =>
    match d.cmd ring index with
    | none => k
    | some c =>
      let key := d.ownerKey (inspectKey c)
      ⟨inspectImage d ring index c (entryBytes (d.entry (inspectKey c))) key img.length (keyGeom k key r.run) false img, k.mem⟩
  | .extent ring index _ =>
    match d.cmd ring index with
    | none => k
    | some c => ⟨extentsDone d ring index c, k.mem⟩
  | .shadow s key =>
    match tfind d.mbr.shadowings s with
    | none => k
    | some w =>
      let d := d.onMbr fun m => { m with shadowings := tupd m.shadowings s fun w => { w with toSend := w.toSend.erase key } }
      let own := d.ownerKey key
      let d := match pageImageCheck img img.length own (keyGeom k own r.run) with
        | .ok _ => sendImage (verified d own (storedPart img).length) w.shadow key false (storedPart img)
        | .error n => suspectPage (formatFault d own n) own false
      ⟨shadowPump k s (w.toSend.length + 1) d, k.mem⟩
  | .header ring index page => lookupResume k ring index page (some (data.take 128))
  | .append held =>
    match d.attn.held.find? (·.id == held) with
    | none => k
    | some h => appendGo k h.bytes h.conn h.action h.arrived (some h) (some img)

/-- A prefetch whose read the path took with it waits again, unless a trigger has queued it anew (R173). -/
def requeue (d : Dev) (die : Nat) (p : Prefetch) : Dev :=
  d.onObj fun x => { x with prefetch := tmod [] x.prefetch die fun l => if l.any (fun q => q.key == p.key && q.stage == p.stage) then l else p :: l }

/-- What a read of tier 2 was for, when the path goes down: the work ends without waiting, and no page becomes SUSPECT
(Table 06-5). -/
def uioLost (k : Chip) (r : UioRead) : Chip :=
  let k := k.onDev fun d => uioOver d r
  let d := k.dev
  match r.use with
  | .staged _ copy =>
    match d.attn.staged.find? (·.id == copy) with
    | none => k
    | some c =>
      let d := dropStaged (((c.joined.map (·.1)).eraseDups).foldl (fun d s => requestEnd d s St.tierReadFailed) d) copy
      ⟨match c.ahead with
        | some near => requeue d c.die { tenantObject := keyObj c.key, key := c.key, stage := true, near := near }
        | none => d, k.mem⟩
  | .summary serial slot _ _ _ =>
    match d.request slot with
    | some q => ⟨if q.serial = serial then requestEnd d slot St.tierReadFailed else d, k.mem⟩
    | none => k
  | .copy id =>
    match d.obj.copies.find? (·.id == id) with
    | none => k
    | some c => ⟨requeue (dropCopy d id) (pageDie d c.key) c.asked, k.mem⟩
  | .recovery key => ⟨recoveryFetch d key, k.mem⟩
  | .fetch b _ node => ⟨sendNode d node 3 6 (pageImageMsg d b St.tierReadFailed 0 []), k.mem⟩
  | .fork ring index _ => ⟨d.onFork ring index fun f => { f with failed := some St.tierReadFailed }, k.mem⟩
  | .inspect ring index =>
    match d.cmd ring index with
    | none => k
    | some c => ⟨inspectWrite d ring index c St.tierReadFailed (entryBytes (d.entry (inspectKey c))), k.mem⟩
  | .extent ring index _ => ⟨cmdFailState d ring index St.tierReadFailed, k.mem⟩
  | .header ring index page => lookupResume k ring index page none
  | .append held =>
    match d.attn.held.find? (·.id == held) with
    | none => k
    | some h => appendDone k h.bytes h.conn h.action (some h) St.tierReadFailed false
  | .move _ => k
  | .shadow _ _ => k

/-- Moves and scrubs that use the path pause: what they wrote is given up. -/
def pauseMove (d : Dev) (m : Move) : Dev :=
  let usesPath := m.scrub || m.recovery ||
    (match m.dst with | some (t, _, _) => !m.arrived && (t == 2 || (d.entry m.key).tier == 2) | none => false)
  if !usesPath then d
  else if m.scrub then
    match m.dst with
    | some (t, f, _) =>
      (d.onRun (runKey t f) fun r => { r with scrubbing := false }).onObj fun x => { x with moves := dropWhere (·.id == m.id) x.moves }
    | none => d
  else if m.recovery then recoveryFails (moveOver (freeDst d m) m) m.key
  else (freeDst d m).onMove m.id fun m => { m with dst := none, writes := 0 }

/-- The tier-2 path goes down: one event, and everything that waits for it ends or pauses (Table 06-5). -/
def tier2Lost (k : Chip) : Chip :=
  let k := if k.dev.obj.extents.isEmpty then k else k.onDev fun d => logEv d 0x0307 Config.clover (toLe 1 1 ++ toLe 8 0)
  let k := k.dev.obj.uioReads.foldl uioLost k
  k.onDev fun d => d.obj.moves.foldl pauseMove d

/-- The tier-2 path returns: one event; what paused goes on. -/
def tier2Back (k : Chip) : Chip :=
  let k := if k.dev.obj.extents.isEmpty then k else k.onDev fun d => logEv d 0x0307 Config.clover (toLe 1 2 ++ toLe 8 0)
  ⟨(k.dev.mbr.shadowings.map (·.1)).foldl (fun d s => shadowPump k s (d.obj.pages.length + 1) d) k.dev, k.mem⟩

/-- Carry out a change that may take the tier-2 path down or bring it back. -/
def withPath (k : Chip) (f : Dev → Dev) : Chip :=
  let up := tier2Up k.dev
  let k := k.onDev f
  if up && !(tier2Up k.dev) then tier2Lost k else if !up && tier2Up k.dev then tier2Back k else k

end Sys2Proof.Machine
end

