-- ==== Sys2Proof/Machine/CfgCmds.lean ====
section
/-! DEFINITION. Node configuration commands: granules, tier-2 extents, compositions, routing tables, scheduler records
(spec 15, R422 to R425, R428; spec 12, R322, R334; spec 13, R378, R379). -/

namespace Sys2Proof.Machine

/-- A check of a command's field. -/
def fieldOk (ok : Bool) (off : Nat) : Bool × (Nat × Nat) := (ok, (St.fieldInvalid, off))

/-- A command goes on running. -/
def cmdRuns (d : Dev) (ring index : Nat) : Dev := d.onCmd ring index fun c => { c with phase := .running }

/-! ### GRANULE_CONFIG (R183, R212, R424) -/

/-- The granules a GRANULE_CONFIG names. -/
def grans (c : Cmd) : List Nat := (List.range (fld c.desc 0x12 1)).map (· + fld c.desc 0x11 1)

/-- A granule of a slice holds an allocated or freed run, a prefetch copy or a running job's rows. -/
def granHeld (d : Dev) (slice g : Nat) : Bool :=
  let f := granFirst slice g
  d.obj.runs.any fun p => runTier p.1 == 1 && decide (runFrame p.1 < f + granFrames) && decide (f < runFrame p.1 + p.2.count)

/-- A job that is queued or runs touches a granule of a slice. -/
def jobTouches (d : Dev) (slice g : Nat) : Bool :=
  d.row.jobs.any fun j => (j.entries.flatMap enOperands).any fun u => unitGranule u == slice * 48 + g

/-- A granule may change kind (R183, R212). -/
def granMayChange (d : Dev) (slice g : Nat) : Bool :=
  !(granHeld d slice g) && !(jobTouches d slice g) && tget 0 d.obj.transit slice != g

def granuleChecks (d : Dev) (c : Cmd) : List (Bool × (Nat × Nat)) :=
  let slice := fld c.desc 0x10 1
  let first := fld c.desc 0x11 1
  let n := fld c.desc 0x12 1
  [fieldOk (decide (1 ≤ n ∧ n + first ≤ 48)) 0x12, fieldOk (decide (slice < 64)) 0x10,
   fieldOk (decide (32 ≤ first ∧ first < 48)) 0x11, fieldOk (decide (fld c.desc 0x13 1 < 2)) 0x13,
   (sliceReady d slice && d.ready (dieOfSlice slice), (St.busy, 0x10)),
   ((grans c).all (granMayChange d slice), (St.busy, 0x11))]

/-- The granule that is to become a bank-op granule next has its rows filled with zeros, by row operations of the scrubbing
class (R183, R214). -/
def granuleFill (d : Dev) (slice : Nat) : Dev :=
  match tfind d.lp.changing slice with
  | some { toBankOp := true, todo := g :: _, filled := false, .. } =>
    d.when (!(d.row.jobs.any fun j => j.use == .granule slice g)) fun d =>
      jobAdd d (.granule slice g) 0 (fillEntries 3 ((slice * 48 + g) * granUnits) granUnits) []
  | _ => d

/-- No write to a range waits, for the host or for a row operation. -/
def rangeSettled (d : Dev) (a n : Nat) : Bool :=
  (filteredLines d a n).isEmpty && !(rangeBusy d a n) &&
    !(d.hif.waiting.any fun w => decide (w.addr < a + n) && decide (a < w.addr + w.data.length))

/-- One granule has been rewritten for its new kind: it is all zero, scrubbed, and open for allocation (R183). It stays closed
while a host line filter holds a line of it, whose back-invalidation is sent, or a write to it waits. -/
def granuleDone (k : Chip) (slice : Nat) : Chip :=
  match tfind k.dev.lp.changing slice with
  | none => k
  | some ch =>
    match ch.todo with
    | [] => k
    | g :: rest =>
      let a := (slice * 48 + g) * gib
      if ch.toBankOp && !ch.filled then k.onDev fun d => granuleFill d slice
      else if !(rangeSettled k.dev a gib) then k.onDev fun d => (filteredLines d a gib).foldl sendBisnp d
      else
        (if ch.toBankOp then k else zeroNow k a gib).onDev fun d =>
          let d := d.onLp fun l =>
            { l with
              bankOp := tput false l.bankOp (slice * 48 + g) ch.toBankOp
              changing := if rest.isEmpty then tdel l.changing slice
                else tins l.changing slice { ch with todo := rest, filled := false } }
          if rest.isEmpty then cmdDone d ch.ring ch.index St.ok ch.named else granuleFill d slice

/-- GRANULE_CONFIG (R424): it waits while another change runs on the slice; a granule already of the kind counts as
changed. -/
def execGranuleConfig (ring index : Nat) (s : State) : Out :=
  s.act fun d => cmdChecks d ring index 0x01 (granuleChecks d) fun d c =>
    let slice := fld c.desc 0x10 1
    let to_ := fld c.desc 0x13 1 == 1
    let n := fld c.desc 0x12 1
    let todo := (grans c).filter fun g => isBankOp d (slice * 48 + g) != to_
    if (tfind d.lp.changing slice).isSome then d
    else if todo.isEmpty then cmdDone d ring index St.ok n
    else
      let ch : GranuleChange := { ring := ring, index := index, toBankOp := to_, todo := todo, named := n }
      granuleFill ((cmdRuns d ring index).onLp fun l => { l with changing := tins l.changing slice ch }) slice

/-- GRANULE_KIND_CHANGE_DONE (R183). -/
def execGranuleKindChangeDone (slice : Nat) (s : State) : Out :=
  s.actMem fun k => k.when (decide (slice < 64) && k.dev.ready (dieOfSlice slice)) fun k => granuleDone k slice

/-! ### TIER2_EXTENTS (R151, R152, R425) -/

/-- An extent record is well formed. -/
def extentOk (b : Bytes) (i : Nat) : Bool :=
  fld b (16 * i) 8 % gib == 0 && decide (1 ≤ fld b (16 * i + 8) 4) && decide (fld b (16 * i + 8) 4 ≤ 262144) &&
    fld b (16 * i + 12) 4 == 0

/-- TIER2_EXTENTS (R425): every extent that is new in the list is read first. -/
def execTier2Extents (ring index : Nat) (s : State) : Out :=
  s.actMem fun k => withPath k fun d => cmdChecks d ring index 0x02 (fun c => [fieldOk (decide (fld c.desc 0x10 1 ≤ 64)) 0x10]) fun d c =>
    let l := extentList c
    match (List.range l.length).find? fun i => !(extentOk c.buf i) with
    | some i => cmdFailAt d ring index St.fieldInvalid i 0
    | none =>
      let fresh := (List.range l.length).filter fun i => !(extentKept d l i)
      if 262144 * gib < (l.map (·.2)).sum then cmdFailState d ring index St.fieldInvalid
      else
        match extentKeeps d l with
        | some i => cmdFailAt d ring index St.busy i 0
        | none =>
          if !fresh.isEmpty && !d.cxlUp then cmdFailState d ring index St.tierReadFailed
          else if !(uioRoom d fresh.length) then d
          else
            let d := cmdRuns d ring index
            extentsDone (fresh.foldl (fun d i => uioIssue d 3 (.extent ring index i) [((l.getD i (0, 0)).1, 64)]) d) ring index c

/-! ### COMPOSITION_BIND (R21 to R24, R155, R379) -/

def comp (d : Dev) (c : Nat) : Composition := tget {} d.mbr.compositions c

/-- Slices a composition takes: those it binds, and those of a restart that waits. -/
def takenSlices (k : Composition) : List Nat := k.slices ++ (match k.restarting with | some (l, _) => l | none => [])

/-- A granule of a slice is whole and free: no run lies in it and it is not changing kind. -/
def granFree (d : Dev) (slice g : Nat) : Bool := !(granHeld d slice g) && granOpen d slice g

/-- The slice holds a run of a tenant that is neither freed nor a prefetch copy; a run in tier 2 counts for the slice on
which its page group is placed (R24; DESIGN CHOICE, notes/assumptions/63.md). -/
def sliceHolds (d : Dev) (slice tenant : Nat) : Bool :=
  d.obj.runs.any fun p => p.2.tenant == tenant &&
    match p.2.use with
    | .freed => false
    | .copy _ => false
    | .image k | .reserve k | .load k =>
      if runTier p.1 = 1 then runFrame p.1 / (48 * granFrames) == slice else !p.2.left && pageSlice d k == some slice
    | .move _ => runTier p.1 == 1 && runFrame p.1 / (48 * granFrames) == slice

/-- The areas a slice gets when a composition binds it: the transit reserve, and the prefetch area (R155). A slice that
has them keeps them. None when it has no free granules for them. -/
def slicePlan (d : Dev) (slice prefetch : Nat) : Option (Nat × List Nat) :=
  let t := tget 0 d.obj.transit slice
  let area := (tget [] d.obj.prefetchArea slice).take prefetch
  let free := (List.range 48).filter fun g => g != 0 && g != t && !((tget [] d.obj.prefetchArea slice).contains g) && granFree d slice g
  let t? := if t = 0 then free.find? fun g => !(isBankOp d (slice * 48 + g)) else some t
  match t? with
  | none => none
  | some t =>
    let more := (free.filter (· != t)).take (prefetch - area.length)
    if area.length + more.length = prefetch then some (t, area ++ more) else none

/-- Checks of a binding against the node's state. -/
def bindState (d : Dev) (c : Cmd) : List (Bool × (Nat × Nat)) :=
  let n := fld c.desc 0x10 1
  let l := bitIdx 64 (fld c.desc 0x18 8)
  let old := comp d n
  let shares := ((d.mbr.compositions.filter fun p => p.1 != n).map fun p => p.2.share * p.2.slices.length).sum
  let id := fld c.desc 0x14 4
  [fieldOk (l.isEmpty || (d.mbr.compositions.all fun p => p.1 == n || p.2.id != id)) 0x14,
   (old.slices.isEmpty || old.tenant == cTenant c, (St.tenantMismatch, 8)),
   fieldOk (l.all fun s => sliceReady d s && bitOf d.regs.arrays (dieOfSlice s)) 0x18,
   fieldOk (decide (shares + fld c.desc 0x20 4 * l.length ≤ 54800)) 0x20,
   (l.all fun s => d.mbr.compositions.all fun p => p.1 == n || !((takenSlices p.2).contains s), (St.busy, 0x18)),
   ((old.slices.filter fun s => !(l.contains s)).all fun s => !(sliceHolds d s (cTenant c)), (St.busy, 0x18)),
   (l.all fun s => (slicePlan d s (fld c.desc 0x11 1)).isSome, (St.busy, 0x18))]

def bindChecks (d : Dev) (c : Cmd) : List (Bool × (Nat × Nat)) :=
  [fieldOk (decide (fld c.desc 0x10 1 < 64)) 0x10, fieldOk (decide (fld c.desc 0x11 1 ≤ 8)) 0x11,
   fieldOk (decide (fld c.desc 0x12 1 ≤ 64)) 0x12, fieldOk (fld c.desc 0x14 4 != 0) 0x14,
   fieldOk (decide (fld c.desc 0x20 4 ≤ 54800)) 0x20, fieldOk (decide (fld c.desc 0x24 2 ≤ 16384)) 0x24] ++
    bindState d c ++ [((comp d (fld c.desc 0x10 1)).restarting.isNone, (St.busy, 0x10))]

/-- A slice leaves its composition: its areas become ordinary frames, its prefetch copies go. -/
def sliceLeaves (d : Dev) (s : Nat) : Dev :=
  let d := (d.obj.copies.filter fun x => x.frame / (48 * granFrames) == s).foldl (fun d x => dropCopy d x.id) d
  d.onObj fun x => { x with transit := tdel x.transit s, prefetchArea := tdel x.prefetchArea s }

/-- A slice gets its areas; prefetch copies in granules it gives up go. -/
def sliceJoins (prefetch : Nat) (d : Dev) (s : Nat) : Dev :=
  match slicePlan d s prefetch with
  | none => d
  | some (t, area) =>
    let lost := (tget [] d.obj.prefetchArea s).filter fun g => !(area.contains g)
    let d := (d.obj.copies.filter fun x => lost.any fun g => x.frame / granFrames == s * 48 + g).foldl
      (fun d x => dropCopy d x.id) d
    d.onObj fun x => { x with transit := tins x.transit s t, prefetchArea := tput [] x.prefetchArea s area }

/-- R447, Table 16-8 kind 2: the prefetch depth the runtime set for an object cannot be served on its slices. -/
def depthCheck (d : Dev) (obj : Nat) : Dev :=
  match d.objAt obj with
  | none => d
  | some o =>
    match compIndex d o.composition with
    | none => d
    | some n =>
      let k := comp d n
      let holds := k.slices.any fun s => o.groups.any fun g => g.2 == s && groupHeld d obj (g.1 / 16384) (g.1 % 16384)
      if o.depthSet && holds && (k.prefetch == 0 || k.staging == 0)
      then blockStart d 2 (objId obj) (objTenant obj) else blockEnd d 2 (objId obj) (objTenant obj)

/-- The guarantee buckets of a composition are brought up to now, before its rate changes (R327). -/
def settleGuarantee (d : Dev) (n : Nat) : Dev :=
  let rate := guaranteeRate d n
  d.onFab fun f =>
    let f' := fun t p =>
      let b : Bucket := { tokens := tokensNow (tget {} f.guarantees (p * 64 + n)) rate 6553600 d.now, at_ := d.now }
      tins t (p * 64 + n) b
    { f with guarantees := (List.range 32).foldl f' f.guarantees }

/-- A binding takes effect, and its command completes with the composition's generation. -/
def bindApply (d : Dev) (ring index : Nat) (c : Cmd) (l : List Nat) (restart : Bool) : Dev :=
  let n := fld c.desc 0x10 1
  let old := comp d n
  let d := settleGuarantee d n
  let d := (old.slices.filter fun s => !(l.contains s)).foldl sliceLeaves d
  let d := l.foldl (sliceJoins (fld c.desc 0x11 1)) d
  let gen := m32 (old.generation + b2n restart)
  let bound : Composition :=
    { id := fld c.desc 0x14 4, tenant := cTenant c, slices := l, groupRun := max (fld c.desc 0x24 2) 1, generation := gen,
      prefetch := fld c.desc 0x11 1, staging := fld c.desc 0x12 1, share := fld c.desc 0x20 4, indices := old.indices,
      rotation := old.rotation, preferMirror := old.preferMirror, gossipAt := old.gossipAt }
  let now_ : Composition := if l.isEmpty then { generation := gen } else bound
  let d := d.onMbr fun m => { m with compositions := tput {} m.compositions n now_ }
  let d := shareCheck d
  let d := (d.obj.objs.map (·.1)).foldl depthCheck d
  cmdDone d ring index St.ok gen

/-- COMPOSITION_BIND: a binding of an unbound index takes effect at once; on a bound one a restart begins (R379). -/
def execCompositionBind (ring index : Nat) (s : State) : Out :=
  s.act fun d => cmdChecks d ring index 0x03 (bindChecks d) fun d c =>
    let n := fld c.desc 0x10 1
    let l := bitIdx 64 (fld c.desc 0x18 8)
    if (comp d n).slices.isEmpty then bindApply d ring index c l false
    else
      (cmdRuns d ring index).onMbr fun m =>
        { m with compositions := tmod {} m.compositions n fun k => { k with restarting := some (l, c.desc, ring, index) } }

/-- COMPOSITION_RESTART_DONE (R379): once no request of the composition runs. A binding that the node's state no longer
allows ends its command and leaves the old binding. -/
def execCompositionRestartDone (comp_ : Nat) (s : State) : Out :=
  s.act fun d =>
    match (comp d comp_).restarting with
    | none => d
    | some (l, desc, ring, index) =>
      d.when (d.firmware && !(d.attn.requests.any fun q => q.2.composition == comp_)) fun d =>
        let c : Cmd := ((d.cmd ring index).map fun c => { c with desc := desc }).getD { index := index, desc := desc }
        let d := d.onMbr fun m => { m with compositions := tmod {} m.compositions comp_ fun k => { k with restarting := none } }
        let d := dropSlots d fun x => x.composition == comp_
        match firstFail (bindState d c) with
        | some (st, off) => cmdFail d ring index st off
        | none => bindApply d ring index c l true

/-- COMPOSITION_FENCE (R378). -/
def execCompositionFence (ring index : Nat) (s : State) : Out :=
  s.act fun d => cmdChecks d ring index 0x04
    (fun c =>
      let n := fld c.desc 0x10 1
      [fieldOk (decide (n < 64)) 0x10, fieldOk (!(comp d n).slices.isEmpty) 0x10,
       ((comp d n).tenant == cTenant c, (St.tenantMismatch, 8))])
    fun d c =>
      let n := fld c.desc 0x10 1
      let x := fld c.desc 0x14 4
      let d := d.onMbr fun m =>
        { m with compositions := tmod {} m.compositions n fun k => { k with fences := k.fences.filter (· != x) ++ [x] } }
      let d := requestsEnd d St.epochStale fun i q =>
        q.composition == n && !(d.slot i).local_ && (d.slot i).requester == x
      cmdDone d ring index St.ok 0

/-! ### ROUTE_TABLE (R274, R428) -/

/-- Write values at consecutive keys. -/
def putAll {α : Type} [DecidableEq α] (dflt : α) (t : Tab α) : Nat → List α → Tab α
  | _, [] => t
  | k, v :: l => putAll dflt (tput dflt t k v) (k + 1) l

/-- ROUTE_TABLE. -/
def execRouteTable (ring index : Nat) (s : State) : Out :=
  s.act fun d => cmdChecks d ring index 0x08
    (fun c =>
      let first := fld c.desc 0x12 2
      let n := fld c.desc 0x14 2
      [fieldOk (decide (1 ≤ n ∧ n + first ≤ 1024)) 0x14, fieldOk (decide (fld c.desc 0x10 1 < 2)) 0x10,
       fieldOk (decide (first < 1024)) 0x12, (d.regs.links != 0, (St.busy, 0))])
    fun d c =>
      let es := (List.range (fld c.desc 0x14 2)).map fun i => fld c.buf (8 * i) 8
      match (List.range es.length).find? fun i => bitsOf (es.getD i 0) 43 15 != 0 with
      | some i => cmdFailAt d ring index St.fieldInvalid i 0
      | none =>
        let d := d.onFab fun f =>
          if fld c.desc 0x10 1 = 0 then { f with group := putAll 0 f.group (fld c.desc 0x12 2) es }
          else { f with member := putAll 0 f.member (fld c.desc 0x12 2) es }
        cmdDone d ring index St.ok 0

/-! ### SCHED_CONFIG (R322, R331 to R334) -/

/-- A subscriber record (Table 12-2). -/
def readSub (b : Bytes) : SubRec :=
  { weight := fld b 0 2, composition := fld b 2 1, rate := fld b 4 4, burst := fld b 8 2 }

def subOk (port : Nat) (b : Bytes) : Bool :=
  let r := readSub b
  decide (1 ≤ r.weight ∧ r.weight ≤ 255) && (r.composition == 0xFF || (decide (r.composition < 64) && decide (port < 32))) &&
    fld b 3 1 == 0 && fld b 10 6 == 0 &&
    (if r.rate = 0 then r.burst == 0 else decide (r.rate ≤ 65535) && decide (1 ≤ r.burst ∧ r.burst ≤ 4096))

/-- A port service record (Table 12-3). -/
def serviceOk (b : Bytes) : Bool := ((List.range 5).all fun i => fld b i 1 != 0) && fld b 5 3 == 0

/-- A policer record (Table 12-4). -/
def policerOk (b : Bytes) : Bool :=
  decide (fld b 0 1 < 2) && fld b 1 3 == 0 && decide (fld b 4 4 ≤ 54800) && decide (1 ≤ fld b 8 2 ∧ fld b 8 2 ≤ 4096) &&
    fld b 10 6 == 0

/-- Write a subscriber record; its shaper keeps its tokens, capped at the new depth (R322). -/
def writeSub (port : Nat) (now : Nat) (f : Fabric) (p : Nat × Bytes) : Fabric :=
  let k := subKey port p.1
  let old : SubRec := tget {} f.subs k
  let r := readSub p.2
  let t := tokensNow (tget {} f.shapers k) old.rate (old.burst * 102400) now
  let b : Bucket := { tokens := min t ((r.burst * 102400 : Nat) : Int), at_ := now }
  { f with subs := tput {} f.subs k r, shapers := tput {} f.shapers k b }

/-- Write a policer record (R332, R334). -/
def writePolicer (now : Nat) (f : Fabric) (p : Nat × Bytes) : Fabric :=
  let x : Policer := tget {} f.policers p.1
  let en := bitOf (fld p.2 0 1) 0
  let depth := fld p.2 8 2 * 102400
  let t : Int := if x.enable then min (tokensNow x.bucket x.rate (x.burst * 102400) now) (depth : Int) else (depth : Int)
  let b : Bucket := if en then { tokens := t, at_ := now } else {}
  { f with policers := tput {} f.policers p.1 { x with enable := en, rate := fld p.2 4 4, burst := fld p.2 8 2, bucket := b } }

def schedChecks (c : Cmd) : List (Bool × (Nat × Nat)) :=
  let kind := fld c.desc 0x10 1
  let first := fld c.desc 0x12 2
  let n := fld c.desc 0x14 2
  let size := if kind = 0 then 2048 else if kind = 1 then 1 else 16384
  [fieldOk (decide (1 ≤ n ∧ n + first ≤ size)) 0x14, fieldOk (decide (kind < 3)) 0x10,
   fieldOk (if kind = 2 then fld c.desc 0x11 1 == 0 else decide (fld c.desc 0x11 1 ≤ 32)) 0x11,
   fieldOk (decide (first < size)) 0x12]

/-- SCHED_CONFIG: every record is checked before any is written. -/
def execSchedConfig (ring index : Nat) (s : State) : Out :=
  s.act fun d => cmdChecks d ring index 0x09 schedChecks fun d c =>
    let kind := fld c.desc 0x10 1
    let port := fld c.desc 0x11 1
    let size := if kind = 1 then 8 else 16
    let recs := (List.range (fld c.desc 0x14 2)).map fun i => (fld c.desc 0x12 2 + i, cut c.buf (size * i) size)
    let good := fun b => if kind = 0 then subOk port b else if kind = 1 then serviceOk b else policerOk b
    match (List.range recs.length).find? fun i => !(good (recs.getD i (0, [])).2) with
    | some i => cmdFailAt d ring index St.fieldInvalid i 0
    | none =>
      let d := d.onFab fun f =>
        if kind = 0 then recs.foldl (writeSub port d.now) f
        else if kind = 1 then
          { f with weights := (List.range 5).foldl (fun t i => tput 0 t (port * 8 + 3 + i) (fld c.buf i 1)) f.weights }
        else recs.foldl (writePolicer d.now) f
      cmdDone (shareCheck d) ring index St.ok 0

end Sys2Proof.Machine
end

