-- ==== Sys2Proof/Machine/Rings.lean ====
section
/-! DEFINITION. Rings, doorbell records, descriptor fetch, completion and event delivery (spec 14, 16). -/

namespace Sys2Proof.Machine

/-- BAR0 offset of a register of a ring's block (Table 21-1, Table 21-8). -/
def ringReg (ring off : Nat) : Nat := if ring = evtRing then 0x11000 + off else 0x10000 + 0x40 * ring + off

/-- RING_ENABLE (R405, R533): ENABLE set while the ring is DISABLED; in STOPPING and ERROR the write is refused. -/
def execRingEnable (ring : Nat) (s : State) : Out :=
  s.act fun d => d.when (d.bar && decide (ring ≤ evtRing)) fun d =>
    if d.boot.mode = .recovery then regIgnored d (ringReg ring 0x18) 8
    else
      match (d.ring ring).state with
      | .disabled => ringEnableOp d ring
      | .enabled => d
      | _ => regIgnored d (ringReg ring 0x18) 8

/-- RING_DISABLE (R405). -/
def execRingDisable (ring : Nat) (s : State) : Out :=
  s.act fun d => d.when (d.bar && decide (ring ≤ evtRing)) fun d =>
    if d.boot.mode = .recovery then regIgnored d (ringReg ring 0x18) 8 else ringDisableOp d ring

/-- RING_DRAINED (R405). -/
def execRingDrained (ring : Nat) (s : State) : Out :=
  s.act fun d => d.when (decide (ring ≤ evtRing)) fun d => d.onRing ring ringDrainedOp

/-- HIF_IRQ_WRITE (R534): COUNT outside 1 to 256 is refused (R528); otherwise the ring's next signalling decision
uses the new values. -/
def irqWriteOp (d : Dev) (ring : Nat) (v : Nat) : Dev :=
  let count := bitsOf v 32 9
  if count = 0 ∨ 256 < count then regIgnored d (ringReg ring 0x28) 8
  else
    ringSignal (d.onRing ring fun r =>
      { r with irqCount := count, irqDelay := bitsOf v 48 16, irqVector := bitsOf v 0 8 }) ring false

def execHifIrqWrite (ring : Nat) (value : BitVec 64) (s : State) : Out :=
  s.act fun d => d.when (d.bar && decide (ring ≤ evtRing)) fun d =>
    if d.boot.mode = .recovery then regIgnored d (ringReg ring 0x28) 8 else irqWriteOp d ring value.toNat

/-- DOORBELL_SNOOP (R407): a held line is answered RspIHitSE outside the scheduler (R319), dropped, and read again. -/
def execDoorbellSnoop (ring : Nat) (s : State) : Out :=
  s.act fun d => d.when (d.cxlUp && (d.ring ring).lineHeld) fun d =>
    let d := d.onHif fun h => { h with pin := some (.rspIHitSE (d.ring ring).dbAddr) }
    let d := d.onRing ring fun r => { r with lineHeld := false }
    if (d.ring ring).state = .enabled then doorbellReadIssue d ring else d

/-- A record read for a ring pair is a doorbell error (R408). -/
def pairDoorbellError (r : Ring) (rec_ : Bytes) : Bool :=
  !(allZero (rec_.drop 8)) || decide (ringEntries r.base < dist32 (fld rec_ 0 4) r.head) ||
    decide (dist32 r.prod r.cons < dist32 (fld rec_ 4 4) r.cons)

/-- A record read for the event ring is a doorbell error (R408). -/
def evtDoorbellError (r : Ring) (rec_ : Bytes) : Bool :=
  !(allZero (rec_.drop 4)) || decide (dist32 r.prod r.cons < dist32 (fld rec_ 0 4) r.cons)

/-- DOORBELL_READ (R407, R408): the values read are checked and accepted, or the ring enters ERROR. A CMD_TAIL accepted
earlier is not taken back. -/
def execDoorbellRead (ring : Nat) (record : Bytes) (s : State) : Out :=
  s.act fun d => d.when (d.cxlUp && (d.ring ring).reread) fun d =>
    let rec_ := padTo 64 record
    let d := d.onRing ring fun r => { r with reread := false }
    let r := d.ring ring
    if r.state ≠ .enabled then d
    else if ring = evtRing then
      if evtDoorbellError r rec_ then (ringError d ring 2).onRing ring fun r => { r with stopped := true }
      else d.onRing ring fun r => { r with cons := fld rec_ 0 4, lineHeld := true }
    else if pairDoorbellError r rec_ then ringError d ring 2
    else d.onRing ring fun r =>
      { r with tail := if dist32 (fld rec_ 0 4) r.head < dist32 r.tail r.head then r.tail else fld rec_ 0 4
               cons := fld rec_ 4 4, lineHeld := true }

/-- Commands whose descriptor read is outstanding. -/
def fetchingCount (r : Ring) : Nat := (r.cmds.filter (·.phase == .fetching)).length

/-- How many descriptors a ring may fetch now (R410). -/
def fetchable (r : Ring) (node : Nat) : Nat :=
  if r.state = .enabled then
    let waiting := dist32 r.tail r.head - fetchingCount r
    let room := ringEntries r.cplBase - dist32 r.prod r.cons - r.fetched.length
    min (min (min waiting room) (min (256 - r.fetched.length) (4096 - node))) 16
  else 0

/-- Commands fetched and not completed on the node. -/
def nodeCmds (d : Dev) : Nat := ((List.range 64).map fun n => (d.ring n).fetched.length).sum

/-- A command's number on its ring: commands of before a reset of the host interface are not mixed up with later ones. -/
def cmdNo (r : Ring) (index : Nat) : Nat := r.era * 4294967296 + index

/-- Fetch the descriptor at an index of a ring. -/
def fetchOne (ring : Nat) (d : Dev) (index : Nat) : Dev :=
  let r := d.ring ring
  ioRead (d.onRing ring fun r => { r with cmds := r.cmds ++ [{ index := cmdNo r index }] }) 2 (.descriptor ring (cmdNo r index))
    (ringAddr r.base + 64 * (index % ringEntries r.base)) 64

/-- DESCRIPTOR_FETCH (R410): the next ring in round-robin order that has work and room. -/
def execDescriptorFetch (s : State) : Out :=
  s.act fun d => d.when d.hostUp fun d =>
    let node := nodeCmds d
    match ((List.range 64).map fun k => (d.hif.rr + k) % 64).find? fun n => decide (0 < fetchable (d.ring n) node) with
    | none => d
    | some n =>
      let r := d.ring n
      let first := r.head + fetchingCount r
      let d := ((List.range (fetchable r node)).map fun k => m32 (first + k)).foldl (fetchOne n) d
      d.onHif fun h => { h with rr := (n + 1) % 64 }

/-- CMD_HEAD after descriptors have arrived: it passes every one copied in (R410). -/
def advanceHead : Nat → Ring → Ring
  | 0, r => r
  | k + 1, r =>
    match r.cmds.find? (·.index == cmdNo r r.head) with
    | some c => if c.phase == .fetching then r else advanceHead k { r with head := m32 (r.head + 1) }
    | none => r

/-- A descriptor read completes (R410), or fails (R400, R405): then no descriptor of the ring is read any more. -/
def descriptorArrive (d : Dev) (ring index : Nat) (ok : Bool) (data : Bytes) : Dev :=
  if ok then
    ((count d Config.clover 0x2800 1).onCmd ring index fun c => { c with phase := .waiting, desc := padTo 64 data }).onRing ring (advanceHead 256)
  else
    let d := d.onHif fun h => { h with reads := dropWhere (fun q => q.purpose.descriptorOf ring) h.reads }
    let d := d.onRing ring fun r => { r with cmds := dropWhere (·.phase == .fetching) r.cmds }
    if (d.ring ring).state = .enabled then ringError d ring 3 else d

/-- COMPLETION_WRITE (R399, R404, R443): result data, then the entry, then the signal. After a reset of the host
interface no completion is written (R415). -/
def execCompletionWrite (ring index : Nat) (s : State) : Out :=
  s.act fun d =>
    match d.cmd ring index with
    | none => d
    | some c =>
      if c.phase ≠ .done then d
      else
        let r := d.ring ring
        let gone := d.onRing ring fun r => { r with cmds := dropWhere (·.index == index) r.cmds }
        if r.state = .disabled ∨ index / 4294967296 ≠ r.era then gone
        else if d.hostUp then
          let n := ringEntries r.cplBase
          let d := postData (count gone Config.clover 0x2810 1) 2 c.data
          let d := hostPut d 2 (.write (ringAddr r.cplBase + 32 * (r.prod % n)) (completionBytes c r.head (phaseBit r.prod n)))
          ringSignal (ringWrote d ring) ring (bitOf (fld c.desc 1 1) 1)
        else d

/-- INTERRUPT_DELAY_EXPIRY (R413). -/
def execInterruptDelayExpiry (ring : Nat) (s : State) : Out := s.act fun d => ringSignal d ring false

/-- The event ring takes a record now (R414). -/
def evtRoom (d : Dev) : Bool :=
  let r := d.ring evtRing
  d.hostUp && r.state == .enabled && !r.stopped && decide (dist32 r.prod r.cons < ringEntries r.base)

/-- A record gets its SEQUENCE, written or lost (R445). -/
def evtSeq (d : Dev) : Dev := d.onEvt fun v => { v with seq := m32 (v.seq + 1) }

/-- Write one record to the event ring. -/
def evtWrite (d : Dev) (e : Event) : Dev :=
  let r := d.ring evtRing
  let n := ringEntries r.base
  let e := { e with seq := d.evt.seq }
  let d := evtSeq d
  ringSignal (ringWrote (hostPut (count d Config.clover 0x2820 1) 2
    (.write (ringAddr r.base + 64 * (r.prod % n)) (eventBytes e (phaseBit r.prod n)))) evtRing) evtRing false

/-- EVENT_RECORD_WRITE (R414): the oldest record is written; without room it is counted as lost, and when room appears
EVENT_OVERFLOW is written first. -/
def execEventRecordWrite (s : State) : Out :=
  s.act fun d =>
    if evtRoom d && decide (0 < d.evt.lost) then
      let o : Event := { code := 0x0103, die := Config.clover, seq := 0, tick := d.now, count := 1,
                         tenant := 0, status := 0, eflags := 0, data := toLe 4 d.evt.lost }
      evtWrite (d.onEvt fun v => { v with lost := 0 }) o
    else
      match d.evt.queue with
      | [] => d
      | e :: q =>
        if evtRoom d then evtWrite (d.onEvt fun v => { v with queue := q }) e
        else evtSeq (d.onEvt fun v => { v with queue := q, lost := v.lost + 1 })

/-- COUNTED_EVENT_FLUSH (R446): at most one record per die and code every 100,000 ticks. -/
def execCountedEventFlush (code die : Nat) (s : State) : Out :=
  s.act fun d =>
    let c := tget ({} : Counted) d.evt.counted (countedKey code die)
    match c.last with
    | none => d
    | some t =>
      if d.due t 100000 = true ∧ 0 < c.count then
        (pushEvent d code die c.count c.tenant c.status c.eflags c.data).onEvt fun e =>
          { e with counted := tput {} e.counted (countedKey code die) { last := some d.now } }
      else d

end Sys2Proof.Machine
end

