-- ==== Sys2Proof/Machine/CmdStart.lean ====
section
/-! DEFINITION. The start of a fetched command: ring order and FENCE, the common checks, and the read of its buffer
(spec 14, R411, R412; spec 15, R420 to R423). -/

namespace Sys2Proof.Machine

/-! ### Layouts (Tables 14-6 and 15-2 to 15-23) -/

/-- A whole field of a descriptor: offset and size. -/
def fullField (off size : Nat) : Nat × Nat × Nat := (off, size, 2 ^ (8 * size) - 1)

/-- The fields of a command's own, each with its offset, size and the bits that are not reserved; none for an opcode that
Table 15-1 does not define. A field that a table gives for one kind or mode is reserved in the others where the table says
so kind by kind (LOAD_OPEN), and read as listed in both modes of FD_SETUP (DESIGN CHOICE, notes/assumptions/106.md). -/
def layout (desc : Bytes) : Option (List (Nat × Nat × Nat)) :=
  let f := fullField
  let node := fun off => (off, 4, 2 ^ 20 - 1)
  let buffer := [f 0x18 8, f 0x20 4]
  match fld desc 0 1 with
  | 0x01 => some [f 0x10 1, f 0x11 1, f 0x12 1, f 0x13 1]
  | 0x02 => some ([f 0x10 1] ++ buffer)
  | 0x03 => some [f 0x10 1, f 0x11 1, f 0x12 1, f 0x14 4, f 0x18 8, f 0x20 4, f 0x24 2]
  | 0x04 => some [f 0x10 1, node 0x14]
  | 0x05 => some ([f 0x10 1, f 0x11 1, f 0x12 2, f 0x14 2, f 0x16 2, f 0x18 1] ++
      (List.range 5).map (fun i => node (0x1C + 4 * i)) ++ [f 0x30 10])
  | 0x06 => some [f 0x10 1, node 0x14]
  | 0x07 => some []
  | 0x08 => some ([f 0x10 1, f 0x12 2, f 0x14 2] ++ buffer)
  | 0x09 => some ([f 0x10 1, f 0x11 1, f 0x12 2, f 0x14 2] ++ buffer)
  | 0x0A => some [f 0x10 1, f 0x14 20, f 0x28 4]
  | 0x0B => some ([f 0x10 2] ++ buffer)
  | 0x0C => some ([f 0x10 2] ++ buffer ++ [f 0x28 8, f 0x30 4])
  | 0x0D => some [f 0x10 1, f 0x11 1, f 0x12 2, (0x14, 4, 3), f 0x18 8]
  | 0x0E => some ([(0x14, 4, 3)] ++ buffer)
  | 0x10 => some ([f 0x10 4] ++ buffer)
  | 0x11 => some ([f 0x10 4] ++ buffer)
  | 0x12 => some [f 0x10 4]
  | 0x13 => some [f 0x10 4, f 0x14 4, (0x18, 4, 2 ^ 25 - 1)]
  | 0x14 => some [f 0x10 4, f 0x14 1, f 0x15 1]
  | 0x15 => some [f 0x10 4]
  | 0x16 => some [f 0x10 4, f 0x14 1, (0x15, 1, 1), f 0x16 2, node 0x18, f 0x1C 4]
  | 0x18 =>
    if fld desc 0x10 1 = 2 then some [f 0x10 1, f 0x12 1, f 0x13 1, f 0x1C 4]
    else some [f 0x10 1, f 0x11 1, f 0x14 4, (0x18, 4, 2 ^ 18 - 1), f 0x1C 4]
  | 0x19 => some [f 0x10 1, f 0x20 8]
  | 0x1A => some [f 0x10 4, f 0x14 1, (0x15, 1, 3), (0x18, 4, 2 ^ 18 - 1), f 0x20 8, f 0x28 4]
  | 0x1B => some [f 0x10 4, f 0x20 8, f 0x28 4]
  | 0x1C => some buffer
  | 0x1D => some ([f 0x10 1] ++ buffer ++ [f 0x28 8, f 0x30 4])
  | 0x20 => some [(0x12, 2, 4095), f 0x18 8]
  | 0x21 => some [(0x12, 2, 4095), f 0x18 8]
  | 0x22 => some [(0x12, 2, 4095)]
  | 0x23 => some [f 0x10 2, (0x12, 2, 4095), (0x14, 1, 3), f 0x15 1, f 0x18 8, f 0x20 8, f 0x28 8]
  | 0x24 => some [f 0x10 2]
  | 0x25 => some [f 0x10 2, (0x12, 1, 1), f 0x14 4]
  | 0x26 => some [f 0x10 2]
  | 0x27 => some buffer
  | 0x28 => some [node 0x14]
  | _ => none

/-- A field with bits outside its mask, or a byte of 0x10 to 0x3F that no field lists and that is not 0: its offset. -/
def reservedSet (desc : Bytes) (fs : List (Nat × Nat × Nat)) : Option Nat :=
  let badField := fs.find? fun p => fld desc p.1 p.2.1 &&& p.2.2 != fld desc p.1 p.2.1
  let listed := fun i => fs.any fun p => decide (p.1 ≤ i) && decide (i < p.1 + p.2.1)
  let badByte := ((List.range 48).map (· + 0x10)).find? fun i => !(listed i) && fld desc i 1 != 0
  match badField, badByte with
  | some p, some i => some (min p.1 i)
  | some p, none => some p.1
  | none, r => r

/-- The reserved fields of the header (Table 14-6). -/
def headerReserved (desc : Bytes) : Option Nat :=
  if 3 < fld desc 1 1 then some 1
  else if fld desc 2 2 ≠ 0 then some 2
  else if fld desc 0xA 6 ≠ 0 then some 0xA
  else none

/-- Commands on the node as a whole (Table 15-1). -/
def nodeCommand (op : Nat) : Bool := [0x01, 0x02, 0x05, 0x06, 0x07, 0x08, 0x09, 0x0A, 0x0B, 0x0D, 0x0E].contains op

/-- What a drain and the drained state let through (R423). -/
def drainAllows (d : Dev) (desc : Bytes) : Bool :=
  let op := fld desc 0 1
  let always := [0x1A, 0x1B, 0x0E].contains op || (op == 0x19 && fld desc 0x10 1 == 1)
  let drained := [0x01, 0x02, 0x05, 0x08, 0x09, 0x0A, 0x0B, 0x0D].contains op || (op == 0x06 && fld desc 0x10 1 == 0)
  d.mbr.drain.step == 0 || always || (d.mbr.drain.step == 6 && drained)

/-! ### Buffers (R422) -/

/-- The buffer a command reads: offsets of ADDR and LEN, and the length of the structure where the descriptor gives it. -/
def readBuffer (desc : Bytes) : Option (Nat × Nat × Option Nat) :=
  match fld desc 0 1 with
  | 0x02 => if fld desc 0x10 1 = 0 then none else some (0x18, 0x20, some (16 * fld desc 0x10 1))
  | 0x08 => some (0x18, 0x20, some (8 * fld desc 0x14 2))
  | 0x09 => some (0x18, 0x20, some (if fld desc 0x10 1 = 1 then 8 else 16 * fld desc 0x14 2))
  | 0x0B => some (0x18, 0x20, some (64 * fld desc 0x10 2))
  | 0x0C => some (0x18, 0x20, some (16 * fld desc 0x10 2))
  | 0x10 => some (0x18, 0x20, none)
  | 0x11 => some (0x18, 0x20, none)
  | 0x1C => some (0x18, 0x20, none)
  | 0x1D => some (0x18, 0x20, none)
  | 0x27 => some (0x18, 0x20, some 64)
  | _ => none

/-- The buffer a command writes: offsets of ADDR and LEN, and the least length that the descriptor alone gives. -/
def writeBuffer (desc : Bytes) : Option (Nat × Nat × Nat) :=
  match fld desc 0 1 with
  | 0x0C => some (0x28, 0x30, 16 * fld desc 0x10 2)
  | 0x0E => some (0x18, 0x20, 17984)
  | 0x1A => some (0x20, 0x28, 16)
  | 0x1B => some (0x20, 0x28, 32)
  | 0x1D => some (0x28, 0x30, if fld desc 0x10 1 = 1 then 1 else 24)
  | _ => none

/-- An address a command names lies outside the HDM window, is aligned to 64 bytes and does not wrap. -/
def addrOk (d : Dev) (a n : Nat) : Bool := a % 64 == 0 && decide (a + n ≤ 2 ^ 64) && !(inHdmWindow d a n)

/-- The count fields of a descriptor (R8), by offset and size: numbers of granules, extents, page groups, witnesses, entries,
records, keys, tokens, frames and bytes. -/
def countFields (desc : Bytes) : List (Nat × Nat) :=
  match fld desc 0 1 with
  | 0x01 => [(0x12, 1)]
  | 0x02 => [(0x10, 1)]
  | 0x03 => [(0x24, 2)]
  | 0x05 => [(0x11, 1)]
  | 0x08 => [(0x14, 2)]
  | 0x09 => [(0x14, 2)]
  | 0x0B => [(0x10, 2)]
  | 0x0C => [(0x10, 2)]
  | 0x18 => [(0x1C, 4)]
  | 0x23 => [(0x20, 8)]
  | _ => []

/-- No count field is all-ones (R8); FORK_LENGTH is a count of 25 bits. -/
def countChecks (desc : Bytes) : List (Bool × (Nat × Nat)) :=
  ((countFields desc).map fun p => (fld desc p.1 p.2 != 2 ^ (8 * p.2) - 1, (St.lengthInvalid, p.1))) ++
    [(!(fld desc 0 1 == 0x13 && fld desc 0x18 4 == 2 ^ 25 - 1), (St.lengthInvalid, 0x18))]

/-- The buffer checks (R422): lengths first. An all-ones LEN fails with LENGTH_INVALID (R8). -/
def bufferChecks (d : Dev) (desc : Bytes) : List (Bool × (Nat × Nat)) :=
  let len := fun (off : Nat) (ok : Nat → Bool) =>
    let n := fld desc off 4
    (n != 0 && n != 2 ^ 32 - 1 && ok n, (St.lengthInvalid, off))
  let addr := fun (a off : Nat) => (addrOk d (fld desc a 8) (fld desc off 4), (St.fieldInvalid, a))
  let r := match readBuffer desc with
    | some (_, l, want) => [len l fun n => match want with | some w => n == w | none => true]
    | none => if fld desc 0 1 = 2 then [(fld desc 0x20 4 == 0, (St.lengthInvalid, 0x20))] else []
  let w := match writeBuffer desc with | some (_, l, least) => [len l fun n => decide (least ≤ n)] | none => []
  let ra := match readBuffer desc with | some (a, l, _) => [addr a l] | none => []
  let wa := match writeBuffer desc with | some (a, l, _) => [addr a l] | none => []
  r ++ w ++ ra ++ wa

/-- The checks of R421 steps 1 to 3, the rule of R423, and the checks on the buffers a command names. -/
def startChecks (d : Dev) (desc : Bytes) : List (Bool × (Nat × Nat)) :=
  let op := fld desc 0 1
  let fs := (layout desc).getD []
  let bad := match headerReserved desc, (layout desc).isSome with
    | some i, _ => some i
    | none, true => reservedSet desc fs
    | none, false => none
  [(bad.isNone, (St.fieldInvalid, bad.getD 0)), ((layout desc).isSome, (St.fieldInvalid, 0)),
   (if nodeCommand op then fld desc 8 2 == 0 else fld desc 8 2 != 0, (St.fieldInvalid, 8)),
   (drainAllows d desc, (St.busy, 0))] ++ countChecks desc ++ bufferChecks d desc ++
    [(op != 0x1D || decide (fld desc 0x10 1 ≤ 2), (St.fieldInvalid, 0x10))]

/-! ### Starting (R411) -/

/-- FENCE of a command. -/
def isFence (c : Cmd) : Bool := bitOf (fld c.desc 1 1) 0

/-- The next command of a ring that may start: ring order, an own FENCE behind nothing, and no FENCE command that runs. -/
def nextStart (cs : List Cmd) : Option Cmd :=
  match cs.find? fun c => c.phase == .fetching || c.phase == .waiting with
  | none => none
  | some c =>
    let before := cs.takeWhile fun x => x.index != c.index
    if c.phase = .fetching then none
    else if isFence c && !before.isEmpty then none
    else if before.any fun x => isFence x && x.phase != .done then none
    else some c

/-- A command starts: it fails its checks, waits for its buffer, or is ready. -/
def startOne (d : Dev) (ring : Nat) (c : Cmd) : Dev :=
  match firstFail (startChecks d c.desc) with
  | some (st, off) => cmdFail d ring c.index st off
  | none =>
    let d := d.onCmd ring c.index fun c => { c with startedAt := d.now }
    match readBuffer c.desc with
    | some (a, l, _) =>
      ioRead (d.onCmd ring c.index fun c => { c with phase := .reading }) 2 (.command ring c.index) (fld c.desc a 8) (fld c.desc l 4)
    | none => d.onCmd ring c.index fun c => { c with phase := .ready }

/-- COMMAND_START (R411, R421). -/
def execCommandStart (ring : Nat) (s : State) : Out :=
  s.act fun d => d.when (decide (ring < 64) && d.hostUp) fun d =>
    match nextStart (d.ring ring).fetched with
    | none => d
    | some c => startOne d ring c

end Sys2Proof.Machine
end

