-- ==== Sys2Proof/Machine/ReceiveOps.lean ====
section
/-! DEFINITION. Receiving whole messages: framing, transport checks, fencing, contexts and classification (spec 09 to 13). -/

namespace Sys2Proof.Machine

/-! ### Framing and channels (R92, R272, Tables 04-1, 11-2 and 13-7) -/

/-- A message for this node passes its framing check (R271, R272). -/
def framed (m : FMsg) : Bool := framesOk m.chunks

/-- The channel a message belongs to: the one it came on, or ORIG_VC of an escaped one. -/
def ownVc (vc : Nat) (b : Bytes) : Nat := if vc = 4 then msgOrigVc b else vc

/-- The channel a message type travels on. -/
def typeVcOk (vc ttype : Nat) (body : Bytes) : Bool :=
  let t := fld body 0 1
  let bit := bitOf (fld body 1 1)
  if ttype = 2 ∨ ttype = 3 then vc == 1
  else if ttype = 1 then
    if t = 0x10 ∨ t = 0x12 then vc == 2
    else if t = 0x11 ∨ t = 0x13 then vc == 1
    else vc == 0 && decide (0x40 ≤ t) && decide (t ≤ 0x47)
  else if t = 0x28 then vc == (if bit 0 then 3 else 2)
  else if t = 0x30 ∨ t = 0x31 then vc == (if bit 1 then 3 else 2)
  else if [0x20, 0x22, 0x23, 0x50, 0x52, 0x54, 0x56, 0x58, 0x59].contains t then vc == 2
  else if [0x21, 0x24, 0x29, 0x32, 0x51, 0x53, 0x55].contains t then vc == 1
  else if [0x57, 0x5A].contains t then vc == 3
  else false

/-- A message type that is answered with a status (R349). -/
def hasStatus (t : Nat) : Bool := [0x20, 0x22, 0x23, 0x28, 0x30, 0x31, 0x50, 0x52, 0x54, 0x56, 0x57, 0x58, 0x59].contains t

/-- A message that waits for a FIRING counter is not accepted before it is processed (R293, R312). -/
def firingTag (d : Dev) (body : Bytes) : Bool :=
  match fld body 0 1 with
  | 0x24 => tagFiring d (fld body 0x24 4)
  | 0x30 => tagFiring d (fld body 0x20 4)
  | 0x32 => tagFiring d (fld body 0x10 4)
  | _ => false

/-! ### Fencing (R349) -/

/-- What fencing makes of a message. -/
inductive Fence where
  | clear | stale | drop
deriving DecidableEq, Repr

def fenceOf (d : Dev) (b : Bytes) : Fence :=
  let ok := match d.member (msgSrc b) with
    | some m => m.live && !(seqBefore (msgEpoch b) m.admission)
    | none => false
  if ok then .clear else if msgType b = 0 ∧ hasStatus (bodyType b) = true then .stale else .drop

/-- An epoch above the view's makes the node ask for what it lacks. -/
def epochPull (d : Dev) (b : Bytes) : Dev :=
  match d.member (msgSrc b) with
  | some m => if m.live && seqBefore (d.domain m.domain).epoch (msgEpoch b) then sendPull d (msgSrc b) m.domain else d
  | none => d

/-! ### The connection (R284, R292, R299) -/

/-- A DATA, ACK or NAK message belongs to a live connection (R284). -/
def connOk (d : Dev) (b : Bytes) : Bool :=
  let i := msgDstConn b
  let c := d.conn i
  (c.state == .open_ || c.state == .closing) && msgDstGen b == connGen d i && c.peer == msgSrc b &&
    c.peerConn == msgSrcConn b && c.tenant == msgTenant b

def inboxPut (d : Dev) (bytes : Bytes) (vc conn action inLink at_ : Nat) (stale : Bool) : Dev :=
  d.onTr fun x =>
    { x with
      inbox := x.inbox ++ [{ id := x.nextIn, bytes := bytes, vc := vc, conn := conn, action := action, inLink := inLink,
                             at_ := at_, stale := stale }]
      nextIn := x.nextIn + 1 }

/-- Messages that wait on a home die: for their context, or for a FIRING counter (R299, R312). -/
def waitingOn (d : Dev) (die : Nat) : Nat :=
  (d.tr.waiting.filter fun h => homeDie h.conn == die).length +
    (d.tr.inbox.filter fun m => m.conn < ownConn && homeDie m.conn == die && firingTag d (msgBody m.bytes)).length

def protocolError (d : Dev) (link : Nat) : Dev :=
  countDiscard (d.onLink link fun l => { l with protocol := inc48 l.protocol }) 3 (dieOfLink link)

/-- A message goes to its search queue (R234). -/
def toSearch (d : Dev) (h : Held) : Dev :=
  (sampleEnq d (searchQueue (dieOfLink h.inLink))).onTr fun x => { x with search := x.search ++ [h] }

/-- A message whose context is at hand: the checks of R284, R349, R92 and R292, then its queue. The ACK that a DATA message
carries frees the messages it covers (R294). -/
def withContext (d : Dev) (h : Held) : Dev :=
  let b := h.bytes
  let die := homeDie h.conn
  if !(connOk d b) then
    let d := d.onTr fun x => { x with stray := inc48 x.stray }
    let age := dist32 (connGen d h.conn) (msgDstGen b)
    if h.vc = 1 ∧ 1 ≤ age ∧ age ≤ (d.conn h.conn).gens then lateDiscard d 3 die (msgTenant b) 0 else d
  else
    match fenceOf d b with
    | .drop => countDiscard (d.onTr fun x => { x with fenced := inc48 x.fenced }) 2 die
    | f =>
      let d := epochPull d b
      let h := { h with stale := f == .stale }
      if !(typeVcOk h.vc (msgType b) (msgBody b)) then protocolError d h.inLink
      else if msgType b ≠ 0 then if h.vc = 2 then toSearch d h else inboxPut d b h.vc h.conn 0 h.inLink h.at_ false
      else
        let d := connSettle (ackProcess d h.conn (msgAck b) 0) h.conn
        match sortSeq (d.conn h.conn) (msgSeq b) with
        | .duplicate => count (ackSend (d.onTr fun x => { x with duplicates := inc48 x.duplicates }) h.conn) die 0x1830 1
        | .beyond => d.onTr fun x => { x with beyond := inc48 x.beyond }
        | .fresh =>
          if queuedHere d h.conn (msgSeq b) then d
          else if h.vc = 1 then
            if firingTag d (msgBody b) then
              if 64 ≤ waitingOn d die then nakSend d h.conn (msgSeq b) 2 2000 (msgTx b)
              else inboxPut d b 1 h.conn 0 h.inLink h.at_ h.stale
            else inboxPut (acceptMsg d h.conn b) b 1 h.conn 0 h.inLink h.at_ h.stale
          else toSearch d h

/-- A DATA, ACK or NAK message: its context may have to be fetched (R299, R301). -/
def toContext (d : Dev) (h : Held) : Dev :=
  let i := h.conn
  if tget false d.tr.spilled i then
    if spillUp d then
      if 64 ≤ waitingOn d (homeDie i) then
        if msgType h.bytes = 0 then nakSend d i (msgSeq h.bytes) 2 2000 (msgTx h.bytes) else d
      else fetchContext (sampleEnq (d.onTr fun x => { x with waiting := x.waiting ++ [h] }) (waitQueue (homeDie i))) i
    else d.onTr fun x => { x with unreachable := inc48 x.unreachable }
  else withContext (if connCached d i then cacheTouch d i else d) h

/-- A whole message that has passed its framing check. One with a reserved bit in its headers is refused by its checks with
FIELD_INVALID where its type is answered with a status (R7), and otherwise discarded and counted. -/
def deliver (d : Dev) (link vc at_ : Nat) (b : Bytes) : Dev :=
  let h : Held := { bytes := b, vc := vc, conn := msgDstConn b, action := 0, inLink := link, at_ := at_ }
  let t := msgType b
  if !(headersOk b) && !((t == 0 && hasStatus (bodyType b)) || (t == 1 && (bodyType b == 0x10 || bodyType b == 0x12))) then d.onTr fun x => { x with stray := inc48 x.stray }
  else if t = 1 then
    if !(typeVcOk vc 1 (msgBody b)) then protocolError d link
    else if vc = 0 then inboxPut d b 0 ownConn 0 link at_ false
    else
      match fenceOf d b with
      | .clear =>
        if bodyType b = 0x12 ∨ bodyType b = 0x13 then toContext d h
        else if vc = 1 then inboxPut (epochPull d b) b 1 ownConn 0 link at_ false
        else toSearch (epochPull d b) { h with conn := ownConn }
      | _ => countDiscard (d.onTr fun x => { x with fenced := inc48 x.fenced }) 2 (dieOfLink link)
  else if t = 0 ∨ t = 2 ∨ t = 3 then
    if vc = 0 then protocolError d link else toContext d h
  else d.onTr fun x => { x with stray := inc48 x.stray }

/-! ### Classification (R233 to R235) -/

/-- The types that carry OBJECT at offset 0x04. -/
def carriesObject (ttype t : Nat) : Bool :=
  ttype == 0 && ([0x20, 0x21, 0x23, 0x24, 0x28, 0x29].contains t || (decide (0x50 ≤ t) && decide (t ≤ 0x5A)))

/-- A classification key (Table 09-2). -/
def classKey (h : Held) : Nat :=
  let b := h.bytes
  let body := msgBody b
  2 * 2 ^ 156 + msgTenant b * 2 ^ 140 + msgService b * 2 ^ 137 + msgSrc b * 2 ^ 117 + fld body 0 1 * 2 ^ 109 +
    h.inLink * 2 ^ 103 + h.vc * 2 ^ 100 + (if carriesObject (msgType b) (fld body 0 1) then fld body 4 4 else 0) * 2 ^ 68 +
    fld body 1 1 * 2 ^ 60

/-- The Teasel die that serves a Campion die's searches. -/
def searchDie (d : Dev) (campion : Nat) : Option Nat :=
  let a := 28 + campion % 2
  let b := 57 - a
  if d.ready a then some a else if d.ready b then some b else none

/-- The mask of a link's profile (R229). -/
def linkMask (d : Dev) (link : Nat) : Nat := tget 0 d.mat.profiles (tget 0 d.mat.assigned link)

/-- A policer's test of a message of a charged size: whether it passes, and the node after it (R332 to R334);
RATE 0 drops every message while ENABLE is set (Table 12-4). -/
def police (d : Dev) (p bytes : Nat) : Bool × Dev :=
  let x : Policer := tget {} d.fab.policers p
  let die := 16 + p % 8
  if x.enable then
    if x.rate ≠ 0 ∧ (100 * bytes : Nat) ≤ tokensNow x.bucket x.rate (x.burst * 102400) d.now then
      let x := { x with bucket := bucketDebit x.bucket x.rate (x.burst * 102400) d.now bytes, passed := inc48 x.passed,
                        passedBytes := (x.passedBytes + bytes) % 2 ^ 48 }
      let d := countPolicer (countPolicer d p 16 1) p 17 bytes
      (true, d.onFab fun f => { f with policers := tput {} f.policers p x })
    else
      let x := { x with dropped := inc48 x.dropped, droppedBytes := (x.droppedBytes + bytes) % 2 ^ 48 }
      let d := countPolicer (countPolicer d p 18 1) p 19 bytes
      (false, countDiscard (d.onFab fun f => { f with policers := tput {} f.policers p x }) 0 die)
  else
    let x := { x with passed := inc48 x.passed, passedBytes := (x.passedBytes + bytes) % 2 ^ 48 }
    let d := countPolicer (countPolicer d p 16 1) p 17 bytes
    (true, d.onFab fun f => { f with policers := tput {} f.policers p x })

/-- Episodes of a rule that names an unbound composition or a disabled policer (Table 16-8). -/
def ruleBlocked (d : Dev) (index action : Nat) : Dev :=
  let unbound := actionAdmit action && (tget ({} : Composition) d.mbr.compositions (actionComposition action)).slices.isEmpty
  let unpoliced := bitOf action 62 && !(tget ({} : Policer) d.fab.policers (bitsOf action 48 14)).enable
  if unbound || unpoliced then blockStart d 5 index 0 else blockEnd d 5 index 0

/-- A MIRROR_COPY append has to be held while the hold of its die is full (R341). -/
def holdFull (k : Chip) (h : Held) : Bool :=
  let b := msgBody h.bytes
  if msgType h.bytes = 0 ∧ bodyType h.bytes = 0x28 ∧ apMirror b = true then
    match k.dev.objAt (apObj b) with
    | none => false
    | some o =>
      let w : Sender := { tenant := msgTenant h.bytes, node := msgSrc h.bytes, action := some h.action, clean := headersOk h.bytes }
      !h.stale && (firstFail (appendChecks k.dev b w)).isNone &&
        decide (256 ≤ heldOn k.dev (pageDie k.dev (apKey b o.geom.T))) &&
        match apPlan k b none with | .hold _ => true | _ => false
  else false

/-- A message passes classification: it is accepted and enters the node's queues (R293). -/
def classified (k : Chip) (h : Held) (action : Nat) : Dev :=
  let d := k.dev
  let b := h.bytes
  let fenced := (tget ({} : Composition) d.mbr.compositions (actionComposition action)).fences.contains (msgSrc b)
  if fenced && !(msgType b == 0 && hasStatus (bodyType b)) then
    countDiscard (d.onTr fun x => { x with fenced := inc48 x.fenced }) 2 (dieOfLink h.inLink)
  else
    let h := { h with action := action, stale := h.stale || fenced }
    if msgType b ≠ 0 then inboxPut d b h.vc h.conn action h.inLink h.at_ false
    else if sortSeq (d.conn h.conn) (msgSeq b) ≠ .fresh then d
    else if holdFull k h then nakSend d h.conn (msgSeq b) 2 2000 (msgTx b)
    else if firingTag d (msgBody b) then
      if 64 ≤ waitingOn d (homeDie h.conn) then nakSend d h.conn (msgSeq b) 2 2000 (msgTx b)
      else inboxPut d b h.vc h.conn action h.inLink h.at_ h.stale
    else inboxPut (acceptMsg d h.conn b) b h.vc h.conn action h.inLink h.at_ h.stale

/-- Search a message and act on its rule (R235). -/
def classify (k : Chip) (h : Held) (teasel : Nat) : Dev :=
  let d := count k.dev teasel 0x2400 1
  match matSearch d teasel 0 (classKey h) (linkMask d h.inLink) with
  | none =>
    countDiscard (d.onLink h.inLink fun l => { l with unclassified := inc48 l.unclassified }) 1 (dieOfLink h.inLink)
  | some (i, e) =>
    let d := count d teasel 0x2410 1
    if bitOf e.action 63 then countDiscard d 1 (dieOfLink h.inLink)
    else
    let d := ruleBlocked d i e.action
    if bitOf e.action 62 then
      match police d (bitsOf e.action 48 14) (256 * msgFlits h.bytes) with
      | (true, d) => classified ⟨d, k.mem⟩ h e.action
      | (false, d) => d
    else classified ⟨d, k.mem⟩ h e.action

end Sys2Proof.Machine
end

