-- ==== Sys2Proof/Machine/CounterOps.lean ====
section
/-! DEFINITION. The event catalogue, levels, slot classes and derived views of the counters (spec 20). -/

namespace Sys2Proof.Machine

/-- The blocks of Table 20-1: base, first and last die, and for an event how many instances it has on a die. -/
def eventInstances (base event : Nat) : Nat :=
  match base with
  | 0x0400 => if 16 ≤ event then 0 else if 11 ≤ event ∧ event ≤ 14 then 8 else if event = 8 ∨ event = 9 then 1 else 4
  | 0x0800 => if event ≤ 7 then 4 else 0
  | 0x0C00 => if event ≤ 7 then 8 else 0
  | 0x1000 => if 1 ≤ event ∧ event ≤ 9 then 4 else 0
  | 0x1400 => if event ≤ 13 then 4 else 0
  | 0x1800 => if event ≤ 8 then 1 else 0
  | 0x1C00 => if event ≤ 15 then 4 else if event ≤ 19 then 16 else 0
  | 0x2000 => if event ≤ 2 then 1 else 0
  | 0x2400 => if event ≤ 5 then 1 else 0
  | 0x2800 => if event ≤ 16 then 1 else 0
  | 0x2C00 => if event ≤ 2 then 1 else 0
  | _ => 0

/-- The dies of a block of Table 20-1. -/
def blockOn (base die : Nat) : Bool :=
  if base ≤ 0x1000 then decide (die < 16)
  else if base ≤ 0x1C00 then decide (16 ≤ die ∧ die ≤ 23)
  else if base = 0x2000 then decide (24 ≤ die ∧ die ≤ 27)
  else if base = 0x2400 then decide (28 ≤ die ∧ die ≤ 29)
  else if base = 0x2800 then die == 30
  else die == 31

def codeBase (code : Nat) : Nat := code / 1024 * 1024
def codeEvent (code : Nat) : Nat := bitsOf code 4 6
def codeInst (code : Nat) : Nat := bitsOf code 0 4

/-- R510: the die has the event. -/
def eventOk (die code : Nat) : Bool :=
  blockOn (codeBase code) die && decide (codeInst code < eventInstances (codeBase code) (codeEvent code))

/-- Scheduling events 16 to 19, which name a policer instead of a threshold. -/
def policerEvent (code : Nat) : Bool := codeBase code == 0x1C00 && decide (16 ≤ codeEvent code)

/-! ### Levels and slot classes at a tick (R511, R512, R519) -/

/-- The contexts of requests that run on a slice, with their request. -/
def sliceCtxs (d : Dev) (slice : Nat) : List (Request × Ctx) :=
  d.attn.requests.flatMap fun p =>
    if (d.slot p.1).holds.any (fun h => h.slice == slice) then
      (p.2.ctxs.filter (·.die == dieOfSlice slice)).map fun c => (p.2, c)
    else []

/-- The staged page whose pass an array of a slice runs. -/
def passCopy (d : Dev) (slice : Nat) : Option Staged := d.attn.staged.find? fun c => c.slice == slice && c.ready && !c.joined.isEmpty

/-- The requests whose rows a pass over a staged page carries. -/
def passRequests (d : Dev) (c : Staged) : List Request := c.joined.filterMap fun j => d.request j.1

/-- Token slot `t` of a pass's page is included for at least one of its rows (R66). -/
def slotIncluded (d : Dev) (c : Staged) (t : Nat) : Bool :=
  (passRequests d c).any fun r =>
    (List.range (aqTokens r.body)).any fun i => included r.body (reqGeom d r.body).T (keyPage c.key) i t

/-- A pass steps whole blocks of 16 token slots: one of its blocks holds both a slot that is included and one that is
not (R519, class 3). -/
def passWastes (d : Dev) (c : Staged) : Bool :=
  let size := match passRequests d c with | r :: _ => (reqGeom d r.body).T | [] => 0
  (List.range (size / 16)).any fun b =>
    let used := (List.range 16).map fun t => slotIncluded d c (16 * b + t)
    used.any id && !(used.all id)

/-- The class of an array at a tick (R519): 0 retired, 1 wasted, 2 front-starved, 3 back-starved by a page, 5 off. A pass is
taken to run while a staged page waits for its pass; passes take no ticks in the model, so where a pass has slots of both
kinds the one being processed is a free value, and no merge queue fills (DESIGN CHOICE, notes/assumptions/45.md). -/
def arrayClass (d : Dev) (slice : Nat) : Nat :=
  let cs := sliceCtxs d slice
  if !(bitOf d.regs.arrays (dieOfSlice slice)) || (sliceComp d slice).isNone || !(d.ready (dieOfSlice slice)) then 5
  else
    match passCopy d slice with
    | some c => if passWastes d c then Config.unseen d.now (dieOfSlice slice) (0x0800 + slice % 4) % 2 else 0
    | none => if cs.any fun p => !p.2.todo.isEmpty || p.2.resolved.any fun r => !r.finished then 3 else 2

/-- Rows of the pass that runs in a retired tick (R520): those of the contexts that share its staged page, up to 64. -/
def liveRows (d : Dev) (slice : Nat) : Nat :=
  match passCopy d slice with
  | some c =>
    if arrayClass d slice = 0 then min 64 ((passRequests d c).map fun r => aqTokens r.body * aqGroup r.body).sum else 0
  | none => 0

/-- A read or write waits on a row operation of a slice (R219, R221). -/
def rowWaits (d : Dev) (slice : Nat) : Bool :=
  (d.hif.hostReads.any fun p => addrSlice p.1 == slice && rangeBusy d p.1 64) ||
    d.hif.waiting.any fun w => addrSlice w.addr == slice && rangeBusy d w.addr w.data.length

/-- The level at this tick of an L event, or what a tick adds to an event that counts ticks; other events have none. -/
def tickLevel (d : Dev) (die code : Nat) : Option Nat :=
  let i := codeInst code
  let slice := 4 * die + i
  let free := some (Config.unseen d.now die code)
  match codeBase code, codeEvent code with
  | 0x0400, 1 => some (sliceCtxs d slice).length
  | 0x0400, 9 => some (d.attn.held.countP (·.die == die))
  | 0x0400, 15 => some (bufferUsed d slice)
  | 0x0800, 6 => some (liveRows d slice)
  | 0x0800, 7 => none
  | 0x0800, e => some (b2n (arrayClass d slice == e))
  | 0x0C00, 3 => some (((List.range 64).map fun b => tget 0 d.lp.owed (16 * (4 * (8 * die + i)) + b)).foldl max 0)
  | 0x0C00, 0 => free
  | 0x0C00, 1 => free
  | 0x0C00, 5 => free
  | 0x0C00, 6 => none
  | 0x1000, 8 => some (b2n (rowWaits d slice))
  | 0x1000, 9 => some (sliceRuns d slice)
  | 0x1800, 5 => some (waitingOn d die)
  | 0x1800, 8 => some (d.tr.search.filter fun h => dieOfLink h.inLink == die).length
  | 0x1400, 7 => free
  | 0x2000, 2 => free
  | 0x2800, 16 => some (d.obj.uioReads.map (·.parts)).sum
  | 0x2C00, 2 => some (b2n (d.power.limited.any (·.2)))
  | _, _ => none

/-- A counter at a tick (R511): an L event adds its level, or 1 when it exceeds the threshold; the increments of a C or
Q event are compared with the threshold and start again. -/
def ctrAtTick (d : Dev) (die : Nat) (c : Counter) : Counter :=
  match tickLevel d die c.event with
  | some v => if c.thr then ctrAdd (if c.threshold < v then 1 else 0) c else ctrAdd v c
  | none => if c.thr then ctrAdd (if c.threshold < c.tick then 1 else 0) { c with tick := 0 } else c

/-- A top-down unit at a tick (R519 to R521): retired, wasted, front, page, merge, off, live rows. -/
def derivedAtTick (d : Dev) (u : Derived) : Derived :=
  if 0xF000 ≤ u.event ∧ u.event < 0xF040 then
    let n := u.event - 0xF000
    let k := arrayClass d n
    let bump := fun (i : Nat) => (u.cur.getD i 0) + b2n (k == i)
    { u with cur := [bump 0, bump 1, bump 2, bump 3, bump 4, bump 5, u.cur.getD 6 0 + liveRows d n] }
  else if 0xF400 ≤ u.event ∧ u.event < 0xF480 then
    let n := Config.unseen d.now ((u.event - 0xF400) / 8) u.event
    { u with cur := [u.cur.headD 0 + 32 * n, (u.cur.drop 1).headD 0 + n] }
  else u

/-- Everything that counts at a tick (R511, R521, R525); what is frozen stands still, and so does a derived unit's
window (R515). -/
def countersTick (d : Dev) : Dev :=
  let c := d.cnt.c.map fun p =>
    if decide (p.1 % 64 < 16) && p.2.event != 0 && !(frozenOn d (p.1 / 64)) then (p.1, ctrAtTick d (p.1 / 64) p.2) else p
  let slots := if d.cnt.enable then
      d.cnt.slots.map fun p =>
        let die := bitsOf (tget 0 d.cnt.sel p.1) 16 5
        if p.2.event != 0 && !(frozenOn d die) then (p.1, ctrAtTick d die p.2) else p
    else d.cnt.slots
  let held := frozenOn d Config.selfHeal
  let derived := d.cnt.derived.map fun p =>
    (p.1, if held then { p.2 with startAt := p.2.startAt + 1 } else derivedAtTick d p.2)
  let counts := d.cnt.enable && !(frozenOn d Config.clover)
  d.onCnt fun x => { x with c := c, slots := slots, derived := derived, ticks := if counts then inc48 x.ticks else x.ticks }

/-! ### The compatibility set (R523 to R525) -/

/-- A write to CNT_COMPAT_CTRL (Table 20-9): CLEAR acts at the next update. -/
def compatCtrl (d : Dev) (v : Nat) : Dev :=
  d.onCnt fun x => { x with enable := bitOf v 0, hold := bitOf v 2, clear := x.clear || bitOf v 1 }

/-- A write to CNT_COMPAT_SELk (R524): ignored and logged for an event the die does not have or that names a policer. -/
def compatSel (d : Dev) (k v : Nat) : Dev :=
  let die := bitsOf v 16 5
  let code := bitsOf v 0 16
  if code != 0 && (!(eventOk die code) || policerEvent code) then regIgnored d (0x6010 + 8 * k) 8
  else
    d.onCnt fun x =>
      { x with
        sel := tput 0 x.sel k (bitsOf v 40 24 * 2 ^ 40 + bitsOf v 32 1 * 2 ^ 32 + die * 2 ^ 16 + code)
        slots := tput {} x.slots k { event := code, thr := bitOf v 32, threshold := bitsOf v 40 24 } }

/-- One update of the registers (R525): a pending CLEAR restarts TICKS and every slot. -/
def compatUpdate (d : Dev) : Dev :=
  d.onCnt fun x =>
    let x : Counters := if x.clear then
        { x with clear := false, ticks := 0, slots := x.slots.map fun p => (p.1, { p.2 with value := 0, tick := 0 }) }
      else x
    { x with
      regTicks := x.ticks
      regVals := (List.range 8).foldl (fun t k => tput 0 t k (tget ({} : Counter) x.slots k).value) []
      updatedAt := d.now }

end Sys2Proof.Machine
end

