-- ==== Sys2Proof/Machine/Counters.lean ====
section
/-! DEFINITION. Counter commands, snapshots, derived windows and queue samples (spec 20, R508 to R522; R335, R336). -/

namespace Sys2Proof.Machine

/-- A die is out of reset. -/
def outOfReset (d : Dev) (die : Nat) : Bool :=
  match tget .inReset d.dies.st die with | .released => true | .ready => true | _ => false

/-! ### CNT_CONFIG (R509, R510, R521) -/

/-- The setting is for a derived unit. -/
def forUnit (c : Cmd) : Bool := decide (64 ≤ fld c.desc 0x11 1)

def cntThr (c : Cmd) : Bool := bitOf (fld c.desc 0x14 4) 0
def cntClear (c : Cmd) : Bool := bitOf (fld c.desc 0x14 4) 1

/-- The EVENT of a derived unit (R521). -/
def unitEventOk (e : Nat) : Bool :=
  e == 0 || decide (0xF000 ≤ e ∧ e < 0xF040) || decide (0xF100 ≤ e ∧ e ≤ 0xF120) || decide (0xF200 ≤ e ∧ e ≤ 0xF220) ||
    decide (0xF400 ≤ e ∧ e < 0xF480)

def cntChecks (d : Dev) (c : Cmd) : List (Bool × (Nat × Nat)) :=
  let die := fld c.desc 0x10 1
  let n := fld c.desc 0x11 1
  let e := fld c.desc 0x12 2
  let t := fld c.desc 0x18 8
  let f := fun (ok : Bool) (off : Nat) => (ok, (St.fieldInvalid, off))
  [f (decide (die < 32)) 0x10, f (decide (n < if die = Config.selfHeal then 80 else 64)) 0x11,
   f (decide (t < 2 ^ 48)) 0x18] ++
    (if forUnit c then
      [f (unitEventOk e) 0x12, f (!(cntThr c)) 0x14, f (e == 0 || decide (1000 ≤ t ∧ t ≤ 100000000)) 0x18]
    else if 16 ≤ n then [f (e == 0) 0x12, f (cntClear c && !(cntThr c)) 0x14]
    else
      [f (e == 0 || eventOk die e) 0x12, f (!(policerEvent e && cntThr c)) 0x14,
       f (!(policerEvent e) || die == 16 + t % 8) 0x18]) ++
    [(outOfReset d die, (St.busy, 0x10)), (!(frozenOn d die), (St.busy, 0))]

/-- A programmable counter's new setting (R509). -/
def setCounter (k : Counter) (e : Nat) (thr clear : Bool) (t : Nat) : Counter :=
  if e = 0 then { k with event := 0, thr := thr, threshold := t, tick := 0, value := if clear then 0 else k.value }
  else if k.event ≠ e ∨ k.thr ≠ thr ∨ k.threshold ≠ t ∨ clear = true then
    { k with event := e, thr := thr, threshold := t, value := 0, tick := 0 }
  else k

/-- CNT_CONFIG. -/
def execCntConfig (ring index : Nat) (s : State) : Out :=
  s.act fun d => cmdChecks d ring index 0x0D (cntChecks d) fun d c =>
    let n := fld c.desc 0x11 1
    let e := fld c.desc 0x12 2
    let t := fld c.desc 0x18 8
    let key := fld c.desc 0x10 1 * 64 + n
    let d := d.onCnt fun x =>
      if forUnit c then
        { x with derived := if e = 0 then tdel x.derived (n - 64)
                            else tins x.derived (n - 64) { event := e, window := t, startAt := d.now } }
      else if 16 ≤ n then { x with c := tmod {} x.c key fun k => { k with value := 0 } }
      else { x with c := tmod {} x.c key fun k => setCounter k e (cntThr c) (cntClear c) t }
    cmdDone d ring index St.ok 0

/-! ### CNT_SNAPSHOT (R515 to R518) -/

/-- A snapshot command of a mode: 0 neither flag, 1 FREEZE, 2 UNFREEZE. It starts; the dies capture at the target. -/
def snapshotStart (s : State) (ring index mode : Nat) (mine : Nat → Bool) : Out :=
  s.act fun d =>
    match d.cmdReady ring index 0x0E with
    | none => d
    | some c => d.when (mine (fld c.desc 0x14 4 % 4)) fun d =>
      cmdChecks d ring index 0x0E
        (fun c =>
          let v := fld c.desc 0x14 4
          [(v != 3, (St.fieldInvalid, 0x14)), (!(v == 1 && d.cnt.frozen), (St.fieldInvalid, 0x14)),
           (!(v == 2 && !d.cnt.frozen), (St.fieldInvalid, 0x14)), (d.cnt.snap.isNone, (St.busy, 0))])
        fun d _ =>
          let snap : Snapshot :=
            { ring := ring, index := index, mode := mode, target := d.now + 100,
              mask := ofBits ((List.range 32).filter (outOfReset d)) }
          (d.onCmd ring index fun c => { c with phase := .running }).onCnt fun x => { x with snap := some snap }

/-- CNT_SNAPSHOT with neither flag; with both it fails. -/
def execCntSnapshot (ring index : Nat) (s : State) : Out := snapshotStart s ring index 0 fun v => v == 0 || v == 3
/-- CNT_SNAPSHOT with FREEZE. -/
def execCntFreeze (ring index : Nat) (s : State) : Out := snapshotStart s ring index 1 (· == 1)
/-- CNT_SNAPSHOT with UNFREEZE. -/
def execCntUnfreeze (ring index : Nat) (s : State) : Out := snapshotStart s ring index 2 (· == 2)

/-- A counter entry of Table 20-4. -/
def counterBytes (k : Counter) : Bytes := toLe 8 (k.value + b2n k.disc * 2 ^ 48 + b2n k.thr * 2 ^ 49)

/-- A die record (Table 20-4). -/
def dieRecord (d : Dev) (target die : Nat) : Bytes :=
  if outOfReset d die then
    toLe 1 die ++ zeros 1 ++ toLe 2 (d.now - target) ++ zeros 12 ++
      (List.range 64).flatMap fun n => counterBytes (tget {} d.cnt.c (die * 64 + n))
  else toLe 1 die ++ toLe 1 1 ++ zeros 526

/-- A derived record (Tables 20-5, 20-6). -/
def derivedRecord (u : Derived) : Bytes :=
  if u.event = 0 then zeros 64
  else
    let head := toLe 2 u.event ++ zeros 2 ++ toLe 4 u.windows
    if u.event < 0xF100 then head ++ (List.range 7).flatMap fun i => toLe 8 (u.last.getD i 0)
    else head ++ toLe 8 (u.last.headD 0) ++ toLe 8 u.most ++ toLe 8 ((u.last.drop 1).headD 0) ++ zeros 32

/-- The derived records of all units. -/
def derivedBytes (d : Dev) : Bytes := (List.range 16).flatMap fun u => derivedRecord (tget {} d.cnt.derived u)

/-- The snapshot of Table 20-3. -/
def snapshotBytes (d : Dev) (s : Snapshot) : Bytes :=
  let recs := (List.range 32).map fun n => (tfind s.got n).getD (toLe 1 n ++ toLe 1 1 ++ zeros 526)
  let up := (List.range 32).filter fun n => fld (recs.getD n []) 1 1 == 0
  toLe 2 1 ++ toLe 1 s.mode ++ zeros 1 ++ toLe 4 (ofBits up) ++ toLe 8 s.target ++ zeros 48 ++
    recs.flatMap (fun r => r.take 528) ++ (match tfind s.got 31 with | some r => r.drop 528 | none => derivedBytes d)

/-- Every die of the mask has answered: the snapshot is written, and the counters stand frozen or count. -/
def snapshotDone (d : Dev) (s : Snapshot) : Dev :=
  if (bitIdx 32 s.mask).all fun n => (tfind s.got n).isSome then
    let out := snapshotBytes d s
    let d := d.onCnt fun x => { x with snap := none, frozen := if s.mode = 0 then x.frozen else s.mode == 1 }
    d.onCmd s.ring s.index fun c =>
      { c with phase := .done, status := St.ok, result := out.length, data := [(fld c.desc 0x18 8, out)] }
  else d

/-- SNAPSHOT_CAPTURE (R516, R518): the captured record clears the DISCONTINUITY flags it reports. -/
def execSnapshotCapture (die : Nat) (s : State) : Out :=
  s.act fun d =>
    match d.cnt.snap with
    | none => d
    | some sn => d.when (decide (sn.target ≤ d.now) && bitOf sn.mask die && decide (die < 32) && (tfind sn.got die).isNone) fun d =>
      let r := dieRecord d sn.target die ++ (if die = 31 then derivedBytes d else [])
      let sn := { sn with got := tins sn.got die r }
      let d := d.onCnt fun x =>
        { x with c := x.c.map (fun p => if p.1 / 64 = die then (p.1, { p.2 with disc := false }) else p), snap := some sn }
      snapshotDone d sn

/-- DERIVED_WINDOW_END (R521). -/
def execDerivedWindowEnd (unit : Nat) (s : State) : Out :=
  s.act fun d =>
    match tfind d.cnt.derived unit with
    | none => d
    | some u => d.when (!(frozenOn d Config.selfHeal) && d.due u.startAt u.window) fun d =>
      let u' : Derived :=
        { u with windows := m32 (u.windows + 1), startAt := u.startAt + u.window, last := u.cur, cur := [],
                 most := max u.most (u.cur.headD 0) }
      d.onCnt fun x => { x with derived := tins x.derived unit u' }

/-! ### QUEUE_SAMPLE (R335, R336) -/

/-- What stands in a queue: entries, flits or bytes, and the oldest entry's stamp. -/
structure Depth where
  entries : Nat
  size : Nat
  oldest : Option Nat
deriving DecidableEq, Repr

/-- Depth of a list of entries, each with its size and stamp. -/
def depthOf (l : List (Nat × Nat)) : Depth :=
  { entries := l.length, size := (l.map (·.1)).sum, oldest := (l.head?).map (·.2) }



/-- Entries and bytes of an engine queue of Table 04-9 on a die, of those queues in which the model keeps entries. -/
def engineDepth (d : Dev) (die e : Nat) : Depth :=
  let ctxs := d.attn.requests.flatMap fun p => p.2.ctxs.filter (·.die == die)
  let here := d.attn.staged.filter (·.die == die)
  match e with
  | 0 => depthOf ((admissionQueue d die).map fun m => (m.bytes.length - 0x30, m.at_))
  | 1 => { entries := (ctxs.map (·.todo.length)).sum, size := 12 * (ctxs.map (·.todo.length)).sum, oldest := none }
  | 2 => depthOf ((here.filter (!·.issued)).map fun c => (c.size, 0))
  | 5 => depthOf ((here.filter fun c => c.ready && !c.joined.isEmpty).map fun c => (c.size, 0))
  | 7 =>
    depthOf ((d.attn.requests.flatMap fun p => p.2.parts.filter fun x => x.die == die && x.rows.isSome && !x.handed).map
      fun _ => (0, 0))
  | _ => { entries := 0, size := 0, oldest := none }

/-- What stands in a queue by its number, and the die it lies on. -/
def queueDepth (d : Dev) (q : Nat) : Option (Nat × Depth) :=
  if q < 256 then
    let on := d.fab.msgs.filter fun m => (match m.route with | .out n _ => n == q / 8 | _ => false) && m.service == q % 8
    some (dieOfLink (q / 8), depthOf (on.map fun m => (m.chunks.length - m.sent, m.stamp)))
  else if q < 264 then
    some (Config.clover, depthOf ((d.hif.queue.filter (·.service == q % 8)).map fun w => ((hostCharge w.xfer + 255) / 256, w.stamp)))
  else if q < 424 then
    let link := (q - 264) / 5
    let vc := (q - 264) % 5
    let l := d.fab.msgs.filter fun m => m.inLink == some link && m.vc == vc && decide (m.freed < m.chunks.length)
    some (dieOfLink link, depthOf (l.map fun m => (m.chunks.length - m.freed, m.headAt)))
  else if 512 ≤ q ∧ q < 640 then some ((q - 512) / 8, engineDepth d ((q - 512) / 8) (q % 8))
  else if 1040 ≤ q ∧ q < 1048 then
    some (q - 1024, depthOf ((d.tr.search.filter fun h => dieOfLink h.inLink == q - 1024).map
      fun h => (flitCount h.bytes.length, h.at_)))
  else if 1056 ≤ q ∧ q < 1064 then
    some (q - 1040, depthOf ((d.tr.waiting.filter fun h => homeDie h.conn == q - 1040).map
      fun h => (flitCount h.bytes.length, h.at_)))
  else none

/-- The S events a sample of a queue feeds (Table 20-1). -/
def sampleEvents (q die : Nat) (x : Sample) (d : Dev) : Dev :=
  if q < 256 then countSample d die (0x1C80 + 0x10 * (q % 8) + q / 8 % 4) x.headAge
  else if 264 ≤ q ∧ q < 424 then countSample d die (0x1490 + 0x10 * ((q - 264) % 5) + (q - 264) / 5 % 4) x.headAge
  else if 512 ≤ q ∧ q < 640 then
    let e := q % 8
    countSample (countSample (countSample (countSample d die (0x04B0 + e) x.entries) die (0x04C0 + e) x.size) die
      (0x04D0 + e) x.headAge) die (0x04E0 + e) x.largest
  else d

/-- QUEUE_SAMPLE. The ages of an engine queue's entries are free values: the model keeps no stamp of them. -/
def execQueueSample (queue : Nat) (s : State) : Out :=
  s.act fun d =>
    match queueDepth d queue with
    | none => d
    | some (die, q) =>
      let x : Sample := tget {} d.fab.samples queue
      d.when (d.ready die && (decide (1024 ≤ x.enq) || d.due x.at_ 1000)) fun d =>
        let engine := decide (512 ≤ queue ∧ queue < 640)
        let x' : Sample :=
          { enq := 0, at_ := d.now, maxAge := 0, entries := q.entries, size := q.size
            headAge := if q.entries = 0 then 0 else if engine then Config.queueAge d.now queue
              else match q.oldest with | some t => d.now - t | none => 0
            largest := if engine then Config.queueAge (d.now + 1) queue else x.maxAge }
        sampleEvents queue die x' (d.onFab fun f => { f with samples := tput {} f.samples queue x' })

end Sys2Proof.Machine
end

