-- ==== Sys2Proof/Machine/Drain.lean ====
section
/-! DEFINITION. The drain of a managed removal and of the node itself (spec 17, R465, R466, Table 17-7). -/

namespace Sys2Proof.Machine

/-- A drain runs: a step of Table 17-7. -/
def draining (d : Dev) : Bool := decide (1 ≤ d.mbr.drain.step) && decide (d.mbr.drain.step ≤ 5)

def drainStep (d : Dev) (n : Nat) : Dev := d.onMbr fun m => { m with drain := { m.drain with step := n } }

/-- Steps 1 and 2: admission stops, and every role in a PAIRED shard is offered to the other replica. -/
def drainStart (k : Chip) (d : Dev) (own : Bool) (command : Option (Nat × Nat)) : Dev :=
  moveAllRoles k (d.onMbr fun m => { m with drain := { step := 2, startAt := d.now, own := own, command := command } })

/-- A drain that the node starts by itself (R466); nothing while one runs or has completed. -/
def drainOwn (k : Chip) (d : Dev) : Dev := if d.mbr.drain.step = 0 then drainStart k d true none else d

/-- Every shard is swapped and every tail handed over. -/
def rolesMoved (d : Dev) : Bool :=
  let self := d.regs.nodeId
  !((ownShards d).any fun p => p.2.2.state == 0 && (p.2.2.primary == some self || p.2.2.tail == some self))

/-- No request runs and no append is under way. -/
def workEnded (d : Dev) : Bool := d.attn.requests.isEmpty && d.attn.held.isEmpty && d.attn.acks.isEmpty

/-- Work still running at the bound of step 3 ends with DEADLINE_EXPIRED. -/
def endWork (k : Chip) : Chip :=
  let k := k.onDev fun d => requestsEnd d St.deadlineExpired fun _ _ => true
  let k := k.dev.attn.held.foldl (fun k h => appendDone k h.bytes h.conn h.action (some h) St.deadlineExpired false) k
  k.onDev fun d => d.attn.acks.foldl (fun d a => ackOwner d { a with status := St.deadlineExpired, flags := 0 } 0) d

/-- Step 4: STATUS_REPORT with LEAVING. The node's own drain halts before it while LAST_REPLICA is set (R466). -/
def drainLeave (d : Dev) : Dev :=
  if d.mbr.drain.own && isLastReplica d then d
  else
    let d := drainStep d 4
    let body := reportFields d
    (sendAll d (witnessesOf d d.mbr.domain) body).onMbr fun m => { m with lastReport := some d.now, reportBody := body }

/-- The drain goes on as far as its steps have ended, or as their bounds have been reached. -/
def drainAdvance (k : Chip) : Chip :=
  let due := fun (d : Dev) (n : Nat) => d.due d.mbr.drain.startAt n
  let k := k.when (k.dev.mbr.drain.step == 2) fun k => k.onDev fun d => revertedAgain k d
  let k := k.when (k.dev.mbr.drain.step == 2 && (rolesMoved k.dev || due k.dev 100000000)) fun k =>
    k.onDev fun d => drainStep d 3
  k.when (k.dev.mbr.drain.step == 3 && (workEnded k.dev || due k.dev 200000000)) fun k => (endWork k).onDev drainLeave

/-- The drain completes once LEAVE has been applied, or when the node was not LIVE. -/
def drainFinish (d : Dev) : Dev :=
  if d.mbr.drain.step = 4 ∧ d.live d.regs.nodeId = false then
    let d := match d.mbr.drain.command with
      | some (ring, index) => cmdDone d ring index St.ok 0
      | none => d
    d.onMbr fun m => { m with drain := { m.drain with step := 6, command := none } }
  else d

/-- The checks of R465. -/
def mayDrain (d : Dev) : Bool :=
  !(isLastReplica d) && !(d.mbr.homes.any fun p => p.2.isHome && p.2.mirror.isNone) && d.mbr.drain.step == 0

/-- MANAGED_REMOVAL (R465). -/
def execManagedRemoval (ring index : Nat) (s : State) : Out :=
  s.actRead fun k => cmdChecks k.dev ring index 0x07 (fun _ => [(mayDrain k.dev, (St.busy, 0xFFFF))]) fun d _ =>
    drainStart k (d.onCmd ring index fun c => { c with phase := .running }) false (some (ring, index))

/-- A host link that has been away from full service for 30 s (R416). -/
def hostAbsent (d : Dev) : Bool :=
  !(d.hif.link == .full && d.hif.cacheEn && d.hif.memEn) && d.hif.downAt != 0 && d.due d.hif.downAt 3000000000

/-- HOST_LINK_ABSENT_TIMEOUT (R416). -/
def execHostLinkAbsentTimeout (s : State) : Out :=
  s.actRead fun k => if k.dev.firmware && hostAbsent k.dev then drainOwn k k.dev else k.dev

/-- NODE_DRAIN (R466): while the Clover die is lost or the host link has been absent for 30 s, the node's own drain
starts, or goes on from where it halted. -/
def execNodeDrain (s : State) : Out :=
  s.actMem fun k =>
    k.when (k.dev.firmware && (k.dev.lost Config.clover || hostAbsent k.dev)) fun k =>
      drainAdvance ⟨drainOwn k k.dev, k.mem⟩

/-- DRAIN_STEP_BOUND (R465). -/
def execDrainStepBound (s : State) : Out := s.actMem fun k => k.when k.dev.firmware drainAdvance

/-- DRAIN_COMPLETE (R465). -/
def execDrainComplete (s : State) : Out :=
  s.actMem fun k => k.when k.dev.firmware fun k => (drainAdvance k).onDev drainFinish

end Sys2Proof.Machine
end

