-- ==== Sys2Proof/Machine/Receive.lean ====
section
/-! DEFINITION. Receiving messages (spec 09 to 13; commands MESSAGE_RECEIVE, MESSAGE_CLASSIFY, CONTEXT_FETCH_DONE). -/

namespace Sys2Proof.Machine

/-- The whole message at the head of a link's receive buffer that ends at this node. -/
def arrivedHere (d : Dev) (link vc : Nat) : Option FMsg :=
  d.fab.msgs.find? fun m => m.inLink == some link && m.vc == vc && m.route == .here && m.eom && !m.aborted

/-- A message leaves its receive buffer, and its credit goes back. -/
def leaveBuffer (d : Dev) (m : FMsg) : Dev :=
  (freeFlits d m m.chunks.length).onFab fun x => { x with msgs := dropWhere (·.id == m.id) x.msgs }

/-- MESSAGE_RECEIVE (R272, R284, R349). A VC2 or VC3 message waits while the search queue is full (R234); an escaped one is
discarded then (R339). -/
def execMessageReceive (link vc : Nat) (s : State) : Out :=
  s.act fun d =>
    match arrivedHere d link vc with
    | none => d
    | some m =>
      let b := m.chunks.flatten
      let v := ownVc vc b
      if !(framed m) then leaveBuffer (d.onLink link fun l => { l with framing := inc48 l.framing }) m
      else if (v = 2 ∨ v = 3) ∧ searchFull d link = true then
        if vc = 4 then leaveBuffer (d.onFab fun x => { x with escapedDropped := inc48 x.escapedDropped }) m else d
      else deliver (leaveBuffer d m) link v m.lastAt b

/-- The context of a connection is at hand: what waited for it goes on, in order. A message of VC2 or VC3 stays where it waits,
and those behind it, while its search queue is full (R234). -/
def releaseWaiting (d : Dev) (i : Nat) : Dev :=
  (d.tr.waiting.filter (·.conn == i)).foldl (fun d h =>
    if (h.vc = 2 ∨ h.vc = 3) ∧ searchFull d h.inLink = true then d
    else withContext (sampleDeq (d.onTr fun x => { x with waiting := x.waiting.erase h }) (waitQueue (homeDie i)) (d.now - h.at_)) h) d

/-- A search queue has room: messages that wait with their contexts at hand go on, and the credit that the die withheld goes
back. -/
def searchRoom (d : Dev) (die : Nat) : Dev :=
  let conns := ((d.tr.waiting.filter fun h => dieOfLink h.inLink == die && !(tget false d.tr.spilled h.conn)).map (·.conn)).eraseDups
  giveWithheld (conns.foldl releaseWaiting d) die

/-- MESSAGE_CLASSIFY (R234, R235): the oldest message of a Campion die's search queue. While both Teasel dies are lost it
waits. -/
def execMessageClassify (die : Nat) (s : State) : Out :=
  s.actRead fun k =>
    match k.dev.tr.search.find? (fun h => dieOfLink h.inLink == die), searchDie k.dev die with
    | some h, some t =>
      let k := k.onDev fun d => sampleDeq (d.onTr fun x => { x with search := x.search.erase h }) (searchQueue die) (d.now - h.at_)
      searchRoom (classify k h t) die
    | _, _ => k.dev

/-- CONTEXT_FETCH_DONE (R299, R300). -/
def execContextFetchDone (conn : Nat) (crcOk : Bool) (s : State) : Out :=
  s.act fun d =>
    d.when (d.tr.fetching.contains conn && spillUp d) fun d =>
      let room := if crcOk then cacheRoom d (homeDie conn) else some d
      match room with
      | none => d
      | some d =>
        let d := d.onTr fun x => { x with fetching := x.fetching.erase conn, spilled := tput false x.spilled conn false }
        let d := d.onHif fun h => { h with reads := dropWhere (fun r => r.purpose == .spill conn) h.reads }
        if crcOk then closeWanted (pump (releaseWaiting (cacheTouch d conn) conn) conn) conn
        else connTeardown (logEv d 0x0502 (homeDie conn) (toLe 4 conn)) conn St.deadlineExpired

end Sys2Proof.Machine
end

