-- ==== Sys2Proof/Machine/Security.lean ====
section
/-! DEFINITION. The host mailbox of the security functions, SPDM, MCTP over I3C, PLDM and the CXL mailbox
(spec 14, 19). Message codes and capability bits of the published standards are PRESUMED (notes/assumptions/8.md). -/

namespace Sys2Proof.Machine

/-! ### Host mailbox (R504 to R506) -/

/-- The slot that is not running: slot 0 in recovery (R494). -/
def idleSlot (d : Dev) : Nat := if d.boot.mode = .recovery then 0 else 1 - d.boot.slot

/-- A mailbox command may start: the block runs and BUSY is clear. -/
def Dev.mbox (d : Dev) : Bool := d.bar && !d.sec.busy

/-- End a mailbox command. -/
def mboxEnd (d : Dev) (status detail : Nat) : Dev :=
  d.onSec fun x => { x with busy := false, status := status, detail := detail, stageLen := 0, stageBuf := [] }

/-- FW_STAGE starts (R505, R506): it reads LENGTH bytes at SEC_MBOX_ADDR; BUSY while a PLDM update is in progress. -/
def fwStageOp (d : Dev) (length : Nat) : Dev :=
  if d.sec.update ≠ .idle then mboxEnd d St.busy 0
  else
    (ioRead d 7 .stage d.sec.addr length).onSec fun x =>
      { x with busy := true, status := 0, detail := 0, stageLen := length, stageBuf := [], staged := false }

/-- FW_STAGE: the slot that is not running is erased as it starts, so that a reset or loss of power during staging leaves
it invalid (R506). -/
def execFwStage (length : Nat) (s : State) : Out :=
  s.actNv fun r =>
    if r.dev.mbox && (r.dev.firmware || r.dev.boot.mode == .recovery) then
      let nv := if r.dev.sec.update = .idle then imagePut r.nv (idleSlot r.dev) [] else r.nv
      { nv := nv, dev := fwStageOp r.dev length }
    else r

/-- FW_STAGE's image has arrived: the slot that is not running is written and checked (R487, R505). In recovery a valid
image is made PREFERRED 0 with TRY (R494). -/
def stageFinish (r : Root) (data : Bytes) : Root :=
  if r.dev.sec.stageLen ≠ 512 + imageBodyLength data then { r with dev := mboxEnd r.dev St.lengthInvalid 0 }
  else
    let nv := imagePut r.nv (idleSlot r.dev) data
    match imageFault nv data with
    | some n => { nv := nv, dev := mboxEnd r.dev St.fieldInvalid n }
    | none =>
      { nv := if r.dev.boot.mode = .recovery then bootWrite nv 0 1 else nv
        dev := (mboxEnd r.dev St.ok 0).onSec fun x => { x with staged := true } }

/-- FW_ACTIVATE's effect (R505): FIELD_INVALID when the slot that is not running holds no valid image. -/
def activateOp (r : Root) : Root :=
  if imageValid r.nv (idleSlot r.dev) then
    { nv := bootWrite r.nv (idleSlot r.dev) 1, dev := mboxEnd r.dev St.ok 0 }
  else { r with dev := mboxEnd r.dev St.fieldInvalid 0 }

/-- FW_ACTIVATE: BUSY while a PLDM update is in progress (R506). -/
def fwActivateOp (r : Root) : Root :=
  if r.dev.sec.update ≠ .idle then { r with dev := mboxEnd r.dev St.busy 0 } else activateOp r

def execFwActivate (s : State) : Out :=
  s.actNv fun r => if r.dev.mbox && r.dev.firmware then fwActivateOp r else r

/-- SVN_COMMIT (R505): fuses are blown until FUSED_SVN equals RUNNING_SVN; the count never decreases. -/
def svnCommitOp (r : Root) : Root :=
  if r.dev.boot.mode = .firmware then
    { nv := { r.nv with fusedSvn := max r.nv.fusedSvn r.dev.boot.svn }, dev := mboxEnd r.dev St.ok 0 }
  else { r with dev := mboxEnd r.dev St.fieldInvalid 0 }

def execSvnCommit (s : State) : Out :=
  s.actNv fun r => if r.dev.mbox && r.dev.firmware then svnCommitOp r else r

/-- The node has completed a managed removal (R465, R505). -/
def Dev.drained (d : Dev) : Bool := d.mbr.drain.step == 6

/-- RESTART (R505): the module is reset as by the watchdog, or BUSY. -/
def execRestart (s : State) : Out :=
  if s.dev.on && s.dev.mbox && s.dev.firmware then
    .next (if s.dev.drained then s.moduleReset else { s with dev := mboxEnd s.dev St.busy 0 })
  else .next s

/-! ### SPDM (R498 to R500) -/

/-- A transport's responder state. -/
def Dev.spdm (d : Dev) (mctp : Bool) : Spdm := if mctp then d.sec.mctp else d.sec.doe

/-- Change it. -/
def Dev.onSpdm (d : Dev) (mctp : Bool) (f : Spdm → Spdm) : Dev :=
  d.onSec fun x => if mctp then { x with mctp := f x.mctp } else { x with doe := f x.doe }

/-- The responder answers on a transport: firmware runs, and DOE has a host or MCTP an endpoint ID (R501). -/
def Dev.spdmUp (d : Dev) (mctp : Bool) : Bool := d.firmware && (if mctp then d.sec.eid.isSome else d.hostUp)

/-- Answer with a response code and content; both enter the transcript. -/
def spdmAnswer (d : Dev) (mctp : Bool) (request : Nat) (req : Bytes) (code : Nat) (content : Bytes) : Dev :=
  d.onSpdm mctp fun x =>
    { x with response := (code, content),
             transcript := x.transcript ++ toLe 1 request ++ req ++ toLe 1 code ++ content }

/-- SPDM ERROR with an error code; it leaves the transcript as it was. -/
def spdmError (d : Dev) (mctp : Bool) (err : Nat) : Dev := d.onSpdm mctp fun x => { x with response := (0x7F, toLe 1 err) }

/-- The certificate chain of slot 0: the stored chain, then the Alias certificate and its signature. -/
def certChain (nv : Nonvolatile) (d : Dev) : Bytes := nv.certStore ++ d.boot.aliasCert ++ d.boot.aliasSig

/-- GET_VERSION (R500): resets that transport's state and reports version 1.2. -/
def execSpdmGetVersion (mctp : Bool) (s : State) : Out :=
  s.act fun d => d.when (d.spdmUp mctp) fun d =>
    spdmAnswer (d.onSpdm mctp fun _ => { version := true }) mctp 0x84 [] 0x04 (toLe 2 0x1200)

/-- GET_CAPABILITIES (Table 19-7): CERT_CAP, CHAL_CAP, MEAS_CAP with signature, MEAS_FRESH_CAP. -/
def execSpdmGetCapabilities (mctp : Bool) (s : State) : Out :=
  s.act fun d => d.when (d.spdmUp mctp) fun d =>
    if (d.spdm mctp).version then
      spdmAnswer (d.onSpdm mctp fun x => { x with capabilities := true }) mctp 0xE1 [] 0x61 (toLe 4 0x36)
    else spdmError d mctp 0x04

/-- NEGOTIATE_ALGORITHMS (R498): ECDSA P-256, SHA-256 and DMTF measurements, or ERROR when none is offered. -/
def execSpdmNegotiateAlgorithms (mctp : Bool) (asym hash meas : Nat) (s : State) : Out :=
  s.act fun d => d.when (d.spdmUp mctp) fun d =>
    if (d.spdm mctp).capabilities = false then spdmError d mctp 0x04
    else if bitOf asym 4 && bitOf hash 0 && bitOf meas 0 then
      spdmAnswer (d.onSpdm mctp fun x => { x with algorithms := true }) mctp 0xE3
        (toLe 4 asym ++ toLe 4 hash ++ toLe 1 meas) 0x63 (toLe 4 0x10 ++ toLe 4 0x01 ++ toLe 1 0x01)
    else spdmError d mctp 0x01

/-- GET_DIGESTS: the digest of slot 0. -/
def execSpdmGetDigests (mctp : Bool) (s : State) : Out :=
  s.actNv fun r =>
    r.onDev fun d => d.when (d.spdmUp mctp) fun d =>
      if (d.spdm mctp).algorithms then spdmAnswer d mctp 0x81 [] 0x01 (toLe 1 1 ++ sha256 (certChain r.nv d))
      else spdmError d mctp 0x04

/-- GET_CERTIFICATE: a portion of the slot 0 chain. -/
def execSpdmGetCertificate (mctp : Bool) (slot offset length : Nat) (s : State) : Out :=
  s.actNv fun r =>
    r.onDev fun d => d.when (d.spdmUp mctp) fun d =>
      if (d.spdm mctp).algorithms = false then spdmError d mctp 0x04
      else if slot ≠ 0 ∨ (certChain r.nv d).length < offset then spdmError d mctp 0x01
      else
        spdmAnswer d mctp 0x82 (toLe 1 slot ++ toLe 2 offset ++ toLe 2 length) 0x02
          (cut (certChain r.nv d) offset length)

/-- Sign a transcript with the Alias key (Table 19-7). -/
def spdmSign (d : Dev) (msg : Bytes) : Bytes × Dev :=
  let (n, d) := d.draw
  let sig := ecdsaSign d.boot.aliasKey (Config.ecdsaNonce n) (sha256 msg)
  (toLe 32 sig.1 ++ toLe 32 sig.2, d)

/-- CHALLENGE: a response signed with the Alias key. -/
def execSpdmChallenge (mctp : Bool) (slot : Nat) (nonce : Bytes) (s : State) : Out :=
  s.actNv fun r =>
    r.onDev fun d => d.when (d.spdmUp mctp) fun d =>
      if (d.spdm mctp).algorithms = false then spdmError d mctp 0x04
      else if slot ≠ 0 then spdmError d mctp 0x01
      else
        let (n, d) := d.draw
        let content := sha256 (certChain r.nv d) ++ padTo 32 (Config.spdmNonce n)
        let (sig, d) := spdmSign d ((d.spdm mctp).transcript ++ toLe 1 0x83 ++ padTo 32 nonce ++ content)
        spdmAnswer d mctp 0x83 (padTo 32 nonce) 0x03 (content ++ sig)

/-- A measurement block (Table 19-8): index, DMTF type, size and content. -/
def measurement (d : Dev) (index : Nat) : Bytes :=
  let (kind, v) : Nat × Bytes := match index with
    | 1 => (0x00, padTo 32 Config.romDigest)
    | 2 => (0x01, d.boot.measurement)
    | 3 => (0x87, toLe 8 d.boot.status)
    | _ => (0x02, d.sec.lockDigest)
  toLe 1 index ++ toLe 1 kind ++ toLe 2 v.length ++ v

/-- GET_MEASUREMENTS (R499, R500): the state at the moment the request is processed. -/
def execSpdmGetMeasurements (mctp : Bool) (index : Nat) (signed : Bool) (nonce : Bytes) (s : State) : Out :=
  s.act fun d => d.when (d.spdmUp mctp) fun d =>
    if (d.spdm mctp).algorithms = false then spdmError d mctp 0x04
    else if 4 < index ∧ index ≠ 0xFF then spdmError d mctp 0x01
    else
      let blocks := if index = 0 then toLe 1 4
        else if index = 0xFF then [1, 2, 3, 4].flatMap (measurement d) else measurement d index
      let req := toLe 1 index ++ toLe 1 (b2n signed) ++ nonce
      if signed then
        let (n, d) := d.draw
        let content := blocks ++ padTo 32 (Config.spdmNonce n)
        let (sig, d) := spdmSign d ((d.spdm mctp).transcript ++ toLe 1 0xE0 ++ req ++ content)
        spdmAnswer d mctp 0xE0 req 0x60 (content ++ sig)
      else spdmAnswer d mctp 0xE0 req 0x60 blocks

/-- SPDM_UNSUPPORTED (R498): ERROR UnsupportedRequest, for any request code outside Table 19-7. -/
def execSpdmUnsupported (mctp : Bool) (code : Nat) (s : State) : Out :=
  s.act fun d =>
    d.when (d.spdmUp mctp && !([0x81, 0x82, 0x83, 0x84, 0xE0, 0xE1, 0xE3].contains code)) fun d => spdmError d mctp 0x07

/-! ### Sideband and PLDM (R501 to R503) -/

/-- The Self-heal die's sideband answers: firmware or the ROM in recovery. -/
def Dev.sideband (d : Dev) : Bool := d.firmware || d.boot.mode == .recovery

/-- I3C_ENTDAA (R501). -/
def execI3cEntdaa (addr : Nat) (s : State) : Out :=
  s.act fun d => d.when (d.sideband && decide (addr < 128)) fun d => d.onSec fun x => { x with i3c := some addr }

/-- MCTP_SET_ENDPOINT_ID (R501). -/
def execMctpSetEndpointId (eid : Nat) (s : State) : Out :=
  s.act fun d => d.when (d.sideband && d.sec.i3c.isSome) fun d => d.onSec fun x => { x with eid := some eid }

/-- PLDM_SET_EVENT_RECEIVER (R502). -/
def execPldmSetEventReceiver (eid : Nat) (s : State) : Out :=
  s.act fun d => d.when (d.firmware && d.sec.eid.isSome) fun d => d.onSec fun x => { x with receiver := some eid }

/-- Table 19-9 sensor 9: 0 not admitted, 1 LIVE, 2 PROBATION, 3 draining, 4 left. -/
def membershipSensor (d : Dev) : Nat :=
  match tfind d.mbr.view d.regs.nodeId with
  | some m =>
    if m.live then
      if 0 < d.mbr.drain.step ∧ d.mbr.drain.step < 6 then 3 else if m.probation then 2 else 1
    else if d.mbr.everLive then 4 else 0
  | none => if d.mbr.everLive then 4 else 0

/-- A sensor's reading: what the node knows itself, or the value measured. -/
def sensorReading (d : Dev) (sensor value : Nat) : Nat :=
  match sensor with
  | 4 => d.power.cap
  | 5 => ((List.range 32).map fun k => (d.temp k).toNat).foldl max 0
  | 6 => (d.lp.temp.map fun p => p.2.toNat).foldl max 0
  | 7 => d.power.vc
  | 8 => d.mbr.score
  | 9 => membershipSensor d
  | _ => value

/-- A sensor's threshold state (Table 19-9): 0 normal, 1 warning, 2 critical. -/
def sensorLevel (d : Dev) (sensor v : Nat) : Nat :=
  match sensor with
  | 1 => if v ≤ 3000 ∨ 4000 ≤ v then 2 else 0
  | 2 => if 1500 ≤ v then 2 else 0
  | 3 => if d.power.cap ≤ v then 1 else 0
  | 5 => if 115 ≤ v then 2 else if 95 ≤ v then 1 else 0
  | 6 => if 95 ≤ v then 2 else if 85 ≤ v then 1 else 0
  | 8 => if v ≤ d.mbr.threshold then 1 else 0
  | _ => 0

/-- PLDM_SENSOR_UPDATE (R502): the reading, and a PlatformEventMessage when a threshold is crossed. -/
def execPldmSensorUpdate (sensor value : Nat) (s : State) : Out :=
  s.act fun d => d.when (d.firmware && decide (1 ≤ sensor ∧ sensor ≤ 9)) fun d =>
    let v := sensorReading d sensor value
    let lvl := sensorLevel d sensor v
    let crossed := decide (lvl ≠ tget 0 d.sec.sensorState sensor)
    d.onSec fun x =>
      { x with
        sensor := tput 0 x.sensor sensor v, sensorState := tput 0 x.sensorState sensor lvl
        platformEvents := if crossed && x.receiver.isSome && x.eid.isSome then x.platformEvents ++ [(sensor, v, lvl)]
          else x.platformEvents }

/-- PLDM_REQUEST_UPDATE (R503, R506): refused with ALREADY_IN_UPDATE_MODE while an update or FW_STAGE runs. -/
def execPldmRequestUpdate (s : State) : Out :=
  s.actNv fun r =>
    if r.dev.sideband && r.dev.sec.eid.isSome then
      if r.dev.sec.busy || r.dev.sec.update != .idle then
        { r with dev := r.dev.onSec fun x => { x with pldmResponse := 0x81 } }
      else
        { nv := imagePut r.nv (idleSlot r.dev) []
          dev := r.dev.onSec fun x => { x with update := .download, pldmBuf := [], staged := false, pldmResponse := 0 } }
    else r

/-- PLDM_FIRMWARE_DATA (R503): the bytes go into the slot that is not running, the header last, at VerifyComplete, so that
the slot stays invalid until then (R506). -/
def execPldmFirmwareData (offset : Nat) (data : Bytes) (s : State) : Out :=
  s.actNv fun r =>
    if r.dev.sec.update = .download ∧ offset + data.length ≤ 12582912 then
      let old := r.dev.sec.pldmBuf
      let buf := setAt (padTo (max old.length offset) old) offset data
      { nv := imagePut r.nv (idleSlot r.dev) (zeros (min 512 buf.length) ++ buf.drop 512)
        dev := r.dev.onSec fun x => { x with pldmBuf := buf } }
    else r

/-- PLDM_VERIFY_COMPLETE (R503): the image checks. In recovery a valid image is made PREFERRED 0 with TRY and the module
is reset (R494). -/
def execPldmVerifyComplete (s : State) : Out :=
  if s.dev.on ∧ s.dev.sec.update = .download then
    let nv := imagePut s.nv (idleSlot s.dev) s.dev.sec.pldmBuf
    let ok := (imageFault nv s.dev.sec.pldmBuf).isNone
    let r : Root :=
      { nv := if ok = true ∧ s.dev.boot.mode = .recovery then bootWrite nv 0 1 else nv
        dev := s.dev.onSec fun x =>
          { x with update := if ok then .verified else .idle, staged := ok, pldmBuf := [],
                   pldmResponse := if ok then 0 else 1 } }
    .next ({ s with nv := r.nv, dev := r.dev } : State).recovered
  else .next s

/-- PLDM_ACTIVATE_FIRMWARE (R503): the effect of FW_ACTIVATE. -/
def execPldmActivateFirmware (s : State) : Out :=
  s.actNv fun r =>
    if r.dev.firmware && r.dev.sec.update == .verified then
      let r := activateOp r
      { r with dev := r.dev.onSec fun x => { x with update := .idle, pldmResponse := x.status } }
    else r

/-! ### CXL memory device mailbox (R391) -/

/-- A log's records on the wire. -/
def cxlRecordBytes (r : CxlRecord) : Bytes :=
  toLe 1 r.kind ++ toLe 8 r.dpa ++ toLe 1 r.type ++ toLe 1 r.transaction ++ r.detail.flatMap (toLe 4)

/-- Answer a mailbox command. -/
def mailboxAnswer (d : Dev) (code : Nat) (payload : Bytes) : Dev :=
  d.onHif fun h => { h with pin := some (.mailbox code payload) }

/-- The vector an interrupt policy byte names, when it asks for MSI. -/
def policyVector (b : Nat) : Option Nat := if b % 4 = 1 then some (b / 16) else none

/-- MAILBOX_COMMAND (R391): the seven commands accepted; every other opcode returns Unsupported. -/
def execMailboxCommand (opcode : Nat) (payload : Bytes) (s : State) : Out :=
  s.act fun d => d.when d.bar fun d =>
    match opcode with
    | 0x4000 => mailboxAnswer d 0 (toLe 8 12288)
    | 0x0400 => mailboxAnswer d 0 (toLe 2 1)
    | 0x0401 => mailboxAnswer d 0 ([0x4000, 0x0400, 0x0401, 0x0100, 0x0101, 0x0102, 0x0103].flatMap fun c => toLe 2 c)
    | 0x0100 =>
      let (recs, lost) := match fld payload 0 1 with
        | 1 => (d.evt.warningLog, d.evt.warningOverflow)
        | 2 => (d.evt.failureLog, d.evt.failureOverflow)
        | _ => ([], 0)
      mailboxAnswer d 0 (toLe 2 lost ++ toLe 2 recs.length ++ recs.flatMap cxlRecordBytes)
    | 0x0101 =>
      let n := if bitOf (fld payload 1 1) 0 then 256 else fld payload 2 1
      let d := match fld payload 0 1 with
        | 1 => d.onEvt fun e => { e with warningLog := e.warningLog.drop n, warningOverflow := 0 }
        | 2 => d.onEvt fun e => { e with failureLog := e.failureLog.drop n, failureOverflow := 0 }
        | _ => d
      mailboxAnswer d 0 []
    | 0x0102 =>
      let b := fun (o : Option Nat) => match o with | some v => toLe 1 (1 + 16 * v) | none => toLe 1 0
      mailboxAnswer d 0 (toLe 1 0 ++ b d.evt.policyWarning ++ b d.evt.policyFailure ++ toLe 1 0)
    | 0x0103 =>
      mailboxAnswer (d.onEvt fun e =>
        { e with policyWarning := policyVector (fld payload 1 1), policyFailure := policyVector (fld payload 2 1) }) 0 []
    | _ => mailboxAnswer d 3 []

end Sys2Proof.Machine
end

