-- ==== Sys2Proof/Machine/HostLink.lean ====
section
/-! DEFINITION. The host link, the node's reads of host memory, the HDM window and host coherence (spec 14). -/

namespace Sys2Proof.Machine

/-! ### CXL.io reads (R399, R400) -/

/-- A command's buffer has arrived, or its read has failed (R400). -/
def bufferArrive (d : Dev) (ring index : Nat) (ok : Bool) (data : Bytes) : Dev :=
  match d.cmd ring index with
  | none => d
  | some c =>
    if c.phase ≠ .reading then d
    else if ok then d.onCmd ring index fun c => { c with phase := .ready, buf := data }
    else cmdFail d ring index St.fieldInvalid 0xFFFF

/-- A spilled context has arrived, or its read has failed and the connection ends (R299, R300). -/
def contextArrive (d : Dev) (conn : Nat) (ok : Bool) : Dev :=
  if !(d.tr.fetching.contains conn) then d
  else
    match if ok then cacheRoom d (homeDie conn) else some d with
    | none => d
    | some d =>
      let d := d.onTr fun x => { x with fetching := x.fetching.erase conn, spilled := tput false x.spilled conn false }
      if ok then pump (releaseWaiting (cacheTouch d conn) conn) conn
      else connTeardown (logEv d 0x0502 (homeDie conn) (toLe 4 conn)) conn St.deadlineExpired

/-- A read of the node has ended (R399, R400): what was waiting for it goes on. -/
def ioEnd (r : Root) (q : IoRead) (ok : Bool) (data : Bytes) : Root :=
  let d := r.dev.onHif fun h => { h with reads := dropWhere (·.id == q.id) h.reads }
  let data := padTo q.len data
  match q.purpose with
  | .descriptor ring index => { r with dev := descriptorArrive d ring index ok data }
  | .command ring index => { r with dev := bufferArrive d ring index ok data }
  | .spill conn => { r with dev := contextArrive d conn ok }
  | .rma op => { r with dev := rmaHostRead d op ok data }
  | .stage => if ok then stageFinish { r with dev := d } data else { r with dev := mboxEnd d St.fieldInvalid 0 }

/-- CXL_IO_READ_COMPLETE (R399): `ok` is false for a failed read. The last bytes of a valid image end recovery (R494). -/
def execCxlIoReadComplete (id : Nat) (ok : Bool) (data : Bytes) (s : State) : Out :=
  match s.dev.hif.reads.find? (·.id == id) with
  | none => .next s
  | some q =>
    if s.dev.on && s.dev.hostUp then
      let r := ioEnd ⟨s.nv, s.dev⟩ q ok data
      .next ({ s with nv := r.nv, dev := r.dev } : State).recovered
    else .next s

/-- CXL_IO_READ_TIMEOUT (R400): no completion for 100,000 ticks. -/
def execCxlIoReadTimeout (id : Nat) (s : State) : Out :=
  s.actNv fun r =>
    match r.dev.hif.reads.find? (·.id == id) with
    | none => r
    | some q => if r.dev.due q.at_ 100000 then ioEnd r q false [] else r

/-! ### Back-invalidation (R394 to R396) -/

/-- HOST_BIRSP (R394, R395): the line leaves its filter; what waited for it goes on. -/
def execHostBirsp (line : Nat) (s : State) : Out :=
  s.actMem fun k =>
    k.when (k.dev.cxlUp && k.dev.hif.backInv.any (·.1 == line)) fun k =>
      let k := k.onDev fun d => d.onHif fun h =>
        { h with backInv := dropWhere (·.1 == line) h.backInv
                 filter := tmod [] h.filter (addrDie (64 * line)) fun l => l.erase line
                 waiting := h.waiting.map fun w => { w with lines := w.lines.erase line } }
      memReleased k

/-- Every filter is emptied, every waiting write released, every waiting read answered with an error (R396). -/
def coherenceFails (k : Chip) : Chip :=
  let k := k.onDev fun d => d.onHif fun h =>
    { h with cohFailed := true, filter := [], backInv := [], waiting := h.waiting.map fun w => { w with lines := [] } }
  (releaseWrites k).onDev fun d => d.onHif fun h =>
    { h with hostReads := [], pin := match h.hostReads with | [] => h.pin | p :: _ => some (.memData p.1 [] true) }

/-- BACK_INVALIDATE_TIMEOUT (R396). -/
def execBackInvalidateTimeout (line : Nat) (s : State) : Out :=
  s.actMem fun k =>
    k.when (k.dev.hif.backInv.any fun p => p.1 == line && k.dev.due p.2 100000) fun k =>
      coherenceFails (k.onDev fun d => logEv d 0x0104 Config.clover (toLe 8 (64 * line)))

/-! ### The HDM window (R200, R201, R392, R393) -/

/-- CXL.mem is served: the link, Mem_Enable and a committed decoder. -/
def Dev.hdm (d : Dev) : Bool := d.cxlUp && d.hif.memEn && d.hif.committed

/-- HOST_HDM_READ: the 64-byte line that holds tier-1 address `addr` (R200). -/
def execHostHdmRead (addr : Nat) (s : State) : Out :=
  if s.dev.on && s.dev.hdm && decide (tier1Bytes ≤ addr) then .fault .noSuchAddress
  else
    s.actMem fun k =>
      let a := addr / 64 * 64
      let say := fun (data : Bytes) (err : Bool) => k.onDev fun d => d.onHif fun h => { h with pin := some (.memData a data err) }
      if !k.dev.hdm then k
      else if k.dev.hif.cohFailed then say [] true
      else if addrReady k.dev a then hostRead k a
      else say (List.replicate 64 0xFF) false

/-- HOST_HDM_WRITE: a host write of a whole line; with no copy kept the line leaves the filter (R201, R394). Once host
coherence has failed it is answered with a completion error (R396). -/
def execHostHdmWrite (addr : Nat) (data : Bytes) (keep : Bool) (s : State) : Out :=
  if s.dev.on && s.dev.hdm && decide (tier1Bytes ≤ addr) then .fault .noSuchAddress
  else
    s.actMem fun k =>
      let a := addr / 64 * 64
      if !k.dev.hdm then k
      else if k.dev.hif.cohFailed then k.onDev fun d => d.onHif fun h => { h with pin := some (.memData a [] true) }
      else
        let k := hostWrite k a (padTo 64 data)
        if keep then k
        else k.onDev fun d => d.onHif fun h => { h with filter := tmod [] h.filter (addrDie a) fun l => l.erase (a / 64) }

/-- PARTIAL_BURST_WRITE (R546): the host's through the window, or one of the node's engines. -/
def execPartialBurstWrite (addr : Nat) (data : Bytes) (host : Bool) (s : State) : Out :=
  if s.dev.on && decide (tier1Bytes < addr + data.length) then .fault .noSuchAddress
  else
    s.actMem fun k =>
      if host then (if k.dev.hdm && !k.dev.hif.cohFailed then hostWrite k addr data else k)
      else if !(addrReady k.dev addr) then k
      else
        match writeBlocked k.dev addr data.length with
        | [] => nodeWrite k addr data
        | bs => k.onDev fun d => writeLost d bs addr

/-- HDM_DECODER_COMMIT (R392): base aligned to 256 MiB, size 3,072 GiB, one way; any other commit is refused. -/
def execHdmDecoderCommit (base size ways : Nat) (s : State) : Out :=
  s.act fun d => d.when (d.bar && d.hif.link == .full) fun d =>
    if base % 268435456 = 0 ∧ size = tier1Bytes ∧ ways = 1 then
      d.onHif fun h => { h with committed := true, base := base, notCommitted := false }
    else d.onHif fun h => { h with notCommitted := true }

/-- DVSEC_ENABLE: Cache_Enable and Mem_Enable, accepted only at full service (R388, R417). -/
def execDvsecEnable (cache mem : Bool) (s : State) : Out :=
  s.act fun d => d.when (d.bar && d.hif.link == .full) fun d => d.onHif fun h => { h with cacheEn := cache, memEn := mem }

/-! ### Link up and down (R388, R415, R416) -/

/-- What the node originated on a connection whose context is out of reach ends with DIE_LOST (R301). -/
def spillLost (d : Dev) (i : Nat) : Dev :=
  let c := d.conn i
  let d := (c.sent ++ c.queue).foldl (txLost St.dieLost) d
  let d := (d.rma.ops.filter fun o => o.issued && o.conn == i).foldl (fun d o => workOutcome d o.reg St.dieLost) d
  let none_ := fun (l : List TxMsg) => l.map fun t => { t with op := TxOp.none }
  let d := d.onConn i fun c => { c with sent := none_ c.sent, queue := none_ c.queue }
  d.onRma fun x => { x with ops := dropWhere (fun o => o.issued && o.conn == i) x.ops }

/-- Spilled contexts can no longer be reached (R301): messages that wait for one are discarded and counted. -/
def spillGone (d : Dev) : Dev :=
  let away := (d.tr.spilled.map (·.1)).eraseDups
  let lost := (d.tr.waiting.filter fun h => away.contains h.conn).length
  let d := away.foldl spillLost d
  d.onTr fun x =>
    { x with fetching := [], waiting := dropWhere (fun h => away.contains h.conn) x.waiting, unreachable := x.unreachable + lost }

/-- A CXL.io read that the reset of the host interface cuts off. -/
def readCut (d : Dev) (q : IoRead) : Dev :=
  match q.purpose with
  | .rma op => rmaHostRead d op false []
  | .stage => mboxEnd d St.fieldInvalid 0
  | _ => d

/-- The host link leaves the active state (R415): node writes that wait for the host are made, reads end, and the host
interface is reset. -/
def hostDownOp (k : Chip) : Chip :=
  let k := releaseWrites (k.onDev fun d => d.onHif fun h => { h with waiting := h.waiting.map fun w => { w with lines := [] } })
  withPath k fun d =>
    let d := spillGone (d.hif.reads.foldl readCut d)
    (hostReset d).onHif fun h =>
      { h with link := .down, gts := 0, width := 0, downAt := if h.link = .full then d.now else h.downAt }

/-- HOST_LINK_DOWN (R415). -/
def execHostLinkDown (s : State) : Out := s.actMem fun k => k.when (k.dev.hif.link != .down) hostDownOp

/-- PERST_ASSERT (R415, R529): PERST_L, a hot reset or a secondary bus reset has the same effect. -/
def execPerstAssert (s : State) : Out := s.actMem hostDownOp

/-- HOST_LINK_UP (R388): 64 GT/s at ×8 or ×4 runs the CXL protocols; anything else is a plain endpoint, with an event. -/
def execHostLinkUp (gts width : Nat) (s : State) : Out :=
  s.actMem fun k =>
    k.when (k.dev.ready Config.clover && k.dev.hif.link == .down) fun k =>
      withPath k fun d =>
        if gts = 64 ∧ (width = 8 ∨ width = 4) then d.onHif fun h => { h with link := .full, gts := gts, width := width }
        else
          logEv (d.onHif fun h => { h with link := .plain, gts := gts, width := width }) 0x0105 Config.selfHeal
            (toLe 1 gts ++ toLe 1 width)

end Sys2Proof.Machine
end

