-- ==== Sys2Proof/Machine/DieLoss.lean ====
section
/-! DEFINITION. The loss of one die, its re-initialisation and the return of its memory (spec 01, Table 01-4; R199,
R462, R482). -/

namespace Sys2Proof.Machine

/-! ### What is lost with a Yarrow die -/

/-- The requests with a context on a die. -/
def requestsOn (d : Dev) (die : Nat) : List Nat := (d.attn.requests.filter fun p => p.2.ctxs.any (·.die == die)).map (·.1)

/-- A bank-op job of a lost die ends (R215): the row operation in progress leaves its destination wholly old or wholly
new, which of them is a free value. -/
def jobLost (k : Chip) (j : Job) : Chip :=
  let runs := k.dev.row.running.filter fun p => p.2.1 == j.id
  let k := runs.foldl (fun k p =>
    let (n, d) := k.dev.draw
    let k : Chip := ⟨d, k.mem⟩
    if Config.pick n % 2 = 1 then rowOpDone k (p.1 / 16) (p.1 % 16)
    else k.onDev fun d => d.onRow fun x => { x with running := tdel x.running p.1 }) k
  k.onDev fun d =>
    let d := jobDrop d j
    match j.use with
    | .granule _ _ => d
    | .command ring index =>
      let done := match k.dev.job j.id with | some j => jobResult j | none => 0
      (cmdFailState d ring index St.dieLost).onCmd ring index fun c => { c with result := done }
    | .fork key =>
      (d.obj.forks.filter fun f => f.copies.contains key).foldl (fun d f =>
        (cmdFailState d f.ring f.index St.dieLost).onObj fun x =>
          { x with forks := dropWhere (fun g => g.ring == f.ring && g.index == f.index) x.forks }) d
    | .scrub f n =>
      d.onObj fun x =>
        { x with runs := x.runs.map fun p =>
            if runTier p.1 == 1 && decide (f ≤ runFrame p.1 ∧ runFrame p.1 < f + n) then (p.1, { p.2 with scrubbing := false })
            else p }

/-- A job has work on a die's slices (R214). -/
def jobOnDie (j : Job) (die : Nat) : Bool := j.entries.any fun e => dieOfSlice (unitSlice (enDst e)) == die

/-- What a Yarrow die held ends with DIE_LOST (Table 01-4, Table 16-2). -/
def yarrowLost (k : Chip) (die : Nat) : Chip :=
  let k := k.onDev fun d => requestsEnd d St.dieLost fun _ r => r.ctxs.any (·.die == die)
  let k := k.onDev fun d => d.onAttn fun x =>
    { x with slots := x.slots.map fun p =>
        if p.2.holds.any (·.die == die) && !(p.2.lostDies.contains die) then
          (p.1, { p.2 with lostDies := p.2.lostDies ++ [die] })
        else p }
  let k := ((k.dev.row.jobs.filter fun j => jobOnDie j die)).foldl jobLost k
  let k := (k.dev.attn.held.filter (·.die == die)).foldl
    (fun k h => appendDone k h.bytes h.conn h.action (some h) St.dieLost false) k
  k.onDev fun d =>
    let d := (d.attn.staged.filter (·.die == die)).foldl (fun d c => dropStaged d c.id) d
    let d := (d.obj.copies.filter fun c => addrDie (4096 * c.frame) == die).foldl (fun d c => dropCopy d c.id) d
    let d := (dieMoves d die).foldl (fun d m => (freeDst d m).onMove m.id fun m => { m with dst := none, writes := 0, arrived := false }) d
    let d := d.onObj fun x => { x with seals := tput [] x.seals die [], prefetch := tput [] x.prefetch die [], lastLayer := x.lastLayer.filter fun p => p.1 / 2 ^ 48 != die }
    let d := d.onHif fun h => { h with filter := tput [] h.filter die [] }
    let d := d.onLp fun x => { x with readyCh := tput 0 x.readyCh die 0, entering := tput 0 x.entering die (d.now + 1) }
    cxlFail d { kind := 2, dpa := 0, type := 0, transaction := 0, detail := [1] }

/-! ### What is lost with a Campion die -/

/-- Links down, cached connections torn down, their requests ended with DIE_LOST (Table 01-4, Table 16-2). -/
def campionLost (d : Dev) (die : Nat) : Dev :=
  let cached := tget [] d.tr.cache die
  let d := requestsEnd d St.dieLost fun _ r => r.back.cmd.isNone && cached.contains r.back.conn
  let d := cached.foldl (fun d i => connTeardown d i St.dieLost) d
  let d := (dieLinks die).foldl (fun d n => linkDown d n .disabled 0) d
  d.onTr fun x =>
    { x with cache := tput [] x.cache die [], fetching := x.fetching.filter (homeDie · != die),
             waiting := dropWhere (fun h => homeDie h.conn == die) x.waiting,
             search := dropWhere (fun h => dieOfLink h.inLink == die) x.search }

/-! ### What is lost with a Vetch die -/

/-- The running requests that had a transfer in a lost hub: which ones is a free value. -/
def hubRequests (d : Dev) : List Nat :=
  (d.attn.requests.filter fun p => Config.hubHolds d.draws p.1).map (·.1)

/-- Requests and appends on their way through a lost hub. -/
def hubMessages (d : Dev) : List Inb :=
  d.tr.inbox.filter fun m => [0x23, 0x28].contains (bodyType m.bytes) && Config.hubHolds d.draws (2 ^ 32 + m.id)

/-- A message lost on its way to a Yarrow die: its request or append ends with DIE_LOST. -/
def hubLose (k : Chip) (m : Inb) : Chip :=
  let k := k.onDev fun d => d.take m.id
  if bodyType m.bytes = 0x23 then
    k.onDev fun d => refuseRequest d (msgBody m.bytes) (msgTenant m.bytes) (backOf m) St.dieLost m.at_
  else appendDone k m.bytes m.conn m.action none St.dieLost false

/-- Transfers held in the hub are lost and their requests end with DIE_LOST; the other hubs take every new transfer
(Table 01-4). -/
def vetchLost (k : Chip) : Chip :=
  let slots := hubRequests k.dev
  let k := (hubMessages k.dev).foldl hubLose k
  k.onDev fun d => (requestsEnd d St.dieLost fun i _ => slots.contains i).draw.2

/-! ### Declaring a die lost (R25) -/

/-- Requests that the loss of a die ends: the event's DATA. -/
def endedBy (d : Dev) (die : Nat) : Nat :=
  if die < 16 then (requestsOn d die).length
  else if 24 ≤ die ∧ die ≤ 27 then (hubRequests d).length + ((hubMessages d).filter (bodyType ·.bytes == 0x23)).length
  else if 16 ≤ die ∧ die ≤ 23 then
    (d.attn.requests.filter fun p => p.2.back.cmd.isNone && (tget [] d.tr.cache die).contains p.2.back.conn).length
  else 0

/-- R25 steps 1 to 3: the die is held in reset, what it held ends, and the event record is written. -/
def dieLostOp (k : Chip) (die : Nat) : Chip :=
  let ended := endedBy k.dev die
  let k :=
    if die < 16 then yarrowLost k die
    else if 16 ≤ die ∧ die ≤ 23 then k.onDev fun d => campionLost d die
    else if 24 ≤ die ∧ die ≤ 27 then vetchLost k
    else if die = Config.clover then hostDownOp k
    else k
  let k := k.onDev fun d =>
    let d := (d.setDie die .lost).onDies fun x =>
      { x with lostAt := tins x.lostAt die d.now, beatLost := tput false x.beatLost die false, losses := inc48 x.losses }
    let d := d.onMbr fun m => { m with dieLosses := d.now :: m.dieLosses }
    shareCheck (logEv (fixedCount d Config.selfHeal 44 1) 0x0801 die (toLe 4 ended))
  if die = Config.clover then ⟨drainOwn k k.dev, k.mem⟩ else k

/-- The die runs, or its reset has been released. -/
def dieRuns (d : Dev) (die : Nat) : Bool :=
  decide (die < 31) && (d.ready die || tget .inReset d.dies.st die == .released)

/-- DIE_LOST (R25). -/
def execDieLost (die : Nat) (s : State) : Out :=
  s.actMem fun k => k.when (k.dev.firmware && dieRuns k.dev die) fun k => dieLostOp k die

/-- DIE_READY_TIMEOUT (R482): a die of the group being released is held in reset until the next power-good. -/
def execDieReadyTimeout (die : Nat) (s : State) : Out :=
  s.actMem fun k =>
    let d := k.dev
    let late := tget .inReset d.dies.st die == .released && (dieGroup d.dies.step).contains die &&
      d.due d.dies.stepAt (groupBound d.dies.step)
    k.when (d.firmware && late && decide (die < 31)) fun k =>
      (dieLostOp k die).onDev fun d => d.onDies fun x => { x with held := tput false x.held die true }

/-- THERMAL_TRIP (R462, R464): the Self-heal die's trip turns the module off and latches; any other is a loss, with
a THERMAL event. -/
def execThermalTrip (die : Nat) (s : State) : Out :=
  if die = Config.selfHeal then
    (if s.dev.on then s.powerDown fun p => { p with latched := true } else .next s)
  else
    s.actMem fun k =>
      let k := k.onDev fun d =>
        let d := d.onPower fun p => { p with tripped := tput false p.tripped die true }
        if d.firmware then thermalEvent d die else d
      k.when (k.dev.firmware && dieRuns k.dev die) fun k => dieLostOp k die

/-! ### Memory of a lost Yarrow die (R199) -/

/-- First address and bytes of the memory of a Yarrow die. -/
def dieMem (die : Nat) : Nat × Nat := (4 * die * sliceBytes, 4 * sliceBytes)

/-- Copy bytes between two ranges of the array. -/
def copyRange (m : Memory) (src dst n : Nat) : Memory :=
  (m.filter fun p => decide (src ≤ p.1) && decide (p.1 < src + n)).foldl (fun m p => memPut m (dst + (p.1 - src)) p.2)
    (memClear m dst n)

/-- The node structures of a range are copied to their other place (R185, R199): what the second copy delivers; a burst that it
does not deliver stays unreadable there too, and is reported (R187). -/
def copyStructures (k : Chip) (src dst n : Nat) : Chip :=
  let bad := badBursts k.dev src n
  let d := badServed k.dev bad 0 St.ok
  ⟨bad.foldl (fun d b => setBurstError d (b + dst / 32 - src / 32) (burstError k.dev b)) d, copyRange k.mem src dst n⟩

/-- The match copies of a die whose memory is gone come back from those on the other die (R199). -/
def restoreCopies (k : Chip) (die : Nat) : Chip :=
  let size := 33554432 + 256 * 2 ^ k.dev.regs.overflowLog2
  match k.dev.mat.areas with
  | [a, b] =>
    if dieOfSlice a = die then copyStructures k (b * sliceBytes) (a * sliceBytes) size
    else if dieOfSlice b = die then copyStructures k (a * sliceBytes) (b * sliceBytes) size
    else k
  | _ => k

/-- SELF_REFRESH_TIMEOUT (R199): the controllers have not entered self-refresh within 1,000 ticks and are reset with
their die: what its memory held is gone, as after power-on (DEDUCED, notes/assumptions/46.md), and its node structures come back
from their second copy. -/
def execSelfRefreshTimeout (die : Nat) (s : State) : Out :=
  s.actMem fun k =>
    let t := tget 0 k.dev.lp.entering die
    k.when (k.dev.firmware && k.dev.lost die && t != 0 && k.dev.due (t - 1) 1000) fun k =>
      let r := dieMem die
      let k := restoreCopies (zeroNow k r.1 r.2) die
      k.onDev fun d => d.onLp fun x => { x with entering := tput 0 x.entering die 0 }

/-- After the release, every page in the channels of a Yarrow die is SUSPECT (Table 01-4). -/
def suspectDie (d : Dev) (die : Nat) : Dev :=
  ((d.obj.pages.filter fun p => p.2.tier == 1 && p.2.count != 0 && addrDie (4096 * p.2.frame) == die).map (·.1)).foldl
    (fun d k => suspectPage (flushFail d k St.dieLost) k false) d

/-- R514, R518: the counters of a die start at 0, its settings stay, and a discontinuity is marked; derived units that
use the die start a new window. -/
def countersReleased (d : Dev) (die : Nat) : Dev :=
  let fresh := fun (c : Counter) => { c with value := 0, tick := 0, disc := true }
  let d := d.onCnt fun x =>
    { x with
      c := x.c.map fun p => if p.1 / 64 == die then (p.1, fresh p.2) else p
      slots := x.slots.map fun p => if bitsOf (tget 0 x.sel p.1) 16 5 == die then (p.1, fresh p.2) else p
      derived := x.derived.map fun p =>
        let e := p.2.event
        let on := (decide (0xF000 ≤ e ∧ e < 0xF040) && (e - 0xF000) / 4 == die) ||
          (decide (0xF400 ≤ e ∧ e < 0xF480) && (e - 0xF400) / 8 == die) ||
          (decide (0xF100 ≤ e ∧ e ≤ 0xF120) && (if e = 0xF120 then die == 30 else dieOfLink (e - 0xF100) == die)) ||
          (decide (0xF200 ≤ e ∧ e ≤ 0xF220) && (if e = 0xF220 then die == 30 else dieOfLink (e - 0xF200) == die))
        if on then (p.1, { p.2 with cur := [], startAt := d.now }) else p }
  if frozenOn d die then d
  else d.onCnt fun x => { x with c := tmod {} x.c (die * 64 + 17) fun c => { ctrAdd 1 c with disc := true } }

/-- Every entry of a Teasel die is rewritten from the authoritative copies before it takes searches (R251). -/
def teaselRefill (k : Chip) (die : Nat) : Chip :=
  let lo := matIndex die 0
  let k := k.onDev fun d => d.onMat fun m => { m with entries := m.entries.filter fun p => !(decide (lo ≤ p.1 ∧ p.1 < lo + dieEntries)) }
  if k.dev.mat.ready then
    let slotsOf := fun (area : Nat) =>
      let base := copyAddr k.dev area lo
      (k.mem.filter fun p => decide (base ≤ p.1) && decide (p.1 < base + 64 * dieEntries)).map fun p => lo + (p.1 - base) / 64
    (slotsOf 0 ++ slotsOf 1).eraseDups.foldl (fun k slot =>
      match readCopy k slot with
      | (some b, k) => k.onDev fun d => putEntry d slot (readCopyBytes b)
      | (none, k) => k) k
  else k

/-- DIE_RESET_RELEASE (R25 step 5, R26, R480): not while a thermal trip is latched, nor for a die held since power-good. -/
def execDieResetRelease (die : Nat) (s : State) : Out :=
  s.actMem fun k =>
    let d := k.dev
    k.when (d.firmware && d.lost die && !(tget false d.dies.held die) && !(tget false d.power.tripped die)) fun k =>
      let k := if die = 28 ∨ die = 29 then teaselRefill k die else k
      k.onDev fun d =>
        let d := countersReleased ((d.setDie die .released).onDies fun x =>
          { x with lostAt := tins x.lostAt die d.now, rebased := tput false x.rebased die true }) die
        let d :=
          if die < 16 then
            let d := d.onAttn fun x =>
              { x with slots := x.slots.map fun p => (p.1, { p.2 with holds := p.2.holds.filter fun h =>
                  !(h.die == die && p.2.lostDies.contains die) }) }
            let d := if tget 0 d.lp.entering die = 0 then d
              else d.onLp fun x => { x with entering := tput 0 x.entering die 0, selfRefresh := tput false x.selfRefresh die true }
            suspectDie d die
          else if 16 ≤ die ∧ die ≤ 23 then
            ((dieLinks die).filter (bitOf d.regs.links)).foldl (fun d n =>
              d.onLink n fun l => { l with state := .detect, stepAt := d.now, told := false, settings := false }) d
          else d
        shareCheck d

/-- SELF_REFRESH_EXIT (R199, R535): the controllers have retrained; READY bits are set again, FAILED for a faulty
channel. -/
def execSelfRefreshExit (die failed : Nat) (s : State) : Out :=
  s.act fun d =>
    d.when (tget false d.lp.done die && tget 0 d.lp.readyCh die == 0 && (d.ready die || tget .inReset d.dies.st die == .released)) fun d =>
      let was := tget 0 d.lp.failedCh die
      let bad := was ||| (failed % 256)
      d.onLp fun x =>
        { x with readyCh := tput 0 x.readyCh die (255 - bad), failedCh := tput 0 x.failedCh die bad,
                 selfRefresh := tput false x.selfRefresh die false }

/-- DIE_REPORT_READY (R530): READY sets, and LOST clears in the same update. A Teasel die answers the lookups that waited for it
(R251). -/
def execDieReportReady (die : Nat) (s : State) : Out :=
  s.actMem fun k => k.when (tget .inReset k.dev.dies.st die == .released) fun k =>
    lookupsReady (k.onDev fun d => (d.setDie die .ready).onDies fun x => { x with lostAt := tdel x.lostAt die }) die

end Sys2Proof.Machine
end

