-- ==== Sys2Proof/Machine/Home.lean ====
section
/-! DEFINITION. Home records and shadowing (spec 13, 15; commands HOME_QUERY to SHADOW_READY, OBJ_CREATE, OBJ_RECORD,
OBJ_DELETE, SHADOW_START, RECORD_NODE_TIMEOUT). -/

namespace Sys2Proof.Machine

/-- HOME_QUERY (R548). -/
def execHomeQuery (msg : Nat) (s : State) : Out := s.act fun d => onMsg d msg 0x50 homeQueryOp

/-- HOME_REPLY (R374). -/
def execHomeReply (msg : Nat) (s : State) : Out := s.actRead fun k => onMsgRead k msg 0x51 homeReplyOp

/-- SHARD_UPDATE (R366). -/
def execShardUpdate (msg : Nat) (s : State) : Out := s.actRead fun k => onMsgRead k msg 0x52 shardUpdateOp

/-- SHARD_ACK (R366). -/
def execShardAck (msg : Nat) (s : State) : Out := s.act fun d => onMsg d msg 0x53 shardAckOp

/-- Nodes of a record that are no longer LIVE lose their roles; a dead home mirror is not waited for (R369, R366). -/
def deadNodes (d : Dev) (obj : Nat) : Dev :=
  match d.home obj with
  | none => d
  | some h =>
    let d := d.onHome obj fun h => { h with unacked := h.unacked.filter fun u => d.live u.1 }
    let d := if (mirrorOf d h).isNone then (h.waiting.map (·.1)).foldl (fun d n => mirrorHolds d obj n) d else d
    homeSettle (loseNodes d obj none fun x => !(d.live x)) obj

/-- HOME_RECORD_CHANGE: a membership change touches a record: the home mirror takes over from a home that is not LIVE,
and the home rewrites the shards of nodes that are not LIVE (R367, R369). -/
def execHomeRecordChange (object : Nat) (s : State) : Out :=
  s.actRead fun k =>
    match k.dev.home object with
    | none => k.dev
    | some h =>
      if h.isHome then deadNodes k.dev object
      else if h.mirror = some k.dev.regs.nodeId ∧ k.dev.live h.home = false then deadNodes (takeOver k object) object
      else k.dev

/-- SHARD_WITHDRAW (R369). -/
def execShardWithdraw (msg : Nat) (s : State) : Out := s.act fun d => onMsg d msg 0x56 withdrawOp

/-- TAIL_OFFER (R372). -/
def execTailOffer (msg : Nat) (s : State) : Out := s.actRead fun k => onMsgRead k msg 0x54 tailOfferOp

/-- TAIL_ACCEPT (R372, R373). -/
def execTailAccept (msg : Nat) (s : State) : Out := s.act fun d => onMsg d msg 0x55 tailAcceptOp

/-- HANDOVER_TIMEOUT: 1,000,000 ticks after the offer the tail is the offerer's again (R373). -/
def execHandoverTimeout (object shard : Nat) (s : State) : Out :=
  s.act fun d =>
    match (d.home object).bind fun h => if h.isHome then h.handovers.find? (·.1 == shard) else none with
    | none => d
    | some p =>
      d.when (d.due p.2.2.2 1000000) fun d =>
        let d := d.onHome object fun h => { h with guards := dropWhere (·.1 == shard) h.guards ++ [(shard, d.now)] }
        endHandover d object shard

/-- SHADOW_COMPARE (R377): every part of a forwarded request is here from both sides. -/
def execShadowCompare (object shard request : Nat) (s : State) : Out :=
  s.actRead fun k =>
    match (tfind k.dev.mbr.shadowings (object * 256 + shard)).bind fun w => w.compared.find? (·.request == request) with
    | some c => if comparedWhole c then compareDone k object shard request (comparedEqual c) else k.dev
    | none => k.dev

/-- SHADOW_COMPARISON_DEADLINE (R377, Table 13-12): a part is missing at the request's deadline. -/
def execShadowComparisonDeadline (object shard request : Nat) (s : State) : Out :=
  s.actRead fun k =>
    match (tfind k.dev.mbr.shadowings (object * 256 + shard)).bind fun w => w.compared.find? (·.request == request) with
    | some c => if !(comparedWhole c) && decide (c.until_ ≤ k.dev.now) then compareDone k object shard request false else k.dev
    | none => k.dev

/-- SHADOW_DIGEST (R375). -/
def execShadowDigest (msg : Nat) (s : State) : Out := s.actRead fun k => onMsgRead k msg 0x57 digestOp

/-- SHADOW_READY (R375). -/
def execShadowReady (msg : Nat) (s : State) : Out := s.act fun d => onMsg d msg 0x58 shadowReadyOp

/-! ### Commands on records (R430 to R434) -/

/-- A node's failure domain in the view, for a node that is LIVE (R547). -/
def liveDomain (d : Dev) (node : Nat) : Option Nat := (d.member node).bind fun m => if m.live then some m.domain else none

/-- Primary and mirror are distinct nodes in distinct failure domains, all LIVE (R365, R430). -/
def rolesOk (d : Dev) (s : Shard) : Bool :=
  match s.primary with
  | none => false
  | some p =>
    match liveDomain d p with
    | none => false
    | some f => match s.mirror with
      | none => true
      | some m => m != p && (match liveDomain d m with | some x => x != f | none => false)

/-- Probation bars a node from a new primary role (R362). -/
def mayLead (d : Dev) (node : Option Nat) : Bool :=
  match node.bind d.member with | some m => !m.probation | none => true

/-- The home mirror named is LIVE and in another failure domain than the home (R365, Table 15-16). -/
def homesOk (d : Dev) (h : HomeRec) : Bool :=
  (liveDomain d h.home).isSome &&
    match h.mirror with
    | none => true
    | some m => (match liveDomain d m with | some x => some x != liveDomain d h.home | none => false)

/-- The checks of OBJ_CREATE on the record in its buffer, in R430's order; a node that is not LIVE cannot send to the
others that the record names (R423). -/
def createChecks (d : Dev) (c : Cmd) : List (Bool × Nat) :=
  let h := readWhole c.buf
  let g : Geom := ⟨h.format, h.tCode, h.hkv, h.dCode⟩
  [(h.object == fld c.desc 0x10 4 && h.object != 0, St.fieldInvalid), (h.home == d.regs.nodeId, St.fieldInvalid),
    (h.tenant == cTenant c, St.tenantMismatch),
    ((d.home (mkObj h.tenant h.object)).isNone && (d.objAt (mkObj h.tenant h.object)).isNone, St.fieldInvalid),
    (recordReserved c.buf, St.fieldInvalid)] ++
  (match geomCheck h.format h.tCode h.hkv h.dCode h.layers with | some st => [(false, st)] | none => []) ++
  [(decide (1 ≤ h.shards.length ∧ h.shards.length ≤ 64) && shardsInOrder g h.shards, St.fieldInvalid),
    (d.live d.regs.nodeId || (h.mirror.toList ++ h.shards.flatMap namedIn).all (· == d.regs.nodeId), St.epochStale),
    (h.shards.all (fun s => rolesOk d s && mayLead d s.primary) && homesOk d h, St.fieldInvalid),
    ((compIndex d h.composition).isSome && h.composition != 0, St.fieldInvalid),
    (h.epoch == 0 && h.shards.all (fun s => s.epoch == 0 && s.shadow.isNone && !s.fromMirror && s.tail.isNone && s.handover.isNone && s.state == 0),
      St.fieldInvalid)]

/-- The length of a record command's buffer agrees with its SHARD_COUNT, which is not all-ones (Table 15-15, R8). -/
def recordLenOk (c : Cmd) : Bool := fld c.buf 2 2 != 0xFFFF && fld c.desc 0x20 4 == 32 + 40 * fld c.buf 2 2

/-- OBJ_CREATE (R430). -/
def execObjCreate (ring index : Nat) (s : State) : Out :=
  s.act fun d =>
    match d.cmdReady ring index 0x10 with
    | none => d
    | some c =>
      if recordLenOk c = false then cmdFail d ring index St.lengthInvalid 0x20
      else
        match firstFail (createChecks d c) with
        | some st => cmdFailState d ring index st
        | none =>
          let h := readWhole c.buf
          let obj := mkObj h.tenant h.object
          let shards := h.shards.map fun s =>
            { s with state := if s.mirror.isSome then 0 else 1, tail := if s.isOpen then s.primary else none }
          let d := d.onMbr fun m =>
            { m with homes := tins m.homes obj { h with isHome := true, shards := shards, creating := some (ring, index) } }
          let d := d.onCmd ring index fun c => { c with phase := .running }
          homeChange d obj shards (List.range shards.length) true

/-- RECORD_NODE_TIMEOUT: 100,000,000 ticks without an answer, and the node is treated as withdrawn (R430). -/
def execRecordNodeTimeout (object node : Nat) (s : State) : Out :=
  s.act fun d =>
    match d.home object with
    | none => d
    | some h =>
      d.when (h.isHome && h.creating.isSome && h.unacked.any (·.1 == node) && d.due h.sentAt 100000000) fun d =>
        homeSettle (badAnswer d object node St.deadlineExpired) object

/-! #### OBJ_RECORD (R431, Table 15-16) -/

/-- A shard record without what a change of Table 15-16 may alter is as it was. -/
def sameShard (a b : Shard) : Bool :=
  { a with epoch := 0, handover := none } == { b with epoch := 0, handover := none }

/-- The closing of the OPEN shard: the page at which it closes, when the new record closes it so. -/
def closesAt (old new : List Shard) : Option Nat :=
  if new.length = old.length + 1 then
    let n := old.length - 1
    let o := old.getD n {}
    let c := new.getD n {}
    let f := new.getD (n + 1) {}
    if c.isOpen = false ∧ f.isOpen = true ∧ f.first = c.last + 1 ∧ f.first % 16 = 0 ∧ o.first ≤ c.last ∧
        c.first = o.first ∧ f.last = 0 ∧ c.primary = o.primary ∧ c.mirror = o.mirror ∧ c.shadow = o.shadow ∧ c.state = o.state ∧
        f.shadow = none then some f.first else none
  else none

/-- A LOST shard given new replicas. -/
def revives (a b : Shard) : Bool :=
  a.state == 2 && b.primary.isSome && b.first == a.first && b.last == a.last && b.isOpen == a.isOpen && b.shadow == a.shadow

/-- The shards the new record changes, among those it had. -/
def recordChanged (old new : List Shard) : List Nat :=
  (List.range old.length).filter fun n => !(sameShard (old.getD n {}) (new.getD n {}))

/-- The checks of OBJ_RECORD against the current record. -/
def recordChecks (d : Dev) (c : Cmd) (h : HomeRec) : List (Bool × Nat) :=
  let w := readWhole c.buf
  let changed := recordChanged h.shards w.shards
  let g : Geom := ⟨h.format, h.tCode, h.hkv, h.dCode⟩
  let close := closesAt h.shards w.shards
  [(recordReserved c.buf, St.fieldInvalid),
    (w.object == h.object && w.tenant == h.tenant && w.home == h.home && w.format == h.format && w.tCode == h.tCode &&
      w.hkv == h.hkv && w.dCode == h.dCode && w.layers == h.layers && w.composition == h.composition, St.fieldInvalid),
    (w.shards.length == h.shards.length || close.isSome, St.fieldInvalid),
    (decide (w.shards.length ≤ 64) && shardsInOrder g w.shards, St.fieldInvalid),
    (w.mirror == h.mirror || homesOk d w, St.fieldInvalid),
    (changed.all fun n =>
      (close.isSome && n + 1 == h.shards.length) ||
        (revives (h.shard n) (w.shard n) && rolesOk d (w.shard n) && mayLead d (w.shard n).primary), St.fieldInvalid),
    (close.isNone || (rolesOk d (w.shard h.shards.length) && mayLead d (w.shard h.shards.length).primary), St.fieldInvalid)]

/-- The tail owner's part of a close at a page: none while appends are still to be acknowledged (R431). -/
def tailCloses (k : Chip) (obj n page : Nat) : Option Bool × Dev :=
  let d := k.dev
  match d.objAt obj with
  | none => let r := d.draw; (some (Config.remoteTailCloses r.1), r.2)
  | some o =>
    match tfind o.shards n with
    | none => let r := d.draw; (some (Config.remoteTailCloses r.1), r.2)
    | some s =>
      if s.tail ≠ some d.regs.nodeId then let r := d.draw; (some (Config.remoteTailCloses r.1), r.2)
      else
        let d := if o.offering.any (·.1 == n) then d
          else d.onObjAt obj fun o => { o with offering := o.offering ++ [(n, true)] }
        if d.attn.acks.any fun a => a.tenantObject == obj && a.shard == n then (none, d)
        else if !(tailsRead d obj o.layers) then (none, tailsLost d obj o.layers)
        else (some ((List.range o.layers).all fun l => layerLength k obj o.geom l == page * o.geom.T), d)

/-- The shards after an accepted OBJ_RECORD. -/
def recordShards (old new : List Shard) (close : Option Nat) : List Shard :=
  let fresh := fun (s : Shard) =>
    { s with state := if s.mirror.isSome then 0 else 1, tail := if s.isOpen then s.primary else none, handover := none, epoch := 0 }
  (List.range new.length).map fun n =>
    let o := old.getD n {}
    let w := new.getD n {}
    if old.length ≤ n then fresh w
    else if close.isSome ∧ n + 1 = old.length then { o with isOpen := false, last := w.last, tail := none, handover := none }
    else if sameShard o w then o
    else { fresh w with epoch := o.epoch }

/-- Make the change of an accepted OBJ_RECORD. -/
def recordApply (d : Dev) (ring index obj : Nat) (h : HomeRec) (w : HomeRec) (close : Option Nat) : Dev :=
  let changed := recordChanged h.shards w.shards ++ (if close.isSome then [h.shards.length] else [])
  let newMirror := w.mirror.isSome && w.mirror != h.mirror
  let d := d.onHome obj fun h => { h with mirror := w.mirror, creating := some (ring, index), badStatus := 0 }
  let d := d.onCmd ring index fun c => { c with phase := .running }
  let d := homeChange d obj (recordShards h.shards w.shards close) changed true
  let d := if newMirror then
      ((List.range h.shards.length).filter fun n => !(changed.contains n)).foldl (fun d n => announce d obj (n, [])) d
    else d
  homeSettle d obj

/-- OBJ_RECORD (R431). It waits while another record change of the object waits for its acknowledgements. -/
def execObjRecord (ring index : Nat) (s : State) : Out :=
  s.actRead fun k =>
    let d := k.dev
    match d.cmdReady ring index 0x11 with
    | none => d
    | some c =>
      let obj := mkObj (cTenant c) (fld c.desc 0x10 4)
      if recordLenOk c = false then cmdFail d ring index St.lengthInvalid 0x20
      else if let some (st, off) := firstFail (objIdChecks d c.desc 0x10) then cmdFail d ring index st off
      else
        match d.home obj with
        | none => cmdFail d ring index St.noSuchObject 0x10
        | some h =>
          let w := readWhole c.buf
          if h.isHome = false then cmdFail d ring index St.noSuchObject 0x10
          else if h.creating.isSome then d
          else
            match firstFail (recordChecks d c h) with
            | some st => cmdFailState d ring index st
            | none =>
              match closesAt h.shards w.shards with
              | none => recordApply d ring index obj h w none
              | some page =>
                let n := h.shards.length - 1
                let r := tailCloses k obj n page
                match r.1 with
                | none => r.2
                | some true => recordApply r.2 ring index obj h w (some page)
                | some false =>
                  cmdFailState (r.2.onObjAt obj fun o => { o with offering := dropWhere (·.1 == n) o.offering }) ring index
                    St.fieldInvalid

/-- Runs in use that have not left their entries. -/
def liveRuns (d : Dev) : Nat := (d.obj.runs.filter fun p => !p.2.left).length

/-- OBJ_DELETE (R61, R432). -/
def execObjDelete (ring index : Nat) (s : State) : Out :=
  s.act fun d =>
    match d.cmdReady ring index 0x12 with
    | none => d
    | some c =>
      let obj := mkObj (cTenant c) (fld c.desc 0x10 4)
      if let some (st, off) := firstFail (objIdChecks d c.desc 0x10) then cmdFail d ring index st off
      else if (d.objAt obj).isNone && (d.home obj).isNone then cmdFail d ring index St.noSuchObject 0x10
      else
        let before := liveRuns d
        let d := dropObject d obj
        let d := blockEnd (d.onMbr fun m =>
          { m with homes := tdel m.homes obj, shadowings := m.shadowings.filter fun p => p.1 / 256 != obj }) 6 (objId obj) (objTenant obj)
        cmdDone d ring index St.ok (before - liveRuns d)

/-- The checks of SHADOW_START (R375, R434). -/
def shadowChecks (d : Dev) (c : Cmd) (h : HomeRec) : List (Bool × (Nat × Nat)) :=
  let n := fld c.desc 0x14 1
  let s := h.shard n
  let x := fld c.desc 0x18 4
  let f := St.fieldInvalid
  [(decide (n < h.shards.length), (f, 0x14)), (decide (fld c.desc 0x15 1 < 2), (f, 0x15)),
    (decide (fld c.desc 0x16 2 ≤ 1024), (f, 0x16)), (decide (x < 2 ^ 20), (f, 0x18)),
    (fld c.desc 0x1C 4 == 0 || (decide (1000 ≤ fld c.desc 0x1C 4) && decide (fld c.desc 0x1C 4 ≤ 1000000)), (f, 0x1C)),
    (h.isHome, (f, 0x10)), (s.state != 2, (f, 0x14)), (s.shadow.isNone, (f, 0x14)),
    (fld c.desc 0x15 1 == 0 || s.mirror.isSome, (f, 0x15)),
    ((match d.member x with | some m => m.live && !m.probation | none => false) && s.primary != some x && s.mirror != some x &&
      (match s.primary with | some p => liveDomain d p != liveDomain d x | none => false), (f, 0x18))]

/-- SHADOW_START (R375, R434). -/
def execShadowStart (ring index : Nat) (s : State) : Out :=
  s.act fun d =>
    match d.cmdReady ring index 0x16 with
    | none => d
    | some c =>
      let obj := mkObj (cTenant c) (fld c.desc 0x10 4)
      match d.home obj with
      | none =>
        match firstFail (objIdChecks d c.desc 0x10) with
        | some (st, off) => cmdFail d ring index st off
        | none => cmdFail d ring index St.fieldInvalid 0x10
      | some h =>
        match firstFail (objIdChecks d c.desc 0x10 ++ shadowChecks d c h) with
        | some (st, off) => cmdFail d ring index st off
        | none =>
          let n := fld c.desc 0x14 1
          let sample := if fld c.desc 0x16 2 = 0 then 16 else fld c.desc 0x16 2
          let wanted := if fld c.desc 0x1C 4 = 0 then 10000 else fld c.desc 0x1C 4
          let d := d.onHome obj fun h => { h with shadowing := h.shadowing ++ [(n, sample, wanted, some (ring, index))] }
          let d := d.onCmd ring index fun c => { c with phase := .running }
          let shard := { h.shard n with shadow := some (fld c.desc 0x18 4), fromMirror := fld c.desc 0x15 1 == 1 }
          homeChange d obj (h.shards.set n shard) [n] true

end Sys2Proof.Machine
end

