-- ==== Sys2Proof/Machine/MemRows.lean ====
section
/-! DEFINITION. The LPDDR6 controllers: memory enable, reads, refresh, calibration and patrol (spec 07). -/

namespace Sys2Proof.Machine

/-! ### Memory enable (Table 07-7) -/

/-- MEM_ENABLE_COMPLETE (R196 steps 5 and 6): both ranks hold zeros with check bits; each channel is ready or failed. -/
def execMemEnableComplete (die failed : Nat) (s : State) : Out :=
  s.actMem fun k =>
    k.when (k.dev.ready die && tget 0 k.dev.lp.running die != 0) fun k =>
      let bad := failed % 256
      let k := zeroNow k (4 * die * sliceBytes) (4 * sliceBytes)
      k.onDev fun d =>
        logEv (d.onLp fun x =>
          { x with running := tput 0 x.running die 0, done := tput false x.done die true,
                   readyCh := tput 0 x.readyCh die (255 - bad), failedCh := tput 0 x.failedCh die bad,
                   retired := x.retired.filter fun p => addrDie (4096 * p.1) != die }) 0x0201 die (toLe 1 (255 - bad) ++ toLe 1 bad)

/-! ### Reads (R180, R181, R187 to R189) -/

/-- An operation that read an uncorrectable burst ends or recovers as Table 07-4 gives. -/
def readerFails (d : Dev) (burst : Nat) (reader : Reader) : Dev :=
  match reader with
  | .attention die copy => match d.stagedAt die copy with | some c => pageFail d c St.uncorrectable | none => d
  | .append key => suspectPage d key false
  | .move id => match d.obj.moves.find? (·.id == id) with | some m => sourceFails d m | none => d
  | .structure both key =>
    if both then
      let obj := keyObj key
      let d := requestsEnd d St.uncorrectable fun _ r => mkObj (aqTenant r.body) (aqObject r.body) == obj
      match keyShard d key with | some (n, _) => withdrawShard d obj n false | none => d
    else setBurstError d burst (zeros 36)
  | .host => d
  | .patrol => match pageAt d (burst / 128) with | some key => suspectPage d key false | none => d

/-- Transaction type of the General Media Event: 0 host read, 1 patrol, 2 internal. -/
def readTransaction (reader : Reader) : Nat := match reader with | .host => 0 | .patrol => 1 | _ => 2

/-- The sub-channel of an address. -/
def patrolSub (a : Nat) : Nat := 2 * addrChannel a + addrSub a % 2

/-- Patrol has corrected a burst: on the third consecutive sweep its frame is retired (R189). -/
def patrolCorrected (d : Dev) (burst : Nat) : Dev :=
  let sweep := tget 0 d.lp.sweeps (patrolSub (32 * burst)) + 1
  let (last, hits) := tget (0, 0) d.lp.patrolHits burst
  let n := if last = sweep then hits else if last + 1 = sweep then hits + 1 else 1
  let d := d.onLp fun x => { x with patrolHits := tput (0, 0) x.patrolHits burst (sweep, n) }
  if n < 3 then d else moveRetired (retireFrame d (burst / 128)) (burst / 128)

/-- A burst of a checked granule is read and decoded (Table 07-3). -/
def burstRead (d : Dev) (burst : Nat) (reader : Reader) : Dev :=
  if burstBankOp d burst then d
  else
    let r := eccDecode (burstError d burst)
    match r.1 with
    | .clean => d
    | .corrected =>
      let d := correctedFound d burst r.2
      if reader = .patrol then patrolCorrected d burst else d
    | e => readerFails (uncorrectableFound d burst (readTransaction reader) 0 0 (e == .misdirected)) burst reader

/-- MEMORY_READ_COMPLETE: a burst read whose stored 36 bytes differ by `error` from what was written (R180, R184). -/
def execMemoryReadComplete (burst : Nat) (error : Bytes) (reader : Reader) (s : State) : Out :=
  if s.dev.on && decide (tier1Bytes ≤ 32 * burst) then .fault .noSuchAddress
  else
    s.act fun d => d.when (addrReady d (32 * burst)) fun d =>
      let d := count (setBurstError d burst (padTo 36 error)) (addrDie (32 * burst)) (0x0C00 + chanOfDie (32 * burst)) 1
      burstRead d burst reader

/-! ### Refresh (R190 to R193) -/

/-- A row operation occupies a bank: its units lie in rank 1 of all four sub-channels of the slice (R206). -/
def bankBusy (d : Dev) (bank : Nat) : Bool := bank / 16 % 2 == 1 && bankRuns d (bankSlice bank) (bank % 16)

/-- Refresh multiplier of a device (Table 07-5). -/
def refreshMult (d : Dev) (device : Nat) : Nat :=
  let t := tget 25 d.lp.temp device
  if 95 < t then 4 else if 85 < t then 2 else 1

/-- The channel is in service. -/
def chanUp (d : Dev) (ch : Nat) : Bool := channelReady d ch && d.ready (ch / 8)

/-- The interval between the refresh commands of a device, in 640ths of a tick: a sixteenth of 3,906 ns, divided by the
multiplier of Table 07-5. -/
def refreshGap (d : Dev) (device : Nat) : Nat := 15624 / refreshMult d device

/-- The next refresh command of a device is due, and it is this bank's turn (R190). -/
def refreshDueNow (d : Dev) (bank : Nat) : Bool :=
  bank % 16 == tget 0 d.lp.refreshNext (bank / 16) &&
    decide (tget 0 d.lp.refreshAt (bank / 16) + refreshGap d (bank / 16) ≤ 640 * d.now)

/-- The turn passes to the next bank of the rotation; a command that was late takes no more than one interval back. -/
def refreshTurn (d : Dev) (bank : Nat) : Dev :=
  let g := refreshGap d (bank / 16)
  d.onLp fun x =>
    { x with refreshNext := tput 0 x.refreshNext (bank / 16) ((bank + 1) % 16)
             refreshAt := tmod 0 x.refreshAt (bank / 16) fun t => max (t + g) (640 * d.now - g) }

/-- REFRESH_DUE (R190): issued at once with what the bank owes, or postponed while a row operation occupies the bank; no
bank owes more than 2. -/
def execRefreshDue (bank : Nat) (s : State) : Out :=
  s.act fun d => d.when (chanUp d (bankChannel bank) && refreshDueNow d bank) fun d =>
    let owed := tget 0 d.lp.owed bank
    if bankBusy d bank then
      if 2 ≤ owed then d
      else (refreshTurn d bank).onLp fun x => { x with owed := tput 0 x.owed bank (owed + 1) }
    else issueRefresh (refreshTurn d bank) bank (owed + 1)

/-- REFRESH_MANAGEMENT_REQUEST (R193): the command goes to the bank before its next activate; while a row operation
occupies the bank it counts as one owed refresh. -/
def execRefreshManagementRequest (bank : Nat) (s : State) : Out :=
  s.act fun d => d.when (chanUp d (bankChannel bank)) fun d =>
    if bankBusy d bank then
      d.onLp fun x =>
        { x with management := tput false x.management bank true, owed := tput 0 x.owed bank (min 2 (tget 0 x.owed bank + 1)) }
    else issueRefresh d bank 1

/-- DEVICE_TEMP_READ (R191): every 100,000 ticks; above 95 °C with the event records. -/
def execDeviceTempRead (device : Nat) (celsius : Int) (s : State) : Out :=
  s.act fun d =>
    let ch := device / 4
    d.when (chanUp d ch && d.due (tget 0 d.lp.tempAt device) 100000) fun d =>
      let d := d.onLp fun x => { x with temp := tput 25 x.temp device celsius, tempAt := tput 0 x.tempAt device d.now }
      if 95 < celsius then
        cxlWarn (logEv d 0x0204 (ch / 8) (toLe 1 (ch % 8) ++ toLe 1 celsius.toNat))
          { kind := 2, dpa := 0, type := 0, transaction := 0, detail := [celsius.toNat] }
      else d

/-! ### Calibration (R198) -/

/-- IMPEDANCE_RECAL: every 50,000,000 ticks. -/
def execImpedanceRecal (channel : Nat) (s : State) : Out :=
  s.act fun d => d.when (chanUp d channel && d.due (tget 0 d.lp.impedanceAt channel) 50000000) fun d =>
    d.onLp fun x => { x with impedanceAt := tput 0 x.impedanceAt channel d.now }

/-- DQ_TRACKING: every 10,000 ticks, or at once when the temperature has changed by 2 °C since the last. -/
def execDqTracking (channel : Nat) (celsius : Int) (s : State) : Out :=
  s.act fun d =>
    let moved := decide (2 ≤ (celsius - tget 25 d.lp.trackTemp channel).natAbs)
    d.when (chanUp d channel && (moved || d.due (tget 0 d.lp.trackAt channel) 10000)) fun d =>
      count (d.onLp fun x =>
        { x with trackAt := tput 0 x.trackAt channel d.now, trackTemp := tput 25 x.trackTemp channel celsius })
        (channel / 8) (0x0C00 + 0x60 + channel % 8) 1

/-! ### Patrol (R194) -/

/-- Bursts of one granule on one sub-channel, and of one sub-channel. -/
def subGranule : Nat := 8388608
def subBursts : Nat := 48 * subGranule

/-- Address of a sub-channel's burst number: its granules in address order (Table 07-2). -/
def patrolAddr (sub pos : Nat) : Nat :=
  sub / 4 * sliceBytes + pos / subGranule * gib + pos % subGranule * 128 + sub % 4 * 32

/-- The allocated image run of a bank-op granule that holds a frame. -/
def imageRun (d : Dev) (frame : Nat) : Option Nat :=
  (d.obj.runs.find? fun p => runTier p.1 == 1 && (match p.2.use with | .image _ => true | _ => false) &&
    decide (runFrame p.1 ≤ frame) && decide (frame < runFrame p.1 + p.2.count)).map (·.1)

/-- Start of the next image run of a granule behind a frame, or the granule's end, as a frame. -/
def nextRun (d : Dev) (frame : Nat) : Nat :=
  let stop := (frame / granFrames + 1) * granFrames
  (d.obj.runs.filter fun p => runTier p.1 == 1 && (match p.2.use with | .image _ => true | _ => false) &&
    decide (frame < runFrame p.1)).foldl (fun a p => min a (runFrame p.1)) stop

/-- Where the patrol reads at or after a burst number: any burst of a checked granule, and of a bank-op granule only those
of allocated runs. -/
def patrolFind (d : Dev) (sub : Nat) : Nat → Nat → Nat
  | 0, pos => pos
  | n + 1, pos =>
    if subBursts ≤ pos then 0
    else
      let a := patrolAddr sub pos
      if !(isBankOp d (granuleNo a)) then pos
      else if (imageRun d (a / 4096)).isSome then pos
      else patrolFind d sub n (pos / 32 * 32 + (nextRun d (a / 4096) - a / 4096) * 32)

/-- The check of an allocated run of a bank-op granule, made at its first burst on the sub-channel: a sealed image in
verify mode, a growing image against its token CRC array. -/
def patrolRun (k : Chip) (run : Nat) : Dev :=
  let d := k.dev
  match tfind d.obj.runs run with
  | none => d
  | some u =>
    match u.use with
    | .image key =>
      let e := d.entry key
      if e.frame = runFrame run ∧ e.tier = 1 then
        let g := keyGeom k key run
        if e.state = .sealed then
          match pageImageCheck (readEntry k e) (4096 * e.count) key g with
          | .ok _ => d
          | .error n => suspectPage (formatFault d key n) key false
        else if e.state = .growing then
          (if tokenCrcsOk g (readEntry k e) (pageValid k g e) then d else suspectPage d key false)
        else d
      else d
    | _ => d

/-- A patrol read waits while a demand read waits on its channel, and behind a row operation in its subarray: that of a run's
check behind one in any subarray of the run (R195, R222). -/
def patrolWaits (d : Dev) (sub a : Nat) : Bool :=
  (d.hif.hostReads.any fun p => addrChannel p.1 == sub / 2) || rangeBusy d a 32 ||
    (isBankOp d (granuleNo a) && match imageRun d (a / 4096) with
      | some r => a / 4096 == runFrame r && rangeBusy d (a / 4096 * 4096) (4096 * runFrames d r)
      | none => false)

/-- PATROL_READ (R194, R195): one burst every 2,000 ticks. -/
def execPatrolRead (sub : Nat) (s : State) : Out :=
  s.actRead fun k =>
    let d := k.dev
    let ch := sub / 2
    if !(decide (sub < 256)) || !(chanUp d ch) || !(d.due (tget 0 d.lp.patrolTick sub) 2000) then d
    else
      let pos := patrolFind d sub (d.obj.runs.length + 49) (tget 0 d.lp.patrolAt sub)
      let a := patrolAddr sub pos
      if patrolWaits d sub a then d
      else
      let d := d.onLp fun x =>
        { x with patrolTick := tput 0 x.patrolTick sub d.now, patrolAt := tput 0 x.patrolAt sub ((pos + 1) % subBursts),
                 sweeps := if pos + 1 = subBursts ∨ pos < tget 0 x.patrolAt sub then tmod 0 x.sweeps sub (· + 1) else x.sweeps }
      let d := count (count d (ch / 8) (0x0C00 + 0x40 + ch % 8) 1) (ch / 8) (0x0C00 + ch % 8) 1
      if isBankOp d (granuleNo a) then
        match imageRun d (a / 4096) with
        | some r => if a / 4096 = runFrame r ∧ a % 4096 < 128 then patrolRun ⟨d, k.mem⟩ r else d
        | none => d
      else burstRead d (a / 32) .patrol

end Sys2Proof.Machine
end

