-- ==== Sys2Proof/Machine/Membership.lean ====
section
/-! DEFINITION. Membership and stragglers (spec 13; commands STATUS_REPORT_SEND to STRAGGLER_GOSSIP, HEALTH_SCORE_UPDATE,
FD_SETUP, MEMBERSHIP, ENTER_TIMEOUT). -/

namespace Sys2Proof.Machine

/-- A membership message is acted on when its body is in form; otherwise it is discarded and counted (R7, R8). -/
def vc0Message (d : Dev) (msg type : Nat) (f : Dev → Bytes → Dev) : Dev :=
  d.when d.firmware fun d => onMsg d msg type fun d m =>
    if mbBodyOk (msgBody m.bytes) then f d m.bytes else d.onTr fun x => { x with stray := inc48 x.stray }

/-- A membership message of the inbox is acted on: its sender and its body. -/
def onVc0 (s : State) (msg type : Nat) (f : Dev → Nat → Bytes → Dev) : Out :=
  s.act fun d => vc0Message d msg type fun d b => f d (msgSrc b) (msgBody b)

/-- A node that has come to be on probation moves its roles (R362). -/
def probationMoves (k : Chip) (d : Dev) : Dev :=
  if onProbation d && !(onProbation k.dev) then moveAllRoles k d else d

/-- HEALTH_SCORE_UPDATE: every 100,000,000 ticks (R357). -/
def execHealthScoreUpdate (s : State) : Out :=
  s.act fun d => d.when (d.firmware && d.due d.mbr.scoreAt 100000000) scoreOp

/-- STATUS_REPORT_SEND: every 10,000,000 ticks, and at once on a change of its fields (R346). -/
def execStatusReportSend (s : State) : Out :=
  s.act fun d =>
    let body := reportFields d
    let due := match d.mbr.lastReport with | none => true | some t => d.due t 10000000
    d.when (d.firmware && d.live d.regs.nodeId && (due || body != d.mbr.reportBody)) fun d =>
      (sendAll d (witnessesOf d d.mbr.domain) body).onMbr fun m => { m with lastReport := some d.now, reportBody := body }

/-- STATUS_REPORT (R351, R360). -/
def execStatusReport (msg : Nat) (s : State) : Out := onVc0 s msg 0x40 reportOp

/-- SUSPECT of a node, raised or retracted, to every witness of its domain. -/
def sendSuspect (d : Dev) (node : Nat) (m : Member) (raise : Bool) : Dev :=
  sendAll d (witnessesOf d m.domain) (mbBody 0x41 0 m.domain m.admission node 0 (8 * b2n raise) [])

/-- SUSPECT_SEND (R352). -/
def execSuspectSend (node : Nat) (s : State) : Out :=
  s.act fun d => d.when d.firmware fun d =>
    match tfind d.mbr.suspected node with
    | none => d
    | some t =>
      let forget := fun (d : Dev) => d.onMbr fun m => { m with suspected := tdel m.suspected node }
      match d.member node with
      | none => forget d
      | some m =>
        if (partners d).contains node then forget (if t = 0 then d else sendSuspect d node m false)
        else
          d.when (m.live && (t == 0 || d.due (t - 1) 10000000)) fun d =>
            (sendSuspect d node m true).onMbr fun x => { x with suspected := tins x.suspected node (d.now + 1) }

/-- A suspicion report at a witness (R353). -/
def suspectOp (d : Dev) (src : Nat) (b : Bytes) : Dev :=
  let f := mbDomain b
  let sub := mbSubject b
  let known := match d.member sub with | some m => m.live && m.domain == f && m.admission == mbEpoch b | none => false
  if isWitness d f && known then
    let rest := fun (x : Domain) => dropWhere (fun s => s.1 == sub && s.2.1 == src) x.suspicions
    if bitOf (mbFlags b) 3 then suspectCheck (d.onDomain f fun x => { x with suspicions := rest x ++ [(sub, src, d.now)] }) f sub
    else d.onDomain f fun x => { x with suspicions := rest x }
  else d

/-- SUSPECT (R353). -/
def execSuspect (msg : Nat) (s : State) : Out := onVc0 s msg 0x41 suspectOp

/-- SUSPECT_LAPSE (R353): a report stands for 20,000,000 ticks. -/
def execSuspectLapse (domain subject reporter : Nat) (s : State) : Out :=
  s.act fun d => d.onDomain domain fun x =>
    { x with suspicions := dropWhere (fun r => r.1 == subject && r.2.1 == reporter && d.due r.2.2 20000000) x.suspicions }

/-- REPORT_SILENCE_TIMEOUT (R353): no neighbour set and no report for 50,000,000 ticks. -/
def execReportSilenceTimeout (domain subject : Nat) (s : State) : Out :=
  s.act fun d => d.when (d.firmware && isWitness d domain) fun d => suspectCheck d domain subject

/-- PROPOSE_DELAY_EXPIRY (R354): witness k proposes the oldest change that is still warranted k ms after it found it so. -/
def execProposeDelayExpiry (domain : Nat) (s : State) : Out :=
  s.act fun d =>
    let x := d.domain domain
    match witnessIndex d domain with
    | none => d
    | some k =>
      let busy := match x.proposal with | some p => !p.committed | none => false
      d.when (d.firmware && !busy && !(frozen d domain) && (voters d domain).contains d.regs.nodeId) fun d =>
        let kept := x.warranted.filter fun w => changeValid d domain w.1
        let d := d.onDomain domain fun x => { x with warranted := kept }
        match kept.find? fun w => d.due w.2.1 (100000 * k) && decide (w.2.2 ≤ d.now) with
        | none => d
        | some w =>
          let c := { w.1 with epoch := x.epoch + 1 }
          let d := d.onDomain domain fun x => { x with proposal := some { change := c, at_ := d.now } }
          sendAll d (witnessesOf d domain) (changeBody 0x42 domain c 0)

/-- PROPOSE (R355). -/
def execPropose (msg : Nat) (s : State) : Out := onVc0 s msg 0x42 proposeOp

/-- VOTE (R355). -/
def execVote (msg : Nat) (s : State) : Out :=
  s.actRead fun k =>
    let d := k.dev.when k.dev.firmware fun d => onMsg d msg 0x43 fun d m => voteOp d (msgSrc m.bytes) (msgBody m.bytes)
    probationMoves k d

/-- PROPOSAL_ABANDON (R356): no majority 100,000 ticks after PROPOSE. -/
def execProposalAbandon (domain : Nat) (s : State) : Out :=
  s.act fun d =>
    match (d.domain domain).proposal, witnessIndex d domain with
    | some p, some k =>
      d.when (!p.committed && d.due p.at_ 100000) fun d =>
        d.onDomain domain fun x =>
          { x with
            proposal := none
            warranted := x.warranted.map fun w =>
              if w.1.change = p.change.change ∧ w.1.subject = p.change.subject then (w.1, w.2.1, d.now + 100000 * (1 + k)) else w }
    | _, _ => d

/-- GRANT_LEASE_EXPIRY (R356): 1,000,000 ticks of lease and 100,000 of guard. -/
def execGrantLeaseExpiry (domain : Nat) (s : State) : Out :=
  s.act fun d =>
    match (d.domain domain).grant with
    | some (_, t) => d.when (d.due t 1100000) fun d => d.onDomain domain fun x => { x with grant := none }
    | none => d

/-- MEMBER_UPDATE (R348). -/
def execMemberUpdate (msg : Nat) (s : State) : Out :=
  s.actRead fun k =>
    let d := vc0Message k.dev msg 0x44 fun d b => updateOp d (msgSrc b) (msgBody b)
    probationMoves k d

/-- MEMBER_PULL (R350). -/
def execMemberPull (msg : Nat) (s : State) : Out := s.act fun d => vc0Message d msg 0x45 pullOp

/-- A JOIN at a witness: ADMIT, or EXPEL_SUSPECT for a node still LIVE (Table 13-3). -/
def joinOp (d : Dev) (src : Nat) (b : Bytes) : Dev :=
  let f := mbDomain b
  let d := if isWitness d f then d.onDomain f fun x => { x with joins := src :: dropWhere (· == src) x.joins } else d
  match d.member src with
  | some m =>
    if m.live then (if m.domain = f then warrant d f { change := 2, subject := src, epoch := 0 } else d)
    else warrant d f { change := 1, subject := src, epoch := 0, flags := mbFlags b / 128 * 128 }
  | none => warrant d f { change := 1, subject := src, epoch := 0, flags := mbFlags b / 128 * 128 }

/-- JOIN (Table 13-3). -/
def execJoin (msg : Nat) (s : State) : Out := onVc0 s msg 0x46 joinOp

/-- A node may send JOIN: MEMBERSHIP ENTER runs, or it left by EXPEL_SUSPECT and its score is above the threshold (R363,
R427). -/
def mayJoin (d : Dev) : Bool :=
  d.firmware && d.mbr.domain != 0 && !(d.live d.regs.nodeId) && !(partners d).isEmpty &&
    (!d.mbr.entering.isEmpty || (d.mbr.joining && decide (d.mbr.threshold < d.mbr.score)))

/-- JOIN_SEND: every 10,000,000 ticks until admitted (R346, R363). -/
def execJoinSend (s : State) : Out :=
  s.act fun d =>
    let due := match d.mbr.joinAt with | none => true | some t => d.due t 10000000
    d.when (mayJoin d && due) fun d =>
      let d := if nodeEpoch d = 0 then fillView d else d
      (sendAll d (witnessesOf d d.mbr.domain) (mbBody 0x46 0 d.mbr.domain (nodeEpoch d) d.regs.nodeId 0 0 [])).onMbr fun m =>
        { m with joinAt := some d.now }

/-- FROZEN_DOMAIN_EVENT (R345): every 100,000,000 ticks while frozen. -/
def execFrozenDomainEvent (domain : Nat) (s : State) : Out :=
  s.act fun d =>
    let due := match (d.domain domain).frozenAt with | none => true | some t => d.due t 100000000
    d.when (d.firmware && isWitness d domain && frozen d domain && due) fun d =>
      (mbrEvent d domain 0xFF 0 (d.domain domain).epoch).onDomain domain fun x => { x with frozenAt := some d.now }

/-- LAST_REPLICA_SUSPECT_EVENT (Table 13-3): every 100,000,000 ticks while suspected. -/
def execLastReplicaSuspectEvent (domain subject : Nat) (s : State) : Out :=
  s.act fun d =>
    let due := match tfind (d.domain domain).lastReplicaAt subject with | none => true | some t => d.due t 100000000
    d.when (d.firmware && isWitness d domain && isSuspected d domain subject && lastReplica d domain subject && due) fun d =>
      (mbrEvent d domain 2 subject (d.domain domain).epoch).onDomain domain fun x =>
        { x with lastReplicaAt := tins x.lastReplicaAt subject d.now }

/-! ### Stragglers (R380 to R382) -/

/-- Other nodes of a composition: the replicas in the node's records of its objects (DEDUCED, notes/assumptions/41.md). -/
def compNodes (d : Dev) (id : Nat) : List Nat :=
  ((d.obj.objs.filter (·.2.composition == id)).flatMap fun o => o.2.shards.flatMap fun p =>
    p.2.primary.toList ++ p.2.mirror.toList).eraseDups.filter (· != d.regs.nodeId)

/-- STRAGGLER_GOSSIP_SEND: to 4 nodes in rotation (R381). -/
def execStragglerGossipSend (comp : Nat) (s : State) : Out :=
  s.act fun d =>
    match tfind d.mbr.compositions comp with
    | none => d
    | some k =>
      d.when (d.firmware && d.due k.gossipAt 10000000) fun d =>
        match serviceIndex d comp with
        | none => d
        | some own =>
          let others := ((k.indices.filter fun x => decide (d.now < x.2.2 + 100000000)).take 31).map fun x => (x.1, 0, x.2.1)
          let ns := compNodes d k.id
          let pick := (List.range (min 4 ns.length)).map fun i => ns.getD ((k.rotation + i) % ns.length) 0
          let d := sendAll d pick (mbBody 0x47 0 d.mbr.domain k.id d.regs.nodeId 0 0 ((d.regs.nodeId, 0, own) :: others))
          preferOp (d.onMbr fun m =>
            { m with compositions := tupd m.compositions comp fun x => { x with rotation := x.rotation + 4, gossipAt := d.now } }) comp

/-- STRAGGLER_GOSSIP (R381, R382). -/
def execStragglerGossip (msg : Nat) (s : State) : Out :=
  onVc0 s msg 0x47 fun d _ b =>
    match compIndex d (mbEpoch b) with
    | none => d
    | some c =>
      let got := ((mbList b).filter (·.1 != d.regs.nodeId)).map fun e => (e.1, e.2.2, d.now)
      preferOp (d.onMbr fun m =>
        { m with compositions := tupd m.compositions c fun x =>
            { x with indices := (got ++ dropWhere (fun o => got.any (·.1 == o.1)) x.indices).take 255 } }) c

/-! ### Commands (Table 15-6, Table 15-7) -/

/-- The witness set a FD_SETUP names: node and declared domain. -/
def fdWitnesses (b : Bytes) : List (Nat × Nat) :=
  (List.range (fld b 0x11 1)).map fun i => (fld b (0x1C + 4 * i) 4, fld b (0x30 + 2 * i) 2)

/-- R344 on a declared witness set. -/
def witnessesOk (d : Dev) (b : Bytes) : Bool :=
  let l := fdWitnesses b
  let n := fld b 0x11 1
  (n == 3 || n == 5) && l.all (fun w => decide (w.1 < 2 ^ 20) && w.2 != 0 && w.2 != fld b 0x12 2) &&
    decide (l.map (·.2)).Nodup && decide (l.map (·.1)).Nodup &&
    allZero (cut b (0x1C + 4 * n) (20 - 4 * n)) && allZero (cut b (0x30 + 2 * n) (10 - 2 * n)) &&
    l.all fun w => !(d.endpoint w.1)

/-- FD_SETUP mode 0 (R426): a domain record. -/
def execFdSetupDomain (ring index : Nat) (s : State) : Out :=
  s.act fun d =>
    match d.cmdReady ring index 0x05 with
    | none => d
    | some c =>
      let b := c.desc
      if fld b 0x10 1 ≠ 0 then (if fld b 0x10 1 = 1 then d else cmdFail d ring index St.fieldInvalid 0x10)
      else
        let f := fld b 0x12 2
        match firstFail
          [(f != 0, (St.fieldInvalid, 0x12)), (decide (fld b 0x16 2 ≤ 1000), (St.fieldInvalid, 0x16)),
           (decide (fld b 0x18 1 ≤ 16), (St.fieldInvalid, 0x18)), (witnessesOk d b, (St.fieldInvalid, 0x1C)),
           (fld b 0x14 2 == 0 || d.regs.links == 0, (St.busy, 0x14)),
           ((d.domain f).witnesses.isEmpty, (St.busy, 0x12)),
           (decide (((d.mbr.domains.filter fun p => !p.2.witnesses.isEmpty).length) < 64), (St.busy, 0x12))] with
        | some (st, off) => cmdFail d ring index st off
        | none =>
          let d := d.onDomain f fun x =>
            { x with witnesses := fdWitnesses b, budget := fld b 0x18 1, threshold := fld b 0x16 2 }
          let own := if fld b 0x14 2 = 0 then d.mbr.domain else fld b 0x14 2
          let t := if own = 0 then d.mbr.threshold else (d.domain own).threshold
          let d := setHealthLow (d.onMbr fun m => { m with domain := own, threshold := t }) (d.mbr.healthLow && t != 0)
          let d := (fdWitnesses b).foldl (fun d w => checkDeclared d w.1) d
          cmdDone d ring index St.ok (d.domain f).epoch

/-- FD_SETUP mode 1 (R426): a LIVE witness of the current set proposes WITNESS_SET. -/
def execFdSetupWitnessSet (ring index : Nat) (s : State) : Out :=
  s.act fun d =>
    match d.cmdReady ring index 0x05 with
    | none => d
    | some c =>
      let b := c.desc
      if fld b 0x10 1 ≠ 1 then d
      else
        let f := fld b 0x12 2
        match firstFail
          [(f != 0, (St.fieldInvalid, 0x12)), (witnessesOk d b, (St.fieldInvalid, 0x1C)),
           ((voters d f).contains d.regs.nodeId, (St.fieldInvalid, 0x12)), (!(frozen d f), (St.busy, 0x12))] with
        | some (st, off) => cmdFail d ring index st off
        | none =>
          let d := d.onCmd ring index fun c => { c with phase := .running }
          warrant d f { change := 8, subject := 0, epoch := 0, list := (fdWitnesses b).map fun w => (w.1, 0, w.2) }

/-- MEMBERSHIP ENTER (R427). -/
def execMembershipEnter (ring index : Nat) (s : State) : Out :=
  s.act fun d =>
    match d.cmdReady ring index 0x06 with
    | none => d
    | some c =>
      if fld c.desc 0x10 1 ≠ 0 then (if fld c.desc 0x10 1 = 1 then d else cmdFail d ring index St.fieldInvalid 0x10)
      else if fld c.desc 0x14 4 ≠ 0 then cmdFail d ring index St.fieldInvalid 0x14
      else if d.live d.regs.nodeId || d.mbr.domain == 0 then cmdFail d ring index St.fieldInvalid 0x10
      else
        (d.onCmd ring index fun c => { c with phase := .running }).onMbr fun m =>
          { m with entering := m.entering ++ [(ring, index, d.now)], joinAt := none }

/-- MEMBERSHIP EXPEL (R427): a LIVE witness of the node's domain proposes EXPEL_FORCED. -/
def execMembershipExpel (ring index : Nat) (s : State) : Out :=
  s.act fun d =>
    match d.cmdReady ring index 0x06 with
    | none => d
    | some c =>
      if fld c.desc 0x10 1 ≠ 1 then d
      else
        let n := fld c.desc 0x14 4
        match d.member n with
        | some m =>
          if m.live && (voters d m.domain).contains d.regs.nodeId then
            warrant (d.onCmd ring index fun c => { c with phase := .running }) m.domain { change := 4, subject := n, epoch := 0 }
          else cmdFail d ring index St.fieldInvalid 0x14
        | none => cmdFail d ring index St.fieldInvalid 0x14

/-- ENTER_TIMEOUT (R427): 1,000,000,000 ticks without an ADMIT. -/
def execEnterTimeout (s : State) : Out :=
  s.act fun d =>
    match d.mbr.entering with
    | (ring, index, t) :: rest =>
      d.when (d.due t 1000000000) fun d =>
        (cmdFailState d ring index St.deadlineExpired).onMbr fun m => { m with entering := rest, joining := m.joining && !rest.isEmpty }
    | [] => d

end Sys2Proof.Machine
end

