-- ==== Sys2Proof/Machine/ObjCmds.lean ====
section
/-! DEFINITION. Object commands: forks, placement, seal flush, loads, inspection (spec 02, R53 to R60; spec 06, R156,
R159, R160; spec 08, R225; spec 15, R433 to R436, Tables 15-17 to 15-20). -/

namespace Sys2Proof.Machine

def cObj (c : Cmd) : Nat := mkObj (cTenant c) (fld c.desc 0x10 4)

/-- The checks of a command on an object the node must hold. -/
def objHeld (d : Dev) (c : Cmd) (off : Nat) : List (Bool × (Nat × Nat)) :=
  objIdChecks d c.desc off ++ [((d.objAt (mkObj (cTenant c) (fld c.desc off 4))).isSome, (St.noSuchObject, off))]

/-- The node holds a role in the shard of a page of an object (R127's NO_SUCH_PAGE). -/
def holdsPage (d : Dev) (o : Obj) (layer page : Nat) : Bool :=
  pageInObj o layer page && (match o.shardFor page with | some (_, s) => holdsRole d.regs.nodeId s | none => false)

/-! ### PLACE (R156, R158, R159) -/

/-- Queue the moves a policy directs for the sealed pages whose runs an object owns. -/
def placeMoves (d : Dev) (obj policy : Nat) : Dev :=
  (pagesOf d obj).foldl (fun d key =>
    let e := d.entry key
    match if e.state = .sealed then directedPriority policy e.tier else none with
    | some p =>
      let failed : Move → Bool := fun m => m.key == key && m.failedAt.isSome && m.priority != 1
      queueMove (d.onObj fun x => { x with moves := modWhere failed (fun m => { m with priority := p }) x.moves }) key p
    | none => d) d

/-- A move of an object that a new directive replaces: it has no destination yet and is no recovery, scrub or retirement. -/
def replaceable (obj : Nat) (m : Move) : Bool :=
  keyObj m.key == obj && !m.recovery && !m.scrub && m.dst.isNone && m.failedAt.isNone && m.priority != 6 && m.priority != 1

/-- A placement policy takes effect on an object. -/
def placeObj (d : Dev) (obj policy depth : Nat) : Dev :=
  let seq := d.obj.placeSeq + 1
  let d := d.onObjAt obj fun o =>
    { o with policy := policy, depth := if depth = 0 then o.depth else depth,
               depthSet := o.depthSet || depth != 0, placeSeq := seq, placing := true }
  let d := d.onObj fun x => { x with placeSeq := seq, moves := dropWhere (replaceable obj) x.moves }
  let d := blockEnd d 1 (objId obj) (objTenant obj)
  let d := if policy = 3 then
      ((d.obj.copies.filter fun x => keyObj x.key == obj).foldl (fun d x => dropCopy d x.id) d).onObj fun x =>
        { x with prefetch := x.prefetch.map fun p => (p.1, dropWhere (fun q => q.tenantObject == obj && !q.issued) p.2) }
    else d
  depthCheck (placeCheck (placeMoves d obj policy) obj) obj

/-- PLACE. -/
def execPlace (ring index : Nat) (s : State) : Out :=
  s.act fun d => cmdChecks d ring index 0x14
    (fun c => [fieldOk (decide (fld c.desc 0x14 1 < 4)) 0x14, fieldOk (decide (fld c.desc 0x15 1 ≤ 16)) 0x15] ++ objHeld d c 0x10)
    fun d c => cmdDone (placeObj d (cObj c) (fld c.desc 0x14 1) (fld c.desc 0x15 1)) ring index St.ok 0

/-! ### SEAL_FLUSH (Table 15-18) -/

/-- The pages of an object that are full and not sealed: those whose seals are queued or run, and SUSPECT ones whose header,
where it can be read, gives VALID_TOKENS = T. -/
def fullPages (k : Chip) (obj : Nat) (g : Geom) : List Nat :=
  let d := k.dev
  ((d.obj.seals.flatMap (·.2)).map (·.key)).filter (fun key => keyObj key == obj) ++
    (pagesOf d obj).filter fun key =>
      let e := d.entry key
      e.state == .suspectGrowing && (badBursts d (4096 * e.frame) 128).isEmpty && pageValid k g e == g.T

/-- Of pages that a SEAL_FLUSH waits for, those not sealed yet. -/
def unsealed (d : Dev) (keys : List Nat) : List Nat := keys.filter fun key => (d.entry key).grows

/-- SEAL_FLUSH: it waits for the seals of every page that was full when it started. A seal that fails ends it. -/
def execSealFlush (ring index : Nat) (s : State) : Out :=
  s.actRead fun k =>
    let d := k.dev
    match d.cmd ring index with
    | none => d
    | some c =>
      if c.phase = .running ∧ fld c.desc 0 1 = 0x15 then
        if (unsealed d c.keys).isEmpty then cmdDone d ring index St.ok c.result else d
      else
        cmdChecks d ring index 0x15 (fun c => objHeld d c 0x10) fun d c =>
          let keys := match d.objAt (cObj c) with | some o => fullPages k (cObj c) o.geom | none => []
          if keys.isEmpty then cmdDone d ring index St.ok 0
          else d.onCmd ring index fun c => { c with phase := .running, result := keys.length, keys := keys }

/-! ### OBJ_FORK (R56 to R60, R433) -/

/-- The fork a command asks for. -/
def forkOf (c : Cmd) (ring index : Nat) : Fork :=
  { ring := ring, index := index, parent := cObj c, child := mkObj (cTenant c) (fld c.desc 0x14 4),
    length := fld c.desc 0x18 4 }

/-- Pages below a fork length that lie wholly below it, and the boundary page. -/
def forkWhole (f : Fork) (T : Nat) : Nat := f.length / T
def forkEnds (f : Fork) (T : Nat) : Nat := (f.length + T - 1) / T

/-- The parent's pages that a fork acts on: those below F in shards of the child that the node holds. -/
def forkPages (d : Dev) (f : Fork) (o : Obj) : List Nat :=
  (List.range o.layers).flatMap fun l =>
    ((List.range (forkEnds f o.geom.T)).filter fun p => holdsPage d o l p).map fun p =>
      mkKey (objTenant f.parent) (objId f.parent) l p

/-- The parent's pages below F in shards of the parent that the node holds. -/
def parentPages (d : Dev) (f : Fork) (o : Obj) : List Nat :=
  (List.range o.layers).flatMap fun l =>
    ((List.range (forkEnds f o.geom.T)).filter fun p => holdsPage d o l p).map fun p =>
      mkKey (objTenant f.parent) (objId f.parent) l p

/-- The node holds the parent's tail. -/
def holdsTail (d : Dev) (o : Obj) : Bool := o.shards.any fun p => p.2.isOpen && holdsRole d.regs.nodeId p.2

/-- The status with which a fork is refused (R59, R433). -/
def forkRefused (k : Chip) (f : Fork) (p c : Obj) : Option Nat :=
  let d := k.dev
  let long := fun (l : Nat) =>
    (match tailKey d f.parent l with | some key => decide (f.length ≤ keyPage key * p.geom.T) | none => false) ||
      decide (f.length ≤ layerLength k f.parent p.geom l)
  firstFail
    [((pagesOf d f.child).isEmpty && !(d.obj.loads.any fun x => keyObj x.1 == f.child), St.fieldInvalid),
     (p.geom == c.geom && p.layers == c.layers, St.fieldInvalid),
     (!(holdsTail d p) || (List.range p.layers).all long, St.lengthInvalid),
     ((parentPages d f p ++ forkPages d f c).all fun key => (d.entry key).state != .absent, St.noSuchPage),
     ((forkPages d f c).all fun key => decide (forkWhole f p.geom.T ≤ keyPage key) || decide ((d.ownerEntry key).refs + 1 < 0xFFFFFF),
      St.lengthInvalid)]

/-- The layers whose tail page holds position F − 1 and cannot be read (R188): its recovery holds the fork (R56). -/
def forkUnread (d : Dev) (f : Fork) (p : Obj) : List Nat :=
  if holdsTail d p then
    (List.range p.layers).filter fun l =>
      !(tailUnread d f.parent l).isEmpty &&
        (match tailKey d f.parent l with | some key => decide (keyPage key * p.geom.T < f.length) | none => false)
  else []

/-- The page below F holds the fork: it is SUSPECT, or full and not sealed yet (R56). -/
def holdsFork (k : Chip) (f : Fork) (g : Geom) (key : Nat) : Bool :=
  let e := k.dev.ownerEntry key
  e.suspect || (e.grows && decide (keyPage key < forkWhole f g.T))

/-- A recovery attempt on a page of the fork has failed since the fork started. -/
def recoveryLost (d : Dev) (key since : Nat) : Bool :=
  (d.ownerEntry key).suspect &&
    (match tfind d.obj.recoveries (d.ownerKey key) with | some r => !r.active && decide (since ≤ r.at_) | none => false)

/-- Where a copied boundary page's growing run goes: for a source in a bank-op granule, a place in the same granule at
the same offset modulo 128 KiB, where there is one (R57). -/
def forkRun (d : Dev) (g : Geom) (src child : Nat) : Option (Nat × Nat × Dev) :=
  let e := d.ownerEntry src
  let gran := e.frame / granFrames
  let n := g.growFrames
  let fits : List (Nat × Nat) :=
    if e.grows && isBankOp d gran && pageSlice d child == some (gran / 48) then
      (gapsIn d (gran / 48) (keyTenant child) n ((ordinary d (gran / 48)).filter (· == gran % 48))).filterMap fun p =>
        let first := p.1 + (e.frame + 32 - p.1 % 32) % 32
        if first + n ≤ p.1 + p.2 then some (first, (p.1 + p.2 - first - n) / 32 + 1) else none
    else []
  match fits with
  | [] => allocGrowing d child g (.image child)
  | _ =>
    let (i, d) := d.draw
    let (j, d) := d.draw
    let p := fits.getD (Config.gapChoice i % fits.length) (0, 1)
    let frame := p.1 + 32 * (Config.gapChoice j % p.2)
    let d := placeRun d 1 frame n (keyTenant child) (.image child)
    match allocTier1 d (gran / 48) g.sealFrames (keyTenant child) false (mayTransit d (keyObj child)) (.reserve child) with
    | none => none
    | some (r, d) => some (frame, r, fixGroup d child (gran / 48))

/-- The ROW_COPY entries of a boundary copy: whole row units of source and destination (R57). -/
def rowCopies (d : Dev) (e : Entry) (frame n : Nat) : List Bytes :=
  let u := (e.frame + 1) / 2
  let count := (e.frame + n) / 2 - u
  if e.grows && isBankOp d (e.frame / granFrames) && frame / granFrames == e.frame / granFrames && frame % 32 == e.frame % 32 &&
      count != 0 then
    [mkEntry 1 count ((frame + 1) / 2) u]
  else []

/-- Begin the copy of one boundary page; none when its runs cannot be found. -/
def copyBegin (d : Dev) (g : Geom) (f : Fork) (src : Nat) : Option Dev :=
  let child := rekey src f.child
  let e := d.ownerEntry src
  match forkRun d g src child with
  | none => none
  | some (frame, _, d) =>
    match rowCopies d e frame g.growFrames with
    | [] => some d
    | es => some (jobAdd d (.fork child) (keyTenant child) es [e.run, runKey 1 frame])

/-- Begin the copies of all boundary pages, or of none. -/
def copiesBegin (g : Geom) (f : Fork) : List Nat → Dev → Option Dev
  | [], d => some d
  | s :: l, d => match copyBegin d g f s with | some d => copiesBegin g f l d | none => none

/-- A SHARED entry of the child for a page of the parent (R58). -/
def shareOne (f : Fork) (d : Dev) (src : Nat) : Dev :=
  let owner := d.ownerKey src
  let e := d.entry owner
  (d.setEntry owner { e with refs := e.refs + 1 }).setEntry (rekey src f.child)
    { state := .shared, owner := keyObject owner }

/-- End a fork's command and forget the fork. -/
def forkOver (d : Dev) (f : Fork) : Dev :=
  d.onObj fun x => { x with forks := dropWhere (fun g => g.ring == f.ring && g.index == f.index) x.forks }

/-- Result bytes of OBJ_FORK: SHARED entries and pages copied (Table 15-1). -/
def forkResult (shared copied : Nat) : Nat := shared + 4294967296 * copied

/-- What a fork comes to now: it is refused, waits, fails, or shares and begins its copies (R56, R59, R60). -/
def forkGo (k : Chip) (f : Fork) (since : Nat) : Dev :=
  let d := k.dev
  match d.objAt f.parent, d.objAt f.child with
  | some p, some c =>
    let g := p.geom
    let pages := forkPages d f c
    let unread := (forkUnread d f p).filterMap fun l => tailKey d f.parent l
    if unread.any fun key => recoveryLost d key since then cmdFailState (forkOver d f) f.ring f.index St.pageCrcMismatch
    else if !unread.isEmpty then
      let d := tailsLost d f.parent p.layers
      (cmdRuns (forkOver d f) f.ring f.index).onObj fun x => { x with forks := x.forks ++ [f] }
    else
    match forkRefused k f p c with
    | some st => cmdFailState (forkOver d f) f.ring f.index st
    | none =>
      if pages.any fun key => recoveryLost d key since then cmdFailState (forkOver d f) f.ring f.index St.pageCrcMismatch
      else if pages.any fun key => holdsFork k f g key then
        (cmdRuns (forkOver d f) f.ring f.index).onObj fun x => { x with forks := x.forks ++ [f] }
      else
        let whole := pages.filter fun key => keyPage key < forkWhole f g.T
        let ends := pages.filter fun key => forkWhole f g.T ≤ keyPage key
        match copiesBegin g f ends d with
        | none =>
          let key := rekey (ends.headD 0) f.child
          cmdFailState (shortage (forkOver d f) ((pageSlice d key).getD 0) key) f.ring f.index St.busy
        | some d =>
          let d := whole.foldl (shareOne f) d
          if ends.isEmpty then cmdDone (forkOver d f) f.ring f.index St.ok (forkResult whole.length 0)
          else
            let f' : Fork := { f with copies := ends.map fun key => rekey key f.child, shared := whole.length }
            let d := (cmdRuns (forkOver d f) f.ring f.index).onObj fun x => { x with forks := x.forks ++ [f'] }
            forkReads d f.ring f.index
  | _, _ => cmdFailState (forkOver d f) f.ring f.index St.noSuchObject

/-- OBJ_FORK. -/
def execObjFork (ring index : Nat) (s : State) : Out :=
  s.actRead fun k => cmdChecks k.dev ring index 0x13
    (fun c => [fieldOk (decide (fld c.desc 0x18 4 ≤ 16777216)) 0x18] ++ objHeld k.dev c 0x10 ++ objHeld k.dev c 0x14)
    fun d c => forkGo ⟨d, k.mem⟩ (forkOf c ring index) c.startedAt

/-- FORK_PAGE_READY (R56): a fork that waits for seals and recoveries is looked at again; one that copies reads what it
still needs from tier 2. -/
def execForkPageReady (ring index : Nat) (s : State) : Out :=
  s.actRead fun k =>
    match forkAt k.dev ring index, k.dev.cmd ring index with
    | some f, some c => if f.copies.isEmpty then forkGo k f c.startedAt else forkReads k.dev ring index
    | _, _ => k.dev

/-- What a boundary copy finds of the parent's page. -/
inductive ForkSource where
  /-- the page as a growing image, and the expander's output that it took (R57, R149) -/
  | image (img : Bytes) (expanded : Nat)
  /-- the bytes cannot be had: the fork fails -/
  | fails (status : Nat)
  /-- its read meets uncorrectable bursts (Table 07-4) -/
  | unread (bursts : List Nat)
  /-- it fails a check of Table 05-4, or its growing header does not fit (R147, R42) -/
  | faulty (check : Nat)
deriving DecidableEq, Repr

/-- The parent's boundary page as a growing image, its own or made from its sealed image (R57). -/
def forkSource (k : Chip) (g : Geom) (f : Fork) (key : Nat) : ForkSource :=
  let d := k.dev
  let src := rekey key f.parent
  let own := d.ownerKey src
  let e := d.ownerEntry src
  let grown := fun (raw : Bytes) =>
    zeros 128 ++ raw ++ (List.range g.T).flatMap fun t => toLe 4 (crc32c (tokenAt g raw t))
  let fromImage := fun (img : Bytes) =>
    match pageImageCheck img img.length own g with
    | .ok raw => ForkSource.image (grown raw) (128 + raw.length)
    | .error n => .faulty n
  if let some st := f.failed then .fails st
  else if e.state = .absent then .fails St.noSuchPage
  else if e.suspect then .fails St.pageCrcMismatch
  else if e.tier = 2 then
    match copyFor d own with
    | some c => fromImage (readTier1 k (4096 * c.frame) (4096 * c.count))
    | none => match tfind f.images key with | some img => fromImage img | none => .fails St.tierReadFailed
  else
    match entryBad k e g with
    | b :: bs => .unread (b :: bs)
    | [] =>
      let img := readEntry k e
      if !e.grows then fromImage img else if growPageOk img own g then .image (img.take g.growing) 0 else .faulty 1

/-- The parts of a boundary copy that are made by DMA: bytes of the image outside the row units copied by ROW_COPY. -/
def dmaParts (rows : Bool) (frame : Nat) (img : Bytes) : List (Nat × Bytes) :=
  if rows then
    let lo := 4096 * ((frame + 1) / 2 * 2 - frame)
    let hi := 4096 * ((frame + framesFor img.length) / 2 * 2 - frame)
    [(4096 * frame, img.take lo), (4096 * frame + hi, img.drop hi)].filter fun p => !p.2.isEmpty
  else [(4096 * frame, img)]

/-- A fork whose copy fails takes back everything it has created (R59). -/
def forkUndo (d : Dev) (f : Fork) (status : Nat) : Dev :=
  let d := (pagesOf d f.child).foldl removePage d
  let d := (d.row.jobs.filter fun j => match j.use with | .fork key => f.copies.contains key | _ => false).foldl jobDrop d
  let mine := d.obj.runs.filter fun p =>
    match p.2.use with | .image key => f.copies.contains key | .reserve key => f.copies.contains key | _ => false
  cmdFailState (forkOver (mine.foldl (fun d p => leaveRun d p.1) d) f) f.ring f.index status

/-- The copy of a boundary page ends: its bytes, its header, then its entry (R57, R225). -/
def forkCopyEnd (k : Chip) (f : Fork) (key : Nat) : Chip :=
  let d := k.dev
  match d.objAt f.child, d.obj.runs.find? fun p => p.2.use == .image key && runTier p.1 == 1 with
  | some o, some (r, run) =>
    let g := o.geom
    let src := rekey key f.parent
    let rows := d.row.jobs.any fun j => j.use == .fork key
    match forkSource k g f key with
    -- a page that becomes SUSPECT holds the copy until its recovery attempt ends (R56)
    | .unread bursts => k.onDev fun d =>
        suspectPage (badFound d bursts 2 (keyTenant src) St.uncorrectable) (d.ownerKey src) false
    | .faulty check => k.onDev fun d => suspectPage (formatFault d (d.ownerKey src) check) (d.ownerKey src) false
    | .fails st => k.onDev fun d => forkUndo d f st
    | .image img n =>
      let k := k.onDev fun d => if n = 0 then d else verified d (d.ownerKey src) n
      let epoch := match o.shardFor (keyPage key) with | some (_, s) => s.epoch | none => 0
      let hdr := hdrBytes (growHdr g key (f.length % g.T) epoch)
      let k := writeAll k (dmaParts rows (runFrame r) img ++ [(4096 * runFrame r, hdr)])
      k.onDev fun d =>
        let d := (d.row.jobs.filter fun j => j.use == .fork key).foldl jobDrop d
        let d := d.setEntry key { frame := runFrame r, count := run.count, tier := 1, state := .growing, refs := 1 }
        let left := f.copies.filter fun x => x != key && (d.entry x).state == .absent
        if left.isEmpty then cmdDone (forkOver d f) f.ring f.index St.ok (forkResult f.shared f.copies.length) else d
  | _, _ => k.onDev fun d => forkUndo d f St.noSuchObject

/-- FORK_COPY_DONE (R225): every row operation of the copy has completed. A source that has become SUSPECT holds the copy
until its recovery attempt ends (R56). -/
def execForkCopyDone (ring index key : Nat) (s : State) : Out :=
  s.actMem fun k =>
    match k.dev.obj.forks.find? fun f => f.ring == ring && f.index == index && f.copies.contains key with
    | none => k
    | some f =>
      let rowsDone := k.dev.row.jobs.all fun j => !(j.use == .fork key) || j.completed.length == jobSize j
      let own := k.dev.ownerEntry (rekey key f.parent)
      let here := own.tier != 2 || (copyFor k.dev (k.dev.ownerKey (rekey key f.parent))).isSome ||
        (tfind f.images key).isSome || f.failed.isSome || !(tier2Up k.dev)
      let held := own.suspect && f.failed.isNone &&
        (match tfind k.dev.obj.recoveries (k.dev.ownerKey (rekey key f.parent)) with | some r => r.active | none => false)
      k.when (rowsDone && here && !held && (k.dev.entry key).state == .absent && k.dev.ready (pageDie k.dev key)) fun k => forkCopyEnd k f key

/-! ### LOAD_OPEN and LOAD_CLOSE (R435, R436) -/

/-- The key of the page a load names. -/
def loadKey (c : Cmd) : Nat := mkKey (cTenant c) (fld c.desc 0x14 4) (fld c.desc 0x11 1) (fld c.desc 0x18 4)

def loadChecks (d : Dev) (c : Cmd) : List (Bool × (Nat × Nat)) :=
  let kind := fld c.desc 0x10 1
  let frames := fld c.desc 0x1C 4
  let o := d.objAt (mkObj (cTenant c) (fld c.desc 0x14 4))
  let framesOk := if kind = 0 then decide (1 ≤ frames ∧ frames ≤ 69) else if kind = 1 then frames == 0
    else decide (1 ≤ frames ∧ frames ≤ 262144)
  [fieldOk framesOk 0x1C, fieldOk (decide (kind < 3)) 0x10] ++
    (if kind = 2 then
      let slice := fld c.desc 0x12 1
      [fieldOk (decide (slice < 64) && (d.mbr.compositions.any fun p => p.2.tenant == cTenant c && p.2.slices.contains slice)) 0x12,
       fieldOk (decide (fld c.desc 0x13 1 < 3)) 0x13]
    else
      objHeld d c 0x14 ++
        [((match o with | some o => holdsPage d o (fld c.desc 0x11 1) (fld c.desc 0x18 4) | none => false), (St.noSuchPage, 0x18)),
         fieldOk ((d.entry (loadKey c)).state == .absent) 0x18, (!(pageOpening d (loadKey c)), (St.busy, 0x18))])

/-- Find the run of an area: in the ordinary frames of the kind asked for. -/
def allocArea (d : Dev) (slice n tenant gkind : Nat) : Option (Nat × Dev) :=
  let gs := (ordinary d slice).filter fun g => gkind == 2 || isBankOp d (slice * 48 + g) == (gkind == 1)
  if !(sliceReady d slice) || !(d.ready (dieOfSlice slice)) then none
  else
    match chooseGap d n (gapsIn d slice 0 n gs) with
    | some (f, d) => some (f, placeRun d 1 f n tenant (.load 0))
    | none => none

/-- A load is open: its run, and a growing image's reservation. -/
def loadOpened (d : Dev) (ring index key frame : Nat) (growing : Bool) (res : Nat) : Dev :=
  cmdDone (d.onObj fun x => { x with loads := x.loads ++ [(key, frame, growing, res)] }) ring index St.ok (4096 * frame)

/-- LOAD_OPEN. -/
def execLoadOpen (ring index : Nat) (s : State) : Out :=
  s.act fun d => cmdChecks d ring index 0x18 (loadChecks d) fun d c =>
    let kind := fld c.desc 0x10 1
    let key := loadKey c
    let none_ := cmdFail d ring index St.busy 0x1C
    if kind = 2 then
      match allocArea d (fld c.desc 0x12 1) (fld c.desc 0x1C 4) (cTenant c) (fld c.desc 0x13 1) with
      | none => none_
      | some (f, d) => loadOpened d ring index 0 f false 0
    else
      match d.objAt (keyObj key), pageSlice d key with
      | some o, some slice =>
        if kind = 0 then
          match allocTier1 d slice (fld c.desc 0x1C 4) (cTenant c) false false (.load key) with
          | none => none_
          | some (f, d) => loadOpened (fixGroup d key slice) ring index key f false 0
        else
          match allocGrowing d key o.geom (.load key) with
          | none => cmdFail (shortage d slice key) ring index St.busy 0x1C
          | some (f, r, d) => loadOpened d ring index key f true r
      | _, _ => none_

/-- The open load that a LOAD_CLOSE names, of its tenant. -/
def loadAt (d : Dev) (c : Cmd) : Option (Nat × Nat × Bool × Nat) :=
  d.obj.loads.find? fun x => 4096 * x.2.1 == fld c.desc 0x20 8 &&
    (match tfind d.obj.runs (runKey 1 x.2.1) with | some r => r.tenant == cTenant c && !r.left | none => false)

/-- A TIER1 registration covers part of a run (R306). -/
def registered (d : Dev) (frame : Nat) : Bool :=
  let n := match tfind d.obj.runs (runKey 1 frame) with | some r => r.count | none => 0
  d.rma.regs.any fun p => p.2.tier1 && decide (p.2.target < 4096 * (frame + n)) && decide (4096 * frame < p.2.target + p.2.length)

/-- A loaded image is installed as its page's entry (R436). -/
def loadInstall (d : Dev) (key frame : Nat) (growing : Bool) (valid : Nat) (g : Geom) : Dev :=
  let n := match tfind d.obj.runs (runKey 1 frame) with | some r => r.count | none => 0
  let d := (d.onRun (runKey 1 frame) fun r => { r with use := .image key }).onObj fun x =>
    { x with loads := dropWhere (fun y => y.2.1 == frame) x.loads }
  let d := d.setEntry key { frame := frame, count := n, tier := 1, state := if growing then .growing else .sealed, refs := 1 }
  if growing then sealIfFull d key valid g
  else
    match directedPriority (policyOf d (keyObj key)) 1 with
    | some p => queueMove d key p
    | none => d

/-- A commit of a page (R436). -/
def loadCommit (k : Chip) (ring index key frame : Nat) (growing : Bool) : Dev :=
  let d := k.dev
  match d.objAt (keyObj key), tfind d.obj.runs (runKey 1 frame) with
  | some o, some r =>
    let g := o.geom
    let a := 4096 * frame
    let bad := badBursts d a (imageLen growing g (readTier1 k a 128) r.count)
    let img := readTier1 k a (4096 * r.count)
    if (d.entry key).state ≠ .absent then cmdFail d ring index St.fieldInvalid 0x20
    else if !(holdsPage d o (keyLayer key) (keyPage key)) then cmdFailState d ring index St.noSuchPage
    else
      match bad with
      | b :: bs =>
        cmdFailState (badFound d (b :: bs) 2 (keyTenant key) St.uncorrectable) ring index St.uncorrectable
      | [] =>
        if growing then
          if growImageOk img key g then
            cmdDone (loadInstall d key frame true (readHdr img).valid g) ring index St.ok 0
          else cmdFailState d ring index St.pageCrcMismatch
        else
          match pageImageCheck img img.length key g with
          | .ok _ =>
            cmdDone (loadInstall (verified d key (storedPart img).length) key frame false 0 g) ring index St.ok 0
          | .error n => cmdFailState (formatFault d key n) ring index St.pageCrcMismatch
  | _, _ => cmdFailState d ring index St.noSuchObject

/-- LOAD_CLOSE with commit; an undefined ACTION fails here. -/
def execLoadCloseCommit (ring index : Nat) (s : State) : Out :=
  s.actRead fun k =>
    match k.dev.cmdReady ring index 0x19 with
    | none => k.dev
    | some c => k.dev.when (fld c.desc 0x10 1 != 1) fun d =>
      if fld c.desc 0x10 1 ≠ 0 then cmdFail d ring index St.fieldInvalid 0x10
      else
        match loadAt d c with
        | none => cmdFail d ring index St.fieldInvalid 0x20
        | some (key, frame, growing, _) =>
          if key = 0 then cmdFail d ring index St.fieldInvalid 0x10
          else if registered d frame then cmdFail d ring index St.busy 0x20
          else loadCommit ⟨d, k.mem⟩ ring index key frame growing

/-- LOAD_CLOSE with discard (R52, R212, R306): the run is freed when its last reader is done. -/
def execLoadCloseDiscard (ring index : Nat) (s : State) : Out :=
  s.act fun d =>
    match d.cmdReady ring index 0x19 with
    | none => d
    | some c => d.when (fld c.desc 0x10 1 == 1) fun d =>
      match loadAt d c with
      | none => cmdFail d ring index St.fieldInvalid 0x20
      | some (_, frame, growing, res) =>
        if registered d frame then cmdFail d ring index St.busy 0x20
        else
          let d := leaveRun d (runKey 1 frame)
          let d := if growing then leaveRun d (runKey 1 res) else d
          cmdDone (d.onObj fun x => { x with loads := dropWhere (fun y => y.2.1 == frame) x.loads }) ring index St.ok 0

/-! ### PAGE_INSPECT and OBJ_INSPECT (Table 15-20) -/

/-- PAGE_INSPECT: an image in tier 2 is read over unordered I/O. -/
def execPageInspect (ring index : Nat) (s : State) : Out :=
  s.actRead fun k => cmdChecks k.dev ring index 0x1A
    (fun c =>
      let o := k.dev.objAt (cObj c)
      [fieldOk (fld c.desc 0x15 1 != 3) 0x15] ++ objHeld k.dev c 0x10 ++
        [((match o with | some o => pageInObj o (fld c.desc 0x14 1) (fld c.desc 0x18 4) | none => false), (St.noSuchPage, 0x18)),
         (fld c.desc 0x15 1 == 0 || (k.dev.entry (inspectKey c)).state != .absent, (St.noSuchPage, 0x18))])
    fun d c =>
      let entry := entryBytes (d.entry (inspectKey c))
      let key := d.ownerKey (inspectKey c)
      let e := d.entry key
      let g := keyGeom k key e.run
      if fld c.desc 0x15 1 = 0 then inspectWrite d ring index c St.ok entry
      else if e.tier = 2 then
        match copyFor d key with
        | some x =>
          inspectImage d ring index c entry key (4096 * x.count) g false (readTier1 k (4096 * x.frame) (4096 * x.count))
        | none =>
          if !(tier2Up d) then inspectWrite d ring index c St.tierReadFailed entry
          else if uioRoom d e.count then uioRead (cmdRuns d ring index) 3 (.inspect ring index) e.frame e.count
          else d
      else
        match entryBad k e g with
        | b :: bs =>
          let d := badFound d (b :: bs) 2 (keyTenant key) St.uncorrectable
          inspectWrite (suspectPage d key false) ring index c St.uncorrectable entry
        | [] => inspectImage d ring index c entry key (4096 * e.count) g e.grows (readEntry k e)

/-- The record header and the shard records that a node which is not the home holds, under its view. -/
def heldRecord (obj : Nat) (o : Obj) : Bytes :=
  recordHeader
      { tenant := objTenant obj, object := objId obj, format := o.format, tCode := o.tCode, hkv := o.hkv, dCode := o.dCode,
        layers := o.layers, composition := o.composition, home := o.home, mirror := o.homeMirror, epoch := o.recordEpoch,
        shards := o.shards.map (·.2), isHome := false } ++
    o.shards.flatMap fun p => shardBytes p.2

/-- OBJ_INSPECT: the record, then the layers' lengths on this node. -/
def execObjInspect (ring index : Nat) (s : State) : Out :=
  s.actRead fun k => cmdChecks k.dev ring index 0x1B
    (fun c => objIdChecks k.dev c.desc 0x10 ++ [(knowsObj k.dev (cObj c), (St.noSuchObject, 0x10))])
    fun d c =>
      let obj := cObj c
      let o := d.objAt obj
      let h := (d.home obj).filter (·.isHome)
      let layers := match o, h with | some o, _ => o.layers | none, some h => h.layers | none, none => 0
      let tail := match o with | some o => holdsTail d o | none => false
      let lens := (List.range layers).flatMap fun l =>
        toLe 4 (match o with | some o => if tail then layerLength k obj o.geom l else 0 | none => 0)
      let rec_ := match h, o with
        | some h, _ => recordBytes h
        | none, some o => heldRecord obj o
        | none, none => match d.home obj with | some h => recordBytes h | none => []
      let out := rec_ ++ lens
      if tail && !(tailsRead d obj layers) then cmdFailState (tailsLost d obj layers) ring index St.uncorrectable
      else if fld c.desc 0x28 4 < out.length then cmdFail d ring index St.lengthInvalid 0x28
      else
        d.onCmd ring index fun x =>
          { x with phase := .done, status := St.ok, result := out.length, data := [(fld c.desc 0x20 8, out)] }

end Sys2Proof.Machine
end

