-- ==== Sys2Proof/Machine/Registers.lean ====
section
/-! DEFINITION. The setup registers (spec 21) and the writes of the compatibility set (spec 20). A write that R10, R11,
R526 or R528 ignores leaves every register as it is and is recorded as REG_WRITE_IGNORED. -/

namespace Sys2Proof.Machine

/-- A register write of the host reaches the Clover die; in recovery mode only GLB_ID, GLB_DIE_STATUS, GLB_TICK and the
SEC registers are served (R540). -/
def regServed (d : Dev) (offset : Nat) : Bool :=
  decide (d.boot.mode ≠ .recovery) || [0x0, 0x8, 0x20, 0x7000, 0x7008, 0x7010, 0x7018].contains offset

/-- A write to a register that GLB_SETUP_LOCK freezes (R10, R532), where `bad` is one of the cases of R528. -/
def rwlWrite (d : Dev) (offset : Nat) (bad : Bool) (f : Dev → Dev) : Dev :=
  if d.regs.lock || bad || !(regServed d offset) then regIgnored d offset 8 else f d

/-- A write to a register that does not lock. -/
def rwWrite (d : Dev) (offset : Nat) (bad : Bool) (f : Dev → Dev) : Dev :=
  if bad || !(regServed d offset) then regIgnored d offset 8 else f d

/-- Every set bit of the old value is set in the new one: no one-way bit would be cleared (R528). -/
def keepsBits (n old new : Nat) : Bool := (bitIdx n old).all (bitOf new)

/-- The bits that a write sets. -/
def newBits (n old new : Nat) : List Nat := (bitIdx n new).filter fun i => !(bitOf old i)

/-! ### The writes -/

/-- GLB_ENABLE (Table 21-4, Table 21-12). -/
def glbEnableOp (d : Dev) (v : Nat) : Dev :=
  let v := v % 2 ^ 16
  let may := fun n => tget false d.lp.done n && tget 0 d.lp.readyCh n != 0
  rwlWrite d 0x10 (!(keepsBits 16 d.regs.arrays v) || !((newBits 16 d.regs.arrays v).all may)) fun d =>
    d.onRegs fun r => { r with arrays := v }

/-- The registers of Table 21-1 that lock, in ascending offset, LOCK as 1 (R499, R532). -/
def lockedValues (r : Regs) : List Nat :=
  [r.arrays, 1, r.spillBase + b2n r.spillValid, r.memEnable, r.fabricId * 2 ^ 32 + r.nodeId, r.escapeWait,
   r.ccPerHop * 2 ^ 32 + r.ccBase, r.overflowLog2 * 2 ^ 16 + r.holeSpacing * 2 ^ 8 + r.classBlocks, b2n r.matEnable]

/-- GLB_SETUP_LOCK (R532): writing 0 while clear changes nothing. -/
def setupLockOp (d : Dev) (v : Nat) : Dev :=
  rwlWrite d 0x18 false fun d =>
    if bitOf v 0 then
      (d.onRegs fun r => { r with lock := true }).onSec fun x =>
        { x with lockDigest := sha256 ((lockedValues d.regs).flatMap (toLe 8)) }
    else d

/-- HIF_CONN_SPILL (Table 21-7): BASE is fixed while VALID is set; VALID needs a BASE. -/
def connSpillOp (d : Dev) (v : Nat) : Dev :=
  let base := v / 2 ^ 21 * 2 ^ 21
  let valid := bitOf v 0
  rwlWrite d 0x1000 ((d.regs.spillValid && (!valid || base != d.regs.spillBase)) || (valid && base == 0)) fun d =>
    d.onRegs fun r => { r with spillBase := base, spillValid := valid }

/-- MEM_ENABLE (Table 21-13): each bit set starts memory enable of its die (R196). -/
def memEnableOp (d : Dev) (v : Nat) : Dev :=
  let v := v % 2 ^ 16
  let fresh := newBits 16 d.regs.memEnable v
  rwlWrite d 0x2000 (!(keepsBits 16 d.regs.memEnable v) || !(fresh.all d.ready)) fun d =>
    (d.onRegs fun r => { r with memEnable := v }).onLp fun x =>
      { x with running := fresh.foldl (fun t n => tput 0 t n (d.now + 1)) x.running }

/-- LNK_IDENTITY (R536): fixed while any bit of LNK_ENABLE is set. -/
def identityOp (d : Dev) (v : Nat) : Dev :=
  let fabric := bitsOf v 32 32
  let node := bitsOf v 0 20
  rwlWrite d 0x3000 (d.regs.links != 0 && (fabric != d.regs.fabricId || node != d.regs.nodeId)) fun d =>
    d.onRegs fun r => { r with fabricId := fabric, nodeId := node }

/-- LNK_ESCAPE_WAIT (Table 21-17, R537). -/
def escapeWaitOp (d : Dev) (v : Nat) : Dev :=
  let w := bitsOf v 0 14
  rwlWrite d 0x3018 (decide (w < 10) || decide (10000 < w)) fun d => d.onRegs fun r => { r with escapeWait := w }

/-- LNK_CC_TARGET (Table 21-17, R537). -/
def ccTargetOp (d : Dev) (v : Nat) : Dev :=
  let hop := bitsOf v 32 10
  let base := bitsOf v 0 17
  rwlWrite d 0x3020 (decide (1000 < hop) || decide (base < 100) || decide (100000 < base)) fun d =>
    d.onRegs fun r => { r with ccPerHop := hop, ccBase := base }

/-- MAT_PARTITION (Table 21-18): fixed once ENABLE is set (R538). -/
def partitionOp (d : Dev) (v : Nat) : Dev :=
  let o := bitsOf v 16 5
  let h := bitsOf v 8 2
  let c := bitsOf v 0 6
  let changes := o != d.regs.overflowLog2 || h != d.regs.holeSpacing || c != d.regs.classBlocks
  rwlWrite d 0x5000
    (decide (o < 16) || decide (20 < o) || h == 3 || c == 0 || decide (32 < c) || (d.regs.matEnable && changes)) fun d =>
    d.onRegs fun r => { r with overflowLog2 := o, holeSpacing := h, classBlocks := c }

/-- MAT_ENABLE (Table 21-12, R538): match enable starts. -/
def matEnableOp (d : Dev) (v : Nat) : Dev :=
  let on := bitOf v 0
  let may := (d.ready 28 || d.ready 29) && (matAreas d).length == 2
  rwlWrite d 0x5008 ((d.regs.matEnable && !on) || (on && !d.regs.matEnable && !may)) fun d =>
    if on && !d.regs.matEnable then
      (d.onRegs fun r => { r with matEnable := true }).onMat fun m => { m with startAt := some d.now }
    else d

/-- PWR_CAP (R457): clamped to 150 to 400 W. -/
def pwrCapOp (d : Dev) (v : Nat) : Dev :=
  rwWrite d 0x8000 false fun d => d.onPower fun p => { p with cap := min 400 (max 150 (bitsOf v 0 10)) }

/-- PWR_VMAX (R457): clamped to 600 to 850 mV. -/
def pwrVmaxOp (d : Dev) (v : Nat) : Dev :=
  rwWrite d 0x8008 false fun d => d.onPower fun p => { p with vmax := min 850 (max 600 (bitsOf v 0 10)) }

/-- SEC_MBOX_ADDR (R540): fixed while BUSY is set. -/
def mboxAddrOp (d : Dev) (v : Nat) : Dev :=
  let a := v / 64 * 64
  rwWrite d 0x7008 (d.sec.busy && a != d.sec.addr) fun d => d.onSec fun x => { x with addr := a }

/-- Range of LOG2_ENTRIES in a ring's base register (Table 21-9). -/
def ringLogBad (ring v : Nat) : Bool :=
  let l := bitsOf v 0 5
  decide (l < (if ring = evtRing then 8 else 4)) || decide (16 < l)

/-- A write to a register of a ring's block (Table 21-8, R533, R534). -/
def ringRegOp (d : Dev) (ring off v : Nat) : Dev :=
  let a := ringReg ring off
  let idle := (d.ring ring).state == .disabled
  let base := v / 4096 * 4096 + bitsOf v 0 5
  match off with
  | 0x00 => rwWrite d a (!idle || ringLogBad ring v) fun d => d.onRing ring fun r => { r with base := base }
  | 0x08 =>
    if ring = evtRing then d
    else rwWrite d a (!idle || ringLogBad ring v) fun d => d.onRing ring fun r => { r with cplBase := base }
  | 0x10 => rwWrite d a (!idle) fun d => d.onRing ring fun r => { r with dbAddr := v / 64 * 64 }
  | 0x18 =>
    rwWrite d a false fun d =>
      if bitOf v 0 then
        match (d.ring ring).state with
        | .disabled => ringEnableOp d ring
        | .enabled => d
        | _ => regIgnored d a 8
      else ringDisableOp d ring
  | 0x28 => rwWrite d a false fun d => irqWriteOp d ring v
  | _ => d

/-- The ring whose block holds an offset (Table 21-1). -/
def ringAt (offset : Nat) : Option (Nat × Nat) :=
  if 0x10000 ≤ offset ∧ offset < 0x11000 then some ((offset - 0x10000) / 0x40, offset % 0x40)
  else if 0x11000 ≤ offset ∧ offset < 0x11040 then some (evtRing, offset % 0x40)
  else none

/-- Offsets of Table 21-1 whose fields are all RO: a write is ignored (R10). -/
def readOnlyReg (offset : Nat) : Bool :=
  [0x0, 0x8, 0x20, 0x3010, 0x5010, 0x6000, 0x7000, 0x7018, 0x8010].contains offset ||
    (decide (0x2100 ≤ offset) && decide (offset < 0x2180)) || (decide (0x6050 ≤ offset) && decide (offset < 0x6090))

/-- A 64-bit aligned write at an offset of the map, but for SEC_MBOX_CMD (Table 21-1). -/
def regWriteOp (d : Dev) (offset v : Nat) : Dev :=
  if !(regServed d offset) then regIgnored d offset 8
  else match offset with
  | 0x10 => glbEnableOp d v
  | 0x18 => setupLockOp d v
  | 0x1000 => connSpillOp d v
  | 0x2000 => memEnableOp d v
  | 0x3000 => identityOp d v
  | 0x3008 => rwWrite d 0x3008 false fun d => lnkEnableOp d v
  | 0x3018 => escapeWaitOp d v
  | 0x3020 => ccTargetOp d v
  | 0x5000 => partitionOp d v
  | 0x5008 => matEnableOp d v
  | 0x6008 => rwWrite d 0x6008 false fun d => compatCtrl d v
  | 0x7008 => mboxAddrOp d v
  | 0x8000 => pwrCapOp d v
  | 0x8008 => pwrVmaxOp d v
  | _ =>
    match ringAt offset with
    | some (ring, off) => ringRegOp d ring off v
    | none =>
      if 0x6010 ≤ offset ∧ offset < 0x6050 then rwWrite d offset false fun d => compatSel d ((offset - 0x6010) / 8) v
      else if readOnlyReg offset then d
      else regIgnored d offset 8

/-! ### The reads (R6, R10, R526, R527)

A read changes no state, and the table of commands has no row for it: what it returns is a function of the block as it
stands. -/

/-- A field of a register as it reads: its lowest bit, its width and its value. -/
structure RegField where
  lo : Nat
  width : Nat
  value : Nat
deriving DecidableEq, Repr

/-- A register's value from its fields; every other bit is reserved and reads 0 (R6). -/
def regPack (fs : List RegField) : Nat := (fs.map fun f => f.value % 2 ^ f.width * 2 ^ f.lo).sum

/-- The dies of a state, as a bit map. -/
def dieBits (p : Nat → Bool) : Nat := ofBits ((List.range 32).filter p)

/-- STATE of HIF_RING_STATUSn (Table 21-11). -/
def ringStateCode (r : RingState) : Nat :=
  match r with
  | .disabled => 0 | .enabled => 1 | .stopping => 2 | .error => 3

/-- The fields of a register of a ring's block (Tables 21-8 to 21-11). -/
def ringFields (d : Dev) (ring off : Nat) : List RegField :=
  let r := d.ring ring
  match off with
  | 0x00 => [⟨12, 52, r.base / 2 ^ 12⟩, ⟨0, 5, r.base⟩]
  | 0x08 => if ring = evtRing then [] else [⟨12, 52, r.cplBase / 2 ^ 12⟩, ⟨0, 5, r.cplBase⟩]
  | 0x10 => [⟨6, 58, r.dbAddr / 2 ^ 6⟩]
  | 0x18 => [⟨0, 1, b2n r.enable⟩]
  | 0x20 => [⟨32, 32, if ring = evtRing then r.prod else r.head⟩, ⟨4, 4, r.cause⟩, ⟨0, 2, ringStateCode r.state⟩]
  | 0x28 => [⟨48, 16, r.irqDelay⟩, ⟨32, 9, r.irqCount⟩, ⟨0, 8, r.irqVector⟩]
  | _ => []

/-- The fields that a read of a register of Table 21-1 returns (Tables 21-2 to 21-20, 20-8 to 20-11, 19-6, 19-11): an
RO, RW or RWL field its current value; a WO field, and an offset that is not listed, nothing. -/
def regFields (d : Dev) (offset : Nat) : List RegField :=
  match offset with
  | 0x0 => [⟨48, 8, Config.steppingCode⟩, ⟨32, 16, 0x3072⟩, ⟨16, 16, 0x1F8A⟩, ⟨0, 16, 1⟩]
  | 0x8 => [⟨32, 32, dieBits d.lost⟩, ⟨0, 32, dieBits d.ready⟩]
  | 0x10 => [⟨0, 16, d.regs.arrays⟩]
  | 0x18 => [⟨0, 1, b2n d.regs.lock⟩]
  | 0x20 => [⟨0, 64, d.now⟩]
  | 0x1000 => [⟨21, 43, d.regs.spillBase / 2 ^ 21⟩, ⟨0, 1, b2n d.regs.spillValid⟩]
  | 0x2000 => [⟨0, 16, d.regs.memEnable⟩]
  | 0x3000 => [⟨32, 32, d.regs.fabricId⟩, ⟨0, 20, d.regs.nodeId⟩]
  | 0x3008 => [⟨0, 32, d.regs.links⟩]
  | 0x3010 => [⟨0, 32, dieBits fun n => (d.link n).state == .active⟩]
  | 0x3018 => [⟨0, 14, d.regs.escapeWait⟩]
  | 0x3020 => [⟨32, 10, d.regs.ccPerHop⟩, ⟨0, 17, d.regs.ccBase⟩]
  | 0x5000 => [⟨16, 5, d.regs.overflowLog2⟩, ⟨8, 2, d.regs.holeSpacing⟩, ⟨0, 6, d.regs.classBlocks⟩]
  | 0x5008 => [⟨0, 1, b2n d.regs.matEnable⟩]
  | 0x5010 => [⟨3, 1, b2n (d.lost 29)⟩, ⟨2, 1, b2n (d.lost 28)⟩, ⟨1, 1, b2n d.mat.failed⟩, ⟨0, 1, b2n d.mat.ready⟩]
  | 0x6000 => [⟨0, 48, d.cnt.regTicks⟩]
  | 0x6008 => [⟨2, 1, b2n d.cnt.hold⟩, ⟨0, 1, b2n d.cnt.enable⟩]
  | 0x7000 =>
    [⟨56, 8, d.boot.status / 2 ^ 56⟩, ⟨48, 8, d.boot.status / 2 ^ 48⟩, ⟨40, 8, d.boot.status / 2 ^ 40⟩,
     ⟨8, 32, d.boot.status / 2 ^ 8⟩, ⟨0, 6, d.boot.status⟩]
  | 0x7008 => [⟨6, 58, d.sec.addr / 2 ^ 6⟩]
  | 0x7018 => [⟨16, 8, d.sec.detail⟩, ⟨8, 8, d.sec.status⟩, ⟨0, 1, b2n d.sec.busy⟩]
  | 0x8000 => [⟨0, 10, d.power.cap⟩]
  | 0x8008 => [⟨0, 10, d.power.vmax⟩]
  | 0x8010 => [⟨32, 1, b2n d.power.statusBlocked⟩, ⟨16, 10, d.power.statusVc⟩, ⟨0, 10, d.power.statusInput⟩]
  | _ =>
    match ringAt offset with
    | some (ring, off) => ringFields d ring off
    | none =>
      if 0x2100 ≤ offset ∧ offset < 0x2180 then
        let n := (offset - 0x2100) / 8
        [⟨16, 1, b2n (tget false d.lp.done n)⟩, ⟨8, 8, tget 0 d.lp.failedCh n⟩, ⟨0, 8, tget 0 d.lp.readyCh n⟩]
      else if 0x6010 ≤ offset ∧ offset < 0x6050 then
        let v := tget 0 d.cnt.sel ((offset - 0x6010) / 8)
        [⟨40, 24, v / 2 ^ 40⟩, ⟨32, 1, v / 2 ^ 32⟩, ⟨16, 5, v / 2 ^ 16⟩, ⟨0, 16, v⟩]
      else if 0x6050 ≤ offset ∧ offset < 0x6090 then [⟨0, 48, tget 0 d.cnt.regVals ((offset - 0x6050) / 8)⟩]
      else []

/-- What a 64-bit read of the setup part of BAR0 returns when its register is served. -/
def regValue (d : Dev) (offset : Nat) : Nat := regPack (regFields d offset)

/-- A 64-bit read at an offset of the setup part of BAR0 (R526); in recovery mode only the registers of R540 are
served. -/
def regRead (d : Dev) (offset : Nat) : Nat := if regServed d offset && offset % 8 == 0 then regValue d offset else 0

/-- REGISTER_WRITE (R526 to R528): any write of the host to the setup part of BAR0. A write to SEC_MBOX_CMD is the
mailbox command it names, FIELD_INVALID for an opcode of none (R7); it is ignored while BUSY is set (R504). -/
def execRegisterWrite (offset : Nat) (value : BitVec 64) (size : Nat) (s : State) : Out :=
  if size = 8 ∧ offset = 0x7010 then
    match value.toNat % 256 with
    | 1 => execFwStage (value.toNat / 2 ^ 32) s
    | 2 => execFwActivate s
    | 3 => execSvnCommit s
    | 4 => execRestart s
    | _ => s.act fun d => d.when (d.mbox && d.firmware) fun d => mboxEnd d St.fieldInvalid 0
  else
    s.act fun d => d.when (d.bar && decide (offset < 0x80000)) fun d =>
      if size ≠ 8 ∨ offset % 8 ≠ 0 then regIgnored d offset size else regWriteOp d offset value.toNat

/-- GLB_ENABLE_ARRAYS (R531). -/
def execGlbEnableArrays (value : BitVec 64) (s : State) : Out := s.act fun d => d.when d.bar fun d => glbEnableOp d value.toNat

/-- GLB_SETUP_LOCK (R532). -/
def execGlbSetupLock (value : BitVec 64) (s : State) : Out := s.act fun d => d.when d.bar fun d => setupLockOp d value.toNat

/-- HIF_CONN_SPILL_VALID (R299). -/
def execHifConnSpillValid (value : BitVec 64) (s : State) : Out := s.act fun d => d.when d.bar fun d => connSpillOp d value.toNat

/-- MEM_ENABLE (R196). -/
def execMemEnable (value : BitVec 64) (s : State) : Out := s.act fun d => d.when d.bar fun d => memEnableOp d value.toNat

/-- LNK_ESCAPE_WAIT_WRITE (R537). -/
def execLnkEscapeWaitWrite (value : BitVec 64) (s : State) : Out :=
  s.act fun d => d.when d.bar fun d => escapeWaitOp d value.toNat

/-- LNK_CC_TARGET_WRITE (R537). -/
def execLnkCcTargetWrite (value : BitVec 64) (s : State) : Out :=
  s.act fun d => d.when d.bar fun d => ccTargetOp d value.toNat

/-- MAT_ENABLE (R538). -/
def execMatEnable (value : BitVec 64) (s : State) : Out := s.act fun d => d.when d.bar fun d => matEnableOp d value.toNat

/-- PWR_CAP_WRITE (R457). -/
def execPwrCapWrite (value : BitVec 64) (s : State) : Out := s.act fun d => d.when d.bar fun d => pwrCapOp d value.toNat

/-- PWR_VMAX_WRITE (R457). -/
def execPwrVmaxWrite (value : BitVec 64) (s : State) : Out := s.act fun d => d.when d.bar fun d => pwrVmaxOp d value.toNat

/-- CNT_COMPAT_SEL_WRITE (R524). -/
def execCntCompatSelWrite (slot : Nat) (value : BitVec 64) (s : State) : Out :=
  s.act fun d => d.when (d.bar && decide (slot < 8)) fun d =>
    rwWrite d (0x6010 + 8 * slot) false fun d => compatSel d slot value.toNat

/-- CNT_COMPAT_CLEAR (R525): a write to CNT_COMPAT_CTRL. -/
def execCntCompatClear (value : BitVec 64) (s : State) : Out :=
  s.act fun d => d.when d.bar fun d => rwWrite d 0x6008 false fun d => compatCtrl d value.toNat

/-- CNT_COMPAT_UPDATE (R525): every 1,000 ticks while HOLD is clear. -/
def execCntCompatUpdate (s : State) : Out :=
  s.act fun d => d.when (d.firmware && !d.cnt.hold && d.due d.cnt.updatedAt 1000) compatUpdate

end Sys2Proof.Machine
end

