-- ==== Sys2Proof/Machine/Tier.lean ====
section
/-! DEFINITION. Memory tiers (spec 06, 14; commands MIGRATION_MOVE to PREFETCH_COPY_ARRIVE, UIO_READ_COMPLETE to
TIER2_PATH_CHANGE). -/

namespace Sys2Proof.Machine

/-- MIGRATION_MOVE: a die's tier manager starts the next move that can go on (R163). -/
def execMigrationMove (die : Nat) (s : State) : Out :=
  s.actMem fun k =>
    k.when (k.dev.ready die) fun k =>
      let k := k.onDev fun d => (dieMoves d die).foldl noteMove d
      match leastRank k.dev ((dieMoves k.dev die).filter (movable k.dev)) with
      | none => k
      | some m => moveStart k m

/-- MIGRATION_COMPLETE: the image at the destination is checked and the entry switches (R62, R165). -/
def execMigrationComplete (move : Nat) (s : State) : Out :=
  s.actRead fun k =>
    match k.dev.obj.moves.find? (·.id == move) with
    | none => k.dev
    | some m =>
      let d := k.dev
      match m.dst with
      | none => d
      | some (t, f, n) =>
        if !m.arrived then d
        else if (d.entry m.key).state ≠ .sealed then moveOver (freeDst d m) m
        else if t = 2 then moveSwitch d m t f n
        else
          let img := readTier1 k (4096 * f) (4096 * n)
          match badBursts d (4096 * f) (imageLen false (keyGeom k m.key (d.entry m.key).run) (readTier1 k (4096 * f) 128) n) with
          | b :: bs =>
            (freeDst (badFound d (b :: bs) 2 (keyTenant m.key) St.uncorrectable) m).onMove m.id fun m =>
              { m with dst := none, arrived := false }
          | [] =>
            match pageImageCheck img img.length m.key (keyGeom k m.key (d.entry m.key).run) with
            | .ok _ => moveSwitch (verified d m.key (storedPart img).length) m t f n
            | .error c => destinationBad d m c

/-- TIER2_WRITE_RETRY: 100,000,000 ticks after a failed write the page may move again (R165). -/
def execTier2WriteRetry (key : Nat) (s : State) : Out :=
  s.act fun d =>
    let p : Move → Bool := fun m =>
      m.key == key && (match m.failedAt with | some t => d.due t 100000000 | none => false)
    let f : Move → Move := fun m => { m with failedAt := none }
    d.onObj fun x => { x with moves := modWhere p f x.moves }

/-- PLACEMENT_SHORTFALL: a move has waited for tier-1 room for more than 100,000,000 ticks (R159). -/
def execPlacementShortfall (move : Nat) (s : State) : Out :=
  s.act fun d =>
    match d.obj.moves.find? (·.id == move) with
    | none => d
    | some m =>
      match m.waitAt with
      | none => d
      | some t =>
        d.when (!m.told && d.due t 100000001) fun d =>
          placementEvent (d.onMove move fun m => { m with told := true }) (keyObj m.key) 2

/-- PREFETCH_READ_ISSUE: the nearest queued prefetch that can be issued (R169 to R172). -/
def execPrefetchReadIssue (die : Nat) (s : State) : Out :=
  s.actRead fun k =>
    let d := k.dev
    d.when (d.ready die && decide (demandWaiting d die < 128) && decide (prefetchOut d die < 32)) fun d =>
      let d := d.onObj fun x => { x with prefetch := tmod [] x.prefetch die fun l => dropWhere (prefetchOver d die) l }
      match issueFirst k die (nearFirst (tget [] d.obj.prefetch die)) d with
      | (none, d) => d
      | (some p, d) => d.onObj fun x => { x with prefetch := tmod [] x.prefetch die fun l => l.erase p }

/-- PREFETCH_COPY_ARRIVE: a copy is checked in verify mode and recorded (R168). -/
def execPrefetchCopyArrive (copy : Nat) (s : State) : Out :=
  s.actRead fun k =>
    match k.dev.obj.copies.find? (·.id == copy) with
    | none => k.dev
    | some c =>
      k.dev.when (c.arrived && !c.ready) fun d =>
        match badBursts d (4096 * c.frame) (imageLen false (keyGeom k c.key (runKey 1 c.frame)) (readTier1 k (4096 * c.frame) 128) c.count) with
        | b :: bs => dropCopy (badFound d (b :: bs) 2 (keyTenant c.key) St.uncorrectable) copy
        | [] =>
          let img := readTier1 k (4096 * c.frame) (4096 * c.count)
          match pageImageCheck img img.length c.key (keyGeom k c.key (runKey 1 c.frame)) with
          | .ok _ =>
            dropStaleCopies ((verified d c.key (storedPart img).length).onObj fun x => { x with copies := modWhere (·.id == copy) (fun c => { c with ready := true }) x.copies }) c.key
          | .error n => suspectPage (formatFault (dropPrefetch (dropCopy d copy) c.key) c.key n) c.key false

/-- A read of tier 2 that is no longer outstanding: its completion or timeout is discarded and counted (R154). -/
def uioLate (d : Dev) (id : Nat) : Dev := d.when (decide (id < d.obj.nextUio)) fun d => lateDiscard d 2 Config.clover 0 0

/-- UIO_READ_COMPLETE (R154). -/
def execUioReadComplete (id : Nat) (ok : Bool) (data : Bytes) (s : State) : Out :=
  s.actMem fun k =>
    match k.dev.obj.uioReads.find? (·.id == id) with
    | none => k.onDev fun d => uioLate d id
    | some r =>
      let k := k.onDev fun d => bandwidth (count d Config.clover 0x2860 data.length) 0xF220 ((data.length + 63) / 64 * 64)
      (if ok then uioGood k r data else uioFail k r).onDev readBacks

/-- TIER2_READ_TIMEOUT (R154). -/
def execTier2ReadTimeout (id : Nat) (s : State) : Out :=
  s.actMem fun k =>
    match k.dev.obj.uioReads.find? (·.id == id) with
    | none => k.onDev fun d => uioLate d id
    | some r => k.when (k.dev.due r.at_ 100000) fun k => (uioFail k r).onDev readBacks

/-- The writes of a run have all completed. -/
def writesDone (d : Dev) (m : Move) (f n : Nat) : Dev :=
  if m.scrub then (d.onObj fun x => { x with runs := tdel x.runs (runKey 2 f), moves := dropWhere (·.id == m.id) x.moves })
  else if m.recovery then
    let e := d.entry m.key
    let d := (leaveRun d e.run).setEntry m.key { e with frame := f, count := n, tier := 2 }
    let d := d.onRun (runKey 2 f) fun r => { r with use := .image m.key }
    moveOver (recoveryDone (dropStaleCopies d m.key) m.key 2) m
  else readBacks (d.onMove m.id fun m => { m with writes := 0 })

/-- UIO_WRITE_COMPLETE (R165, R398). -/
def execUioWriteComplete (move : Nat) (ok : Bool) (s : State) : Out :=
  s.act fun d =>
    match d.obj.moves.find? (·.id == move) with
    | none => d
    | some m =>
      match m.dst with
      | some (2, f, n) =>
        if m.writes = 0 ∨ m.arrived = true then d
        else
          let d := count d Config.clover 0x2870 (4096 * n)
          if ok then writesDone d m f n
          else
            let d := logEv d 0x0307 Config.clover (toLe 1 3 ++ toLe 8 (4096 * f))
            if m.scrub then
              (d.onRun (runKey 2 f) fun r => { r with scrubbing := false }).onObj fun x => { x with moves := dropWhere (·.id == m.id) x.moves }
            else if m.recovery then recoveryFails (moveOver (freeDst d m) m) m.key
            else (freeDst d m).onMove move fun m => { m with dst := none, writes := 0, failedAt := some d.now }
      | _ => d

/-- TIER2_PATH_CHANGE: the switch reports an extent's device absent, or present again (R173). -/
def execTier2PathChange (up : Bool) (s : State) : Out :=
  s.actMem fun k => withPath k fun d => d.onObj fun x => { x with pathUp := up }

end Sys2Proof.Machine
end

