-- ==== Sys2Proof/Machine/Dispatch.lean ====
section
/-! DEFINITION. Every command and its meaning: one arm per row of spec/opcode_table.json. -/

namespace Sys2Proof.Machine

def exec (i : Instr) (s : State) : Host.Outcome State Fault Refusal :=
  match i with
  | .inputPowerOn cv => Sys2Proof.Machine.execInputPowerOn cv s
  | .inputPowerOff cv gap => Sys2Proof.Machine.execInputPowerOff cv gap s
  | .overvoltageRecover cv => Sys2Proof.Machine.execOvervoltageRecover cv s
  | .inputOvercurrent held deciamps => Sys2Proof.Machine.execInputOvercurrent held deciamps s
  | .softStartDone => Sys2Proof.Machine.execSoftStartDone s
  | .presenceDetect => Sys2Proof.Machine.execPresenceDetect s
  | .surpriseRemoval => Sys2Proof.Machine.execSurpriseRemoval s
  | .romBoot => Sys2Proof.Machine.execRomBoot s
  | .recoveryImageAccept image => Sys2Proof.Machine.execRecoveryImageAccept image s
  | .dieGroupRelease => Sys2Proof.Machine.execDieGroupRelease s
  | .dieReadyTimeout die => Sys2Proof.Machine.execDieReadyTimeout die s
  | .bootConfirm => Sys2Proof.Machine.execBootConfirm s
  | .selfHealWatchdog => Sys2Proof.Machine.execSelfHealWatchdog s
  | .dieLost die => Sys2Proof.Machine.execDieLost die s
  | .selfRefreshTimeout die => Sys2Proof.Machine.execSelfRefreshTimeout die s
  | .dieResetRelease die => Sys2Proof.Machine.execDieResetRelease die s
  | .dieReportReady die => Sys2Proof.Machine.execDieReportReady die s
  | .thermalTrip die => Sys2Proof.Machine.execThermalTrip die s
  | .sensorRead temps => Sys2Proof.Machine.execSensorRead temps s
  | .powerCapPeriod watts => Sys2Proof.Machine.execPowerCapPeriod watts s
  | .replicaLoopCount die count => Sys2Proof.Machine.execReplicaLoopCount die count s
  | .healthScoreUpdate => Sys2Proof.Machine.execHealthScoreUpdate s
  | .managementBeatLoss die => Sys2Proof.Machine.execManagementBeatLoss die s
  | .registerWrite offset value size => Sys2Proof.Machine.execRegisterWrite offset value size s
  | .glbEnableArrays value => Sys2Proof.Machine.execGlbEnableArrays value s
  | .glbSetupLock value => Sys2Proof.Machine.execGlbSetupLock value s
  | .hifConnSpillValid value => Sys2Proof.Machine.execHifConnSpillValid value s
  | .ringEnable ring => Sys2Proof.Machine.execRingEnable ring s
  | .ringDisable ring => Sys2Proof.Machine.execRingDisable ring s
  | .ringDrained ring => Sys2Proof.Machine.execRingDrained ring s
  | .hifIrqWrite ring value => Sys2Proof.Machine.execHifIrqWrite ring value s
  | .memEnable value => Sys2Proof.Machine.execMemEnable value s
  | .memEnableComplete die failed => Sys2Proof.Machine.execMemEnableComplete die failed s
  | .lnkEnableSet value => Sys2Proof.Machine.execLnkEnableSet value s
  | .lnkEnableClear value => Sys2Proof.Machine.execLnkEnableClear value s
  | .lnkEscapeWaitWrite value => Sys2Proof.Machine.execLnkEscapeWaitWrite value s
  | .lnkCcTargetWrite value => Sys2Proof.Machine.execLnkCcTargetWrite value s
  | .matEnable value => Sys2Proof.Machine.execMatEnable value s
  | .pwrCapWrite value => Sys2Proof.Machine.execPwrCapWrite value s
  | .pwrVmaxWrite value => Sys2Proof.Machine.execPwrVmaxWrite value s
  | .fwStage length => Sys2Proof.Machine.execFwStage length s
  | .fwActivate => Sys2Proof.Machine.execFwActivate s
  | .svnCommit => Sys2Proof.Machine.execSvnCommit s
  | .restart => Sys2Proof.Machine.execRestart s
  | .cntCompatSelWrite slot value => Sys2Proof.Machine.execCntCompatSelWrite slot value s
  | .cntCompatClear value => Sys2Proof.Machine.execCntCompatClear value s
  | .cntCompatUpdate => Sys2Proof.Machine.execCntCompatUpdate s
  | .perstAssert => Sys2Proof.Machine.execPerstAssert s
  | .hostLinkDown => Sys2Proof.Machine.execHostLinkDown s
  | .hostLinkUp gts width => Sys2Proof.Machine.execHostLinkUp gts width s
  | .hostLinkAbsentTimeout => Sys2Proof.Machine.execHostLinkAbsentTimeout s
  | .nodeDrain => Sys2Proof.Machine.execNodeDrain s
  | .hdmDecoderCommit base size ways => Sys2Proof.Machine.execHdmDecoderCommit base size ways s
  | .dvsecEnable cache mem => Sys2Proof.Machine.execDvsecEnable cache mem s
  | .hostHdmRead addr => Sys2Proof.Machine.execHostHdmRead addr s
  | .hostHdmWrite addr data keep => Sys2Proof.Machine.execHostHdmWrite addr data keep s
  | .hostBirsp line => Sys2Proof.Machine.execHostBirsp line s
  | .backInvalidateTimeout line => Sys2Proof.Machine.execBackInvalidateTimeout line s
  | .cxlIoReadComplete id ok data => Sys2Proof.Machine.execCxlIoReadComplete id ok data s
  | .cxlIoReadTimeout id => Sys2Proof.Machine.execCxlIoReadTimeout id s
  | .uioReadComplete id ok data => Sys2Proof.Machine.execUioReadComplete id ok data s
  | .tier2ReadTimeout id => Sys2Proof.Machine.execTier2ReadTimeout id s
  | .uioWriteComplete move ok => Sys2Proof.Machine.execUioWriteComplete move ok s
  | .tier2PathChange up => Sys2Proof.Machine.execTier2PathChange up s
  | .mailboxCommand opcode payload => Sys2Proof.Machine.execMailboxCommand opcode payload s
  | .spdmGetVersion mctp => Sys2Proof.Machine.execSpdmGetVersion mctp s
  | .spdmGetCapabilities mctp => Sys2Proof.Machine.execSpdmGetCapabilities mctp s
  | .spdmNegotiateAlgorithms mctp asym hash meas => Sys2Proof.Machine.execSpdmNegotiateAlgorithms mctp asym hash meas s
  | .spdmGetDigests mctp => Sys2Proof.Machine.execSpdmGetDigests mctp s
  | .spdmGetCertificate mctp slot offset length => Sys2Proof.Machine.execSpdmGetCertificate mctp slot offset length s
  | .spdmChallenge mctp slot nonce => Sys2Proof.Machine.execSpdmChallenge mctp slot nonce s
  | .spdmGetMeasurements mctp index signed nonce => Sys2Proof.Machine.execSpdmGetMeasurements mctp index signed nonce s
  | .spdmUnsupported mctp code => Sys2Proof.Machine.execSpdmUnsupported mctp code s
  | .i3cEntdaa addr => Sys2Proof.Machine.execI3cEntdaa addr s
  | .mctpSetEndpointId eid => Sys2Proof.Machine.execMctpSetEndpointId eid s
  | .pldmSetEventReceiver eid => Sys2Proof.Machine.execPldmSetEventReceiver eid s
  | .pldmSensorUpdate sensor value => Sys2Proof.Machine.execPldmSensorUpdate sensor value s
  | .pldmRequestUpdate => Sys2Proof.Machine.execPldmRequestUpdate s
  | .pldmFirmwareData offset data => Sys2Proof.Machine.execPldmFirmwareData offset data s
  | .pldmVerifyComplete => Sys2Proof.Machine.execPldmVerifyComplete s
  | .pldmActivateFirmware => Sys2Proof.Machine.execPldmActivateFirmware s
  | .doorbellSnoop ring => Sys2Proof.Machine.execDoorbellSnoop ring s
  | .doorbellRead ring record => Sys2Proof.Machine.execDoorbellRead ring record s
  | .descriptorFetch => Sys2Proof.Machine.execDescriptorFetch s
  | .commandStart ring => Sys2Proof.Machine.execCommandStart ring s
  | .completionWrite ring index => Sys2Proof.Machine.execCompletionWrite ring index s
  | .interruptDelayExpiry ring => Sys2Proof.Machine.execInterruptDelayExpiry ring s
  | .eventRecordWrite => Sys2Proof.Machine.execEventRecordWrite s
  | .countedEventFlush code die => Sys2Proof.Machine.execCountedEventFlush code die s
  | .granuleConfig ring index => Sys2Proof.Machine.execGranuleConfig ring index s
  | .granuleKindChangeDone slice => Sys2Proof.Machine.execGranuleKindChangeDone slice s
  | .tier2Extents ring index => Sys2Proof.Machine.execTier2Extents ring index s
  | .compositionBind ring index => Sys2Proof.Machine.execCompositionBind ring index s
  | .compositionRestartDone comp => Sys2Proof.Machine.execCompositionRestartDone comp s
  | .compositionFence ring index => Sys2Proof.Machine.execCompositionFence ring index s
  | .fdSetupDomain ring index => Sys2Proof.Machine.execFdSetupDomain ring index s
  | .fdSetupWitnessSet ring index => Sys2Proof.Machine.execFdSetupWitnessSet ring index s
  | .membershipEnter ring index => Sys2Proof.Machine.execMembershipEnter ring index s
  | .membershipExpel ring index => Sys2Proof.Machine.execMembershipExpel ring index s
  | .enterTimeout => Sys2Proof.Machine.execEnterTimeout s
  | .managedRemoval ring index => Sys2Proof.Machine.execManagedRemoval ring index s
  | .drainStepBound => Sys2Proof.Machine.execDrainStepBound s
  | .drainComplete => Sys2Proof.Machine.execDrainComplete s
  | .routeTable ring index => Sys2Proof.Machine.execRouteTable ring index s
  | .schedConfig ring index => Sys2Proof.Machine.execSchedConfig ring index s
  | .maskProfile ring index => Sys2Proof.Machine.execMaskProfile ring index s
  | .tableEdit ring index => Sys2Proof.Machine.execTableEdit ring index s
  | .holeRepair die partition => Sys2Proof.Machine.execHoleRepair die partition s
  | .prefixLookup ring index => Sys2Proof.Machine.execPrefixLookup ring index s
  | .prefixCopyScan die => Sys2Proof.Machine.execPrefixCopyScan die s
  | .cntConfig ring index => Sys2Proof.Machine.execCntConfig ring index s
  | .cntSnapshot ring index => Sys2Proof.Machine.execCntSnapshot ring index s
  | .cntFreeze ring index => Sys2Proof.Machine.execCntFreeze ring index s
  | .cntUnfreeze ring index => Sys2Proof.Machine.execCntUnfreeze ring index s
  | .snapshotCapture die => Sys2Proof.Machine.execSnapshotCapture die s
  | .derivedWindowEnd unit => Sys2Proof.Machine.execDerivedWindowEnd unit s
  | .queueSample queue => Sys2Proof.Machine.execQueueSample queue s
  | .objCreate ring index => Sys2Proof.Machine.execObjCreate ring index s
  | .objRecord ring index => Sys2Proof.Machine.execObjRecord ring index s
  | .recordNodeTimeout object node => Sys2Proof.Machine.execRecordNodeTimeout object node s
  | .objDelete ring index => Sys2Proof.Machine.execObjDelete ring index s
  | .objFork ring index => Sys2Proof.Machine.execObjFork ring index s
  | .forkPageReady ring index => Sys2Proof.Machine.execForkPageReady ring index s
  | .forkCopyDone ring index key => Sys2Proof.Machine.execForkCopyDone ring index key s
  | .place ring index => Sys2Proof.Machine.execPlace ring index s
  | .sealFlush ring index => Sys2Proof.Machine.execSealFlush ring index s
  | .shadowStart ring index => Sys2Proof.Machine.execShadowStart ring index s
  | .loadOpen ring index => Sys2Proof.Machine.execLoadOpen ring index s
  | .loadCloseCommit ring index => Sys2Proof.Machine.execLoadCloseCommit ring index s
  | .loadCloseDiscard ring index => Sys2Proof.Machine.execLoadCloseDiscard ring index s
  | .pageInspect ring index => Sys2Proof.Machine.execPageInspect ring index s
  | .objInspect ring index => Sys2Proof.Machine.execObjInspect ring index s
  | .bankopJob ring index => Sys2Proof.Machine.execBankopJob ring index s
  | .localReserve ring index => Sys2Proof.Machine.execLocalReserve ring index s
  | .localRequest ring index => Sys2Proof.Machine.execLocalRequest ring index s
  | .localRelease ring index => Sys2Proof.Machine.execLocalRelease ring index s
  | .mdomCreate ring index => Sys2Proof.Machine.execMdomCreate ring index s
  | .mdomRekey ring index => Sys2Proof.Machine.execMdomRekey ring index s
  | .mdomDelete ring index => Sys2Proof.Machine.execMdomDelete ring index s
  | .regCreate ring index => Sys2Proof.Machine.execRegCreate ring index s
  | .regRevoke ring index => Sys2Proof.Machine.execRegRevoke ring index s
  | .registrationDrained reg => Sys2Proof.Machine.execRegistrationDrained reg s
  | .trigArm ring index => Sys2Proof.Machine.execTrigArm ring index s
  | .trigDisarm ring index => Sys2Proof.Machine.execTrigDisarm ring index s
  | .workPost ring index => Sys2Proof.Machine.execWorkPost ring index s
  | .connClose ring index => Sys2Proof.Machine.execConnClose ring index s
  | .linkSignalDetected link => Sys2Proof.Machine.execLinkSignalDetected link s
  | .linkNoSignalEvent link => Sys2Proof.Machine.execLinkNoSignalEvent link s
  | .linkEqualiseDone link => Sys2Proof.Machine.execLinkEqualiseDone link s
  | .linkAlignLock link => Sys2Proof.Machine.execLinkAlignLock link s
  | .identifyReceived link payload => Sys2Proof.Machine.execIdentifyReceived link payload s
  | .identifySend link => Sys2Proof.Machine.execIdentifySend link s
  | .linkTrainingTimeout link => Sys2Proof.Machine.execLinkTrainingTimeout link s
  | .linkRetrain link trigger => Sys2Proof.Machine.execLinkRetrain link trigger s
  | .retrainRequest link => Sys2Proof.Machine.execRetrainRequest link s
  | .linkLossOfSignal link => Sys2Proof.Machine.execLinkLossOfSignal link s
  | .cablePresent connector type length power => Sys2Proof.Machine.execCablePresent connector type length power s
  | .heartbeatAdvance link => Sys2Proof.Machine.execHeartbeatAdvance link s
  | .heartbeatCheck link => Sys2Proof.Machine.execHeartbeatCheck link s
  | .flitReceive link flit bad => Sys2Proof.Machine.execFlitReceive link flit bad s
  | .nakResendTimeout link => Sys2Proof.Machine.execNakResendTimeout link s
  | .flitSlot link => Sys2Proof.Machine.execFlitSlot link s
  | .hostPortSchedule => Sys2Proof.Machine.execHostPortSchedule s
  | .messageHeadRoute head => Sys2Proof.Machine.execMessageHeadRoute head s
  | .headReevaluate head => Sys2Proof.Machine.execHeadReevaluate head s
  | .escapeWaitExpiry head => Sys2Proof.Machine.execEscapeWaitExpiry head s
  | .abortFlit link vc => Sys2Proof.Machine.execAbortFlit link vc s
  | .messageReceive link vc => Sys2Proof.Machine.execMessageReceive link vc s
  | .messageClassify die => Sys2Proof.Machine.execMessageClassify die s
  | .connect msg => Sys2Proof.Machine.execConnect msg s
  | .connectReply msg => Sys2Proof.Machine.execConnectReply msg s
  | .connectResend conn => Sys2Proof.Machine.execConnectResend conn s
  | .close msg => Sys2Proof.Machine.execClose msg s
  | .closeReply msg => Sys2Proof.Machine.execCloseReply msg s
  | .connectionIdleClose conn => Sys2Proof.Machine.execConnectionIdleClose conn s
  | .quarantineExpiry conn => Sys2Proof.Machine.execQuarantineExpiry conn s
  | .transportAck msg => Sys2Proof.Machine.execTransportAck msg s
  | .transportNak msg => Sys2Proof.Machine.execTransportNak msg s
  | .notReadyRetry conn seq => Sys2Proof.Machine.execNotReadyRetry conn seq s
  | .ackDelayExpiry conn => Sys2Proof.Machine.execAckDelayExpiry conn s
  | .gapTimeout conn => Sys2Proof.Machine.execGapTimeout conn s
  | .rtoExpiry conn => Sys2Proof.Machine.execRtoExpiry conn s
  | .contactLost conn => Sys2Proof.Machine.execContactLost conn s
  | .contextFetchDone conn crcOk => Sys2Proof.Machine.execContextFetchDone conn crcOk s
  | .attnReserve msg => Sys2Proof.Machine.execAttnReserve msg s
  | .attnRelease msg => Sys2Proof.Machine.execAttnRelease msg s
  | .attnReserveReply msg => Sys2Proof.Machine.execAttnReserveReply msg s
  | .slotLeaseExpiry slot => Sys2Proof.Machine.execSlotLeaseExpiry slot s
  | .slotGuardExpiry slot => Sys2Proof.Machine.execSlotGuardExpiry slot s
  | .attnRequest msg => Sys2Proof.Machine.execAttnRequest msg s
  | .pageResolve slot die head => Sys2Proof.Machine.execPageResolve slot die head s
  | .pageReadIssue die copy => Sys2Proof.Machine.execPageReadIssue die copy s
  | .pageStaged die copy => Sys2Proof.Machine.execPageStaged die copy s
  | .pageReadFail die copy cause => Sys2Proof.Machine.execPageReadFail die copy cause s
  | .arrayPassEnd die copy slot head => Sys2Proof.Machine.execArrayPassEnd die copy slot head s
  | .treeNodeEmit slot part => Sys2Proof.Machine.execTreeNodeEmit slot part s
  | .partHandoff slot part => Sys2Proof.Machine.execPartHandoff slot part s
  | .requestDeadline slot => Sys2Proof.Machine.execRequestDeadline slot s
  | .requestError slot die status => Sys2Proof.Machine.execRequestError slot die status s
  | .attnPartial msg => Sys2Proof.Machine.execAttnPartial msg s
  | .append msg => Sys2Proof.Machine.execAppend msg s
  | .appendMirrorCopy msg => Sys2Proof.Machine.execAppendMirrorCopy msg s
  | .appendAck msg => Sys2Proof.Machine.execAppendAck msg s
  | .mirrorCopyResend ack => Sys2Proof.Machine.execMirrorCopyResend ack s
  | .appendDeadline held => Sys2Proof.Machine.execAppendDeadline held s
  | .heldAppendRelease held => Sys2Proof.Machine.execHeldAppendRelease held s
  | .sealComplete die => Sys2Proof.Machine.execSealComplete die s
  | .rmaWrite msg => Sys2Proof.Machine.execRmaWrite msg s
  | .rmaRead msg => Sys2Proof.Machine.execRmaRead msg s
  | .rmaResp msg => Sys2Proof.Machine.execRmaResp msg s
  | .workRequestComplete work status => Sys2Proof.Machine.execWorkRequestComplete work status s
  | .statusReportSend => Sys2Proof.Machine.execStatusReportSend s
  | .statusReport msg => Sys2Proof.Machine.execStatusReport msg s
  | .suspectSend node => Sys2Proof.Machine.execSuspectSend node s
  | .suspect msg => Sys2Proof.Machine.execSuspect msg s
  | .suspectLapse domain subject reporter => Sys2Proof.Machine.execSuspectLapse domain subject reporter s
  | .reportSilenceTimeout domain subject => Sys2Proof.Machine.execReportSilenceTimeout domain subject s
  | .proposeDelayExpiry domain => Sys2Proof.Machine.execProposeDelayExpiry domain s
  | .propose msg => Sys2Proof.Machine.execPropose msg s
  | .vote msg => Sys2Proof.Machine.execVote msg s
  | .proposalAbandon domain => Sys2Proof.Machine.execProposalAbandon domain s
  | .grantLeaseExpiry domain => Sys2Proof.Machine.execGrantLeaseExpiry domain s
  | .memberUpdate msg => Sys2Proof.Machine.execMemberUpdate msg s
  | .memberPull msg => Sys2Proof.Machine.execMemberPull msg s
  | .join msg => Sys2Proof.Machine.execJoin msg s
  | .joinSend => Sys2Proof.Machine.execJoinSend s
  | .frozenDomainEvent domain => Sys2Proof.Machine.execFrozenDomainEvent domain s
  | .lastReplicaSuspectEvent domain subject => Sys2Proof.Machine.execLastReplicaSuspectEvent domain subject s
  | .stragglerGossipSend comp => Sys2Proof.Machine.execStragglerGossipSend comp s
  | .stragglerGossip msg => Sys2Proof.Machine.execStragglerGossip msg s
  | .homeQuery msg => Sys2Proof.Machine.execHomeQuery msg s
  | .homeReply msg => Sys2Proof.Machine.execHomeReply msg s
  | .shardUpdate msg => Sys2Proof.Machine.execShardUpdate msg s
  | .shardAck msg => Sys2Proof.Machine.execShardAck msg s
  | .homeRecordChange object => Sys2Proof.Machine.execHomeRecordChange object s
  | .shardWithdraw msg => Sys2Proof.Machine.execShardWithdraw msg s
  | .tailOffer msg => Sys2Proof.Machine.execTailOffer msg s
  | .tailAccept msg => Sys2Proof.Machine.execTailAccept msg s
  | .handoverTimeout object shard => Sys2Proof.Machine.execHandoverTimeout object shard s
  | .pageFetch msg => Sys2Proof.Machine.execPageFetch msg s
  | .pageImage msg => Sys2Proof.Machine.execPageImage msg s
  | .shadowCompare object shard request => Sys2Proof.Machine.execShadowCompare object shard request s
  | .shadowDigest msg => Sys2Proof.Machine.execShadowDigest msg s
  | .shadowReady msg => Sys2Proof.Machine.execShadowReady msg s
  | .recoveryAttempt key => Sys2Proof.Machine.execRecoveryAttempt key s
  | .pageFetchTimeout key => Sys2Proof.Machine.execPageFetchTimeout key s
  | .recoveryRetry key => Sys2Proof.Machine.execRecoveryRetry key s
  | .migrationMove die => Sys2Proof.Machine.execMigrationMove die s
  | .migrationComplete move => Sys2Proof.Machine.execMigrationComplete move s
  | .tier2WriteRetry key => Sys2Proof.Machine.execTier2WriteRetry key s
  | .placementShortfall move => Sys2Proof.Machine.execPlacementShortfall move s
  | .prefetchReadIssue die => Sys2Proof.Machine.execPrefetchReadIssue die s
  | .prefetchCopyArrive copy => Sys2Proof.Machine.execPrefetchCopyArrive copy s
  | .freedRunScrub frame => Sys2Proof.Machine.execFreedRunScrub frame s
  | .runReferenceDrop frame => Sys2Proof.Machine.execRunReferenceDrop frame s
  | .rowOpStart slice => Sys2Proof.Machine.execRowOpStart slice s
  | .rowOpComplete slice bank => Sys2Proof.Machine.execRowOpComplete slice bank s
  | .bankopJobComplete job => Sys2Proof.Machine.execBankopJobComplete job s
  | .memoryReadComplete burst error reader => Sys2Proof.Machine.execMemoryReadComplete burst error reader s
  | .partialBurstWrite addr data host => Sys2Proof.Machine.execPartialBurstWrite addr data host s
  | .refreshDue bank => Sys2Proof.Machine.execRefreshDue bank s
  | .refreshManagementRequest bank => Sys2Proof.Machine.execRefreshManagementRequest bank s
  | .deviceTempRead device celsius => Sys2Proof.Machine.execDeviceTempRead device celsius s
  | .impedanceRecal channel => Sys2Proof.Machine.execImpedanceRecal channel s
  | .dqTracking channel celsius => Sys2Proof.Machine.execDqTracking channel celsius s
  | .patrolRead sub => Sys2Proof.Machine.execPatrolRead sub s
  | .matchScrub die => Sys2Proof.Machine.execMatchScrub die s
  | .selfRefreshExit die failed => Sys2Proof.Machine.execSelfRefreshExit die failed s
  | .matchEnableDone => Sys2Proof.Machine.execMatchEnableDone s
  | .shadowComparisonDeadline object shard request => Sys2Proof.Machine.execShadowComparisonDeadline object shard request s

end Sys2Proof.Machine
end

