-- ==== Sys2Proof/Machine/Tick.lean ====
section
/-! DEFINITION. What the passing of one tick does, when no command waits (DESIGN CHOICE, notes/assumptions/1.md). -/

namespace Sys2Proof.Machine

/-- One tick of the Self-heal die's count (R472), and what counts at every tick (R511, R525). -/
def tickDev (d : Dev) : Dev := countersTick { d with now := d.now + 1 }

/-- The block when no command waits: one tick passes, if the module has power. -/
def State.tick (s : State) : State := if s.dev.on then { s with dev := tickDev s.dev } else s

end Sys2Proof.Machine
end

