-- ==== Sys2Proof/WellFormed.lean ====
section
/-! DEFINITION. Well-formed commands: operands that name something the node has. A command that is not well formed
names nothing and changes nothing (DESIGN CHOICE, notes/assumptions/2.md). -/

namespace Sys2Proof

/-- R12: 32 dies. -/
def okDie (n : Nat) : Bool := decide (n < 32)
/-- R252: 32 fabric links. -/
def okLink (n : Nat) : Bool := decide (n < 32)
/-- R401: ring pairs 0 to 63, and the event ring, 64. -/
def okRing (n : Nat) : Bool := decide (n ≤ 64)
/-- Table 10-4: VC0 to VC4. -/
def okVc (n : Nat) : Bool := decide (n < 5)
/-- R21: 64 slices. -/
def okSlice (n : Nat) : Bool := decide (n < 64)
/-- R343: failure domains 1 to 1,023. -/
def okDomain (n : Nat) : Bool := decide (1 ≤ n ∧ n < 1024)
/-- R253: four link cable connectors. -/
def okConnector (n : Nat) : Bool := decide (n < 4)
/-- A status is one byte (Table 16-1). -/
def okByte (n : Nat) : Bool := decide (n < 256)
/-- R287: 2^20 connection contexts. -/
def okConn (n : Nat) : Bool := decide (n < 1048576)
/-- Sub-channels of the node (Table 07-1). -/
def okSub (n : Nat) : Bool := decide (n < 256)
/-- Channels of the node (Table 07-1). -/
def okChannel (n : Nat) : Bool := decide (n < 128)
/-- LPDDR6 devices: a sub-channel and rank (Table 07-1). -/
def okDevice (n : Nat) : Bool := decide (n < 512)
/-- Banks of the node, 16 of each device. -/
def okBankNo (n : Nat) : Bool := decide (n < 8192)
/-- Banks of one device (R177). -/
def okBank (n : Nat) : Bool := decide (n < 16)
/-- Compatibility slots (Table 20-10). -/
def okCompat (n : Nat) : Bool := decide (n < 8)
/-- SPDM certificate slots (R498). -/
def okImageSlot (n : Nat) : Bool := decide (n < 8)
/-- R94: 6,144 admission slots. -/
def okSlot (n : Nat) : Bool := decide (n < 6144)
/-- R260: a flit is 256 bytes. -/
def okFlit (b : Bytes) : Bool := b.length == 256
/-- Table 02-1: at most 16 KV heads. -/
def okHead (n : Nat) : Bool := decide (n < 16)
/-- R528: a register access has 4 or 8 bytes. -/
def okSize (n : Nat) : Bool := n == 4 || n == 8
/-- R17: node identifiers have 20 bits. -/
def okNode (n : Nat) : Bool := decide (n < 1048576)
/-- R236: the two parts of a partition. -/
def okPartition (n : Nat) : Bool := decide (n < 2)
/-- A 32-bit length. -/
def okWord (n : Nat) : Bool := decide (n < 4294967296)
/-- R176: bursts of 32 bytes of tier 1. -/
def okBurst (n : Nat) : Bool := decide (n < 103079215104)
/-- R179: a burst is stored as 36 bytes. -/
def okPattern (b : Bytes) : Bool := b.length == 36
/-- R392: a host line has 64 bytes. -/
def okLine (b : Bytes) : Bool := b.length == 64
/-- Lines of tier 1. -/
def okLineNo (n : Nat) : Bool := decide (n < 51539607552)
/-- Table 10-9: the IDENTIFY payload. -/
def okIdentify (b : Bytes) : Bool := decide (b.length ≤ 240)

/-- A command's operands name something the node has. -/
def Instr.wf : Instr → Bool
  | .inputPowerOn _ => true
  | .inputPowerOff _ _ => true
  | .overvoltageRecover _ => true
  | .inputOvercurrent _ _ => true
  | .softStartDone => true
  | .presenceDetect => true
  | .surpriseRemoval => true
  | .romBoot => true
  | .recoveryImageAccept _ => true
  | .dieGroupRelease => true
  | .dieReadyTimeout die => okDie die
  | .bootConfirm => true
  | .selfHealWatchdog => true
  | .dieLost die => okDie die
  | .selfRefreshTimeout die => okDie die
  | .dieResetRelease die => okDie die
  | .dieReportReady die => okDie die
  | .thermalTrip die => okDie die
  | .sensorRead _ => true
  | .powerCapPeriod _ => true
  | .replicaLoopCount die _ => okDie die
  | .healthScoreUpdate => true
  | .managementBeatLoss die => okDie die
  | .registerWrite _ _ size => okSize size
  | .glbEnableArrays _ => true
  | .glbSetupLock _ => true
  | .hifConnSpillValid _ => true
  | .ringEnable ring => okRing ring
  | .ringDisable ring => okRing ring
  | .ringDrained ring => okRing ring
  | .hifIrqWrite ring _ => okRing ring
  | .memEnable _ => true
  | .memEnableComplete die _ => okDie die
  | .lnkEnableSet _ => true
  | .lnkEnableClear _ => true
  | .lnkEscapeWaitWrite _ => true
  | .lnkCcTargetWrite _ => true
  | .matEnable _ => true
  | .pwrCapWrite _ => true
  | .pwrVmaxWrite _ => true
  | .fwStage length => okWord length
  | .fwActivate => true
  | .svnCommit => true
  | .restart => true
  | .cntCompatSelWrite slot _ => okCompat slot
  | .cntCompatClear _ => true
  | .cntCompatUpdate => true
  | .perstAssert => true
  | .hostLinkDown => true
  | .hostLinkUp _ _ => true
  | .hostLinkAbsentTimeout => true
  | .nodeDrain => true
  | .hdmDecoderCommit _ _ _ => true
  | .dvsecEnable _ _ => true
  | .hostHdmRead _ => true
  | .hostHdmWrite _ data _ => okLine data
  | .hostBirsp line => okLineNo line
  | .backInvalidateTimeout line => okLineNo line
  | .cxlIoReadComplete _ _ _ => true
  | .cxlIoReadTimeout _ => true
  | .uioReadComplete _ _ _ => true
  | .tier2ReadTimeout _ => true
  | .uioWriteComplete _ _ => true
  | .tier2PathChange _ => true
  | .mailboxCommand _ _ => true
  | .spdmGetVersion _ => true
  | .spdmGetCapabilities _ => true
  | .spdmNegotiateAlgorithms _ _ _ _ => true
  | .spdmGetDigests _ => true
  | .spdmGetCertificate _ slot _ _ => okImageSlot slot
  | .spdmChallenge _ slot _ => okImageSlot slot
  | .spdmGetMeasurements _ _ _ _ => true
  | .spdmUnsupported _ _ => true
  | .i3cEntdaa _ => true
  | .mctpSetEndpointId _ => true
  | .pldmSetEventReceiver _ => true
  | .pldmSensorUpdate _ _ => true
  | .pldmRequestUpdate => true
  | .pldmFirmwareData _ _ => true
  | .pldmVerifyComplete => true
  | .pldmActivateFirmware => true
  | .doorbellSnoop ring => okRing ring
  | .doorbellRead ring _ => okRing ring
  | .descriptorFetch => true
  | .commandStart ring => okRing ring
  | .completionWrite ring _ => okRing ring
  | .interruptDelayExpiry ring => okRing ring
  | .eventRecordWrite => true
  | .countedEventFlush _ die => okDie die
  | .granuleConfig ring _ => okRing ring
  | .granuleKindChangeDone slice => okSlice slice
  | .tier2Extents ring _ => okRing ring
  | .compositionBind ring _ => okRing ring
  | .compositionRestartDone _ => true
  | .compositionFence ring _ => okRing ring
  | .fdSetupDomain ring _ => okRing ring
  | .fdSetupWitnessSet ring _ => okRing ring
  | .membershipEnter ring _ => okRing ring
  | .membershipExpel ring _ => okRing ring
  | .enterTimeout => true
  | .managedRemoval ring _ => okRing ring
  | .drainStepBound => true
  | .drainComplete => true
  | .routeTable ring _ => okRing ring
  | .schedConfig ring _ => okRing ring
  | .maskProfile ring _ => okRing ring
  | .tableEdit ring _ => okRing ring
  | .holeRepair die partition => okDie die && okPartition partition
  | .prefixLookup ring _ => okRing ring
  | .prefixCopyScan die => okDie die
  | .cntConfig ring _ => okRing ring
  | .cntSnapshot ring _ => okRing ring
  | .cntFreeze ring _ => okRing ring
  | .cntUnfreeze ring _ => okRing ring
  | .snapshotCapture die => okDie die
  | .derivedWindowEnd _ => true
  | .queueSample _ => true
  | .objCreate ring _ => okRing ring
  | .objRecord ring _ => okRing ring
  | .recordNodeTimeout _ node => okNode node
  | .objDelete ring _ => okRing ring
  | .objFork ring _ => okRing ring
  | .forkPageReady ring _ => okRing ring
  | .forkCopyDone ring _ _ => okRing ring
  | .place ring _ => okRing ring
  | .sealFlush ring _ => okRing ring
  | .shadowStart ring _ => okRing ring
  | .loadOpen ring _ => okRing ring
  | .loadCloseCommit ring _ => okRing ring
  | .loadCloseDiscard ring _ => okRing ring
  | .pageInspect ring _ => okRing ring
  | .objInspect ring _ => okRing ring
  | .bankopJob ring _ => okRing ring
  | .localReserve ring _ => okRing ring
  | .localRequest ring _ => okRing ring
  | .localRelease ring _ => okRing ring
  | .mdomCreate ring _ => okRing ring
  | .mdomRekey ring _ => okRing ring
  | .mdomDelete ring _ => okRing ring
  | .regCreate ring _ => okRing ring
  | .regRevoke ring _ => okRing ring
  | .registrationDrained _ => true
  | .trigArm ring _ => okRing ring
  | .trigDisarm ring _ => okRing ring
  | .workPost ring _ => okRing ring
  | .connClose ring _ => okRing ring
  | .linkSignalDetected link => okLink link
  | .linkNoSignalEvent link => okLink link
  | .linkEqualiseDone link => okLink link
  | .linkAlignLock link => okLink link
  | .identifyReceived link payload => okLink link && okIdentify payload
  | .identifySend link => okLink link
  | .linkTrainingTimeout link => okLink link
  | .linkRetrain link _ => okLink link
  | .retrainRequest link => okLink link
  | .linkLossOfSignal link => okLink link
  | .cablePresent connector _ _ _ => okConnector connector
  | .heartbeatAdvance link => okLink link
  | .heartbeatCheck link => okLink link
  | .flitReceive link flit _ => okLink link && okFlit flit
  | .nakResendTimeout link => okLink link
  | .flitSlot link => okLink link
  | .hostPortSchedule => true
  | .messageHeadRoute _ => true
  | .headReevaluate _ => true
  | .escapeWaitExpiry _ => true
  | .abortFlit link vc => okLink link && okVc vc
  | .messageReceive link vc => okLink link && okVc vc
  | .messageClassify die => okDie die
  | .connect _ => true
  | .connectReply _ => true
  | .connectResend conn => okConn conn
  | .close _ => true
  | .closeReply _ => true
  | .connectionIdleClose conn => okConn conn
  | .quarantineExpiry conn => okConn conn
  | .transportAck _ => true
  | .transportNak _ => true
  | .notReadyRetry conn _ => okConn conn
  | .ackDelayExpiry conn => okConn conn
  | .gapTimeout conn => okConn conn
  | .rtoExpiry conn => okConn conn
  | .contactLost conn => okConn conn
  | .contextFetchDone conn _ => okConn conn
  | .attnReserve _ => true
  | .attnRelease _ => true
  | .attnReserveReply _ => true
  | .slotLeaseExpiry slot => okSlot slot
  | .slotGuardExpiry slot => okSlot slot
  | .attnRequest _ => true
  | .pageResolve slot die head => okSlot slot && okDie die && okHead head
  | .pageReadIssue die _ => okDie die
  | .pageStaged die _ => okDie die
  | .pageReadFail die _ _ => okDie die
  | .arrayPassEnd die _ slot head => okDie die && okSlot slot && okHead head
  | .treeNodeEmit slot _ => okSlot slot
  | .partHandoff slot _ => okSlot slot
  | .requestDeadline slot => okSlot slot
  | .requestError slot die status => okSlot slot && okDie die && okByte status
  | .attnPartial _ => true
  | .append _ => true
  | .appendMirrorCopy _ => true
  | .appendAck _ => true
  | .mirrorCopyResend _ => true
  | .appendDeadline _ => true
  | .heldAppendRelease _ => true
  | .sealComplete die => okDie die
  | .rmaWrite _ => true
  | .rmaRead _ => true
  | .rmaResp _ => true
  | .workRequestComplete _ status => okByte status
  | .statusReportSend => true
  | .statusReport _ => true
  | .suspectSend node => okNode node
  | .suspect _ => true
  | .suspectLapse domain _ _ => okDomain domain
  | .reportSilenceTimeout domain _ => okDomain domain
  | .proposeDelayExpiry domain => okDomain domain
  | .propose _ => true
  | .vote _ => true
  | .proposalAbandon domain => okDomain domain
  | .grantLeaseExpiry domain => okDomain domain
  | .memberUpdate _ => true
  | .memberPull _ => true
  | .join _ => true
  | .joinSend => true
  | .frozenDomainEvent domain => okDomain domain
  | .lastReplicaSuspectEvent domain _ => okDomain domain
  | .stragglerGossipSend _ => true
  | .stragglerGossip _ => true
  | .homeQuery _ => true
  | .homeReply _ => true
  | .shardUpdate _ => true
  | .shardAck _ => true
  | .homeRecordChange _ => true
  | .shardWithdraw _ => true
  | .tailOffer _ => true
  | .tailAccept _ => true
  | .handoverTimeout _ _ => true
  | .pageFetch _ => true
  | .pageImage _ => true
  | .shadowCompare _ _ _ => true
  | .shadowDigest _ => true
  | .shadowReady _ => true
  | .recoveryAttempt _ => true
  | .pageFetchTimeout _ => true
  | .recoveryRetry _ => true
  | .migrationMove die => okDie die
  | .migrationComplete _ => true
  | .tier2WriteRetry _ => true
  | .placementShortfall _ => true
  | .prefetchReadIssue die => okDie die
  | .prefetchCopyArrive _ => true
  | .freedRunScrub _ => true
  | .runReferenceDrop _ => true
  | .rowOpStart slice => okSlice slice
  | .rowOpComplete slice bank => okSlice slice && okBank bank
  | .bankopJobComplete _ => true
  | .memoryReadComplete burst error _ => okBurst burst && okPattern error
  | .partialBurstWrite _ _ _ => true
  | .refreshDue bank => okBankNo bank
  | .refreshManagementRequest bank => okBankNo bank
  | .deviceTempRead device _ => okDevice device
  | .impedanceRecal channel => okChannel channel
  | .dqTracking channel _ => okChannel channel
  | .patrolRead sub => okSub sub
  | .matchScrub die => okDie die
  | .selfRefreshExit die _ => okDie die
  | .matchEnableDone => true
  | .shadowComparisonDeadline _ _ _ => true

end Sys2Proof
end

