-- ==== Sys2Proof/Safety.lean ====
section
/-! DEFINITION. What claims mean by a command that completes and by a state in good order. -/

namespace Sys2Proof.Machine

/-- The outcome is a next state that meets a condition. -/
def Answers (o : Out) (p : State → Prop) : Prop := ∃ t, o = .next t ∧ p t

/-- The outcome, if it is a next state, meets a condition. -/
def Keeps (o : Out) (p : State → Prop) : Prop := ∀ t, o = .next t → p t

/-- What a command that writes tier 1 acts on in a state. -/
def State.chip (s : State) : Chip := ⟨s.dev, s.mem⟩

/-- A state with its device replaced; tier 1, the fuses, the flash and the queue are as they were. -/
def State.withDev (s : State) (d : Dev) : State := { s with dev := d }

/-- A state with its device and its tier 1 replaced; the fuses, the flash and the queue are as they were. -/
def State.withChip (s : State) (k : Chip) : State := { s with dev := k.dev, mem := k.mem }

/-- A state with its device, its fuses and its flash replaced; tier 1 and the queue are as they were. -/
def State.withRoot (s : State) (r : Root) : State := { s with nv := r.nv, dev := r.dev }

/-- A command of a ring has ended with a status and a result. -/
def Ended (t : State) (ring index : Nat) (c : Cmd) (status result : Nat) : Prop :=
  t.dev.cmd ring index = some { c with phase := .done, status := status, result := result }

/-- A command of a ring runs on. -/
def RunsOn (t : State) (ring index : Nat) (c : Cmd) : Prop :=
  t.dev.cmd ring index = some { c with phase := .running }

/-- Tier 1, the fuses, the flash and the queue are as they were. -/
def SameRest (s t : State) : Prop := t.mem = s.mem ∧ t.nv = s.nv ∧ t.pending = s.pending

/-- Tier-1 memory is in its canonical form. -/
def State.MemOk (s : State) : Prop := Memory.wf s.mem = true

/-- Fuses only blow (R484): a key revoked stays revoked, and the fused SVN does not fall; nothing writes the FRU EEPROM
(R507). -/
def FusesKept (a b : Nonvolatile) : Prop :=
  a.uds = b.uds ∧ a.keyHash0 = b.keyHash0 ∧ a.keyHash1 = b.keyHash1 ∧ (a.revoke0 = true → b.revoke0 = true) ∧
    (a.revoke1 = true → b.revoke1 = true) ∧ a.fusedSvn ≤ b.fusedSvn ∧ b.fru = a.fru

/-- The commands that act on a module without power: those of its power input and its connector (R451, R463, R468). -/
def powerRow : Instr → Bool
  | .inputPowerOn .. | .inputPowerOff .. | .overvoltageRecover .. | .presenceDetect | .surpriseRemoval
  | .softStartDone => true
  | _ => false

/-- The commands that can clear the whole module: loss of power, and a module reset (Table 01-4). -/
def resetRow : Instr → Bool
  | .inputPowerOff .. | .inputOvercurrent .. | .surpriseRemoval | .softStartDone | .thermalTrip .. | .selfHealWatchdog
  | .restart .. | .registerWrite .. | .recoveryImageAccept .. | .pldmVerifyComplete | .cxlIoReadComplete .. => true
  | _ => false

/-- The other commands that can write tier 1: the engines' stores and the events that drop or clear it. -/
def storeRow : Instr → Bool
  | .dieReadyTimeout .. | .dieReportReady .. | .tier2Extents .. | .dieLost .. | .selfRefreshTimeout ..
  | .dieResetRelease .. | .memEnableComplete .. | .perstAssert
  | .hostLinkDown | .hostLinkUp .. | .nodeDrain | .hostHdmRead .. | .hostHdmWrite .. | .hostBirsp ..
  | .backInvalidateTimeout ..
  | .uioReadComplete .. | .tier2ReadTimeout .. | .tier2PathChange .. | .granuleKindChangeDone ..
  | .drainStepBound | .drainComplete
  | .tableEdit .. | .holeRepair .. | .prefixLookup .. | .prefixCopyScan .. | .forkCopyDone ..
  | .attnPartial .. | .append ..
  | .appendMirrorCopy .. | .appendDeadline .. | .heldAppendRelease .. | .sealComplete .. | .rmaWrite .. | .pageImage ..
  | .migrationMove .. | .freedRunScrub .. | .rowOpComplete .. | .partialBurstWrite .. | .matchScrub ..
  | .matchEnableDone => true
  | _ => false

/-- The commands that can write the fuses or the flash (spec 19). -/
def flashRow : Instr → Bool
  | .romBoot | .bootConfirm | .fwStage .. | .fwActivate | .svnCommit | .cxlIoReadComplete ..
  | .cxlIoReadTimeout .. | .spdmGetDigests ..
  | .spdmGetCertificate .. | .spdmChallenge .. | .pldmRequestUpdate | .pldmFirmwareData .. | .pldmActivateFirmware
  | .recoveryImageAccept .. | .pldmVerifyComplete | .registerWrite .. => true
  | _ => false

/-- The commands that name an address, and fault where the address does not exist (R176, R392). -/
def addressRow : Instr → Bool
  | .hostHdmRead .. | .hostHdmWrite .. | .partialBurstWrite .. | .memoryReadComplete .. => true
  | _ => false

end Sys2Proof.Machine
end

