-- ==== Sys2Proof/Certificates/Slice0/Obligations.lean ====
section
/-! DEFINITION. The statements for the provers. Each is one proposition; a statement of several clauses numbers them in its
docstring. The hypotheses are on the state and the operands alone, and each equation of outcomes says everything the
command does: what its right side does not change stays. -/

open Sys2Proof Sys2Proof.Machine

/-- What the commands of the 36 V input do, and when (R29, R451, R463, R464, R467). (1) INPUT_POWER_ON on a module
that is off, with no fault latched and no overvoltage, at a reading above 29.0 V and at most 42.0 V starts soft
start and changes nothing else. (2) INPUT_POWER_OFF below 28.0 V, above 42.0 V or after an interruption of more than
50 µs turns the module off: tier 1, the registers and the objects are gone, the fuses, the flash and the queue stay.
(3) OVERVOLTAGE_RECOVER on a module that is off after an overvoltage, with no fault latched, below 41.0 V and not
below 28.0 V, starts soft start and changes nothing else. (4) INPUT_OVERCURRENT held for 5,000 µs or above 20.0 A
turns the module off and latches the fault. (5) SOFT_START_DONE in soft start powers the module: the tick counter is
0, every die is in reset, the ROM has not run. (6) PRESENCE_DETECT records presence and changes nothing else. (7)
SURPRISE_REMOVAL turns the module off, clears a latched fault, and tier 1 is lost. -/
def Obligations.PowerCommands : Prop :=
  (∀ (s : State) (cv : Nat), s.dev.power.state = .off → s.dev.power.latched = false → s.dev.power.overvolt = false →
  2900 < cv → cv ≤ 4200 →
    exec (.inputPowerOn cv) s = .next (s.withDev ({ s.dev with power := { s.dev.power with state := .softStart } }))) ∧
  (∀ (s : State) (cv gap : Nat), (cv < 2800 ∨ 4200 < cv ∨ 50 < gap) →
    Answers (exec (.inputPowerOff cv gap) s) fun t =>
      t.dev.power.state = .off ∧ t.mem = [] ∧ t.nv = s.nv ∧ t.pending = s.pending ∧ t.dev.regs = {} ∧ t.dev.obj = {}) ∧
  (∀ (s : State) (cv : Nat), s.dev.power.state = .off → s.dev.power.overvolt = true → s.dev.power.latched = false →
  2800 ≤ cv → cv < 4100 →
    exec (.overvoltageRecover cv) s = .next (s.withDev 
      ({ s.dev with power := { s.dev.power with overvolt := false, state := .softStart } }))) ∧
  (∀ (s : State) (held deciamps : Nat), s.dev.on = true → (5000 ≤ held ∨ 200 < deciamps) →
    Answers (exec (.inputOvercurrent held deciamps) s) fun t =>
      t.dev.power.state = .off ∧ t.dev.power.latched = true ∧ t.mem = [] ∧ t.nv = s.nv ∧ t.pending = s.pending) ∧
  (∀ (s : State), s.dev.power.state = .softStart →
    Answers (exec .softStartDone s) fun t =>
      t.dev.power.state = .on ∧ t.dev.now = 0 ∧ t.dev.dies = {} ∧ t.dev.boot = {} ∧ t.mem = [] ∧ t.nv = s.nv ∧
      t.pending = s.pending) ∧
  (∀ (s : State),
    exec .presenceDetect s = .next (s.withDev ({ s.dev with power := { s.dev.power with present := true } }))) ∧
  ∀ (s : State),
    Answers (exec .surpriseRemoval s) fun t =>
      t.dev.power.state = .off ∧ t.dev.power.present = false ∧ t.dev.power.latched = false ∧ t.mem = [] ∧
      t.nv = s.nv ∧ t.pending = s.pending

/-- What the commands of boot and of the release of the dies do, and when (R25, R482, R489, R490, R492, R494, R530).
(1) ROM_BOOT while the ROM has not run starts the first valid slot, as firmware when the boot-select record names it
and is not ATTEMPTED, and as fallback otherwise, or enters recovery when neither is valid; it writes no image. (2)
RECOVERY_IMAGE_ACCEPT in recovery writes the image to slot 0; a valid one also writes PREFERRED 0 with TRY and
resets the module. (3) DIE_GROUP_RELEASE, once every die of the current group is ready or lost, goes on to the next
group and starts its bound. (4) DIE_READY_TIMEOUT of a released die of the group, after the group's bound, treats
the die as lost and holds it in reset. (5) BOOT_CONFIRM, once every group has been released, writes the preferred
slot with CONFIRMED and changes nothing else. (6) SELF_HEAL_WATCHDOG with the watchdog armed resets the module: the
ROM has not run, tier 1 is lost, fuses and flash stay. (7) DIE_REPORT_READY of a released die sets READY and clears
LOST in one update, and answers the prefix lookups that waited for the die. -/
def Obligations.BootCommands : Prop :=
  (∀ (s : State), s.dev.on = true → s.dev.boot.mode = .rom →
    Answers (exec .romBoot s) fun t =>
      t.dev.boot.mode = (match bootSlot (bootFirst s.nv).2 (bootFirst s.nv).1 with | some k => if k = (bootRecord s.nv).1 ∧ (bootRecord s.nv).2 ≠ 2 then .firmware else .fallback | none => .recovery) ∧
      t.mem = s.mem ∧ t.pending = s.pending ∧ t.nv.uds = s.nv.uds ∧ t.nv.image0 = s.nv.image0 ∧
      t.nv.image1 = s.nv.image1) ∧
  (∀ (s : State) (image : Bytes), s.dev.on = true → s.dev.boot.mode = .recovery →
    Answers (exec (.recoveryImageAccept image) s) fun t =>
      t.pending = s.pending ∧ t.nv.image0 = image ∧ t.nv.image1 = s.nv.image1 ∧
      (imageFault (imagePut s.nv 0 image) image = none → t.nv = bootWrite (imagePut s.nv 0 image) 0 1 ∧ t.dev.boot = {} ∧ t.mem = [])) ∧
  (∀ (s : State), s.dev.on = true → s.dev.firmware = true → s.dev.dies.step < 6 →
  groupDone s.dev s.dev.dies.step = true →
    Answers (exec .dieGroupRelease s) fun t =>
      t.dev.dies.step = s.dev.dies.step + 1 ∧ t.dev.dies.stepAt = s.dev.now ∧ t.mem = s.mem ∧ t.nv = s.nv ∧
      t.pending = s.pending) ∧
  (∀ (s : State) (die : Nat), s.dev.on = true → s.dev.firmware = true → die < 31 →
  tget .inReset s.dev.dies.st die = .released → (dieGroup s.dev.dies.step).contains die = true →
  s.dev.due s.dev.dies.stepAt (groupBound s.dev.dies.step) = true →
    exec (.dieReadyTimeout die) s = .next (s.withChip 
      ((dieLostOp s.chip die).onDev fun d => d.onDies fun x => { x with held := tput false x.held die true }))) ∧
  (∀ (s : State), s.dev.on = true → s.dev.firmware = true → s.dev.dies.step = 6 → groupDone s.dev 6 = true →
  s.dev.boot.confirmed = false →
    exec .bootConfirm s = .next (s.withRoot 
      (⟨bootWrite s.nv (bootRecord s.nv).1 0, { s.dev with boot := { s.dev.boot with confirmed := true } }⟩))) ∧
  (∀ (s : State), s.dev.on = true → s.dev.boot.watchdog = true →
    Answers (exec .selfHealWatchdog s) fun t =>
      t.dev.boot = {} ∧ t.dev.regs = {} ∧ t.dev.now = 0 ∧ t.mem = [] ∧ t.nv = s.nv ∧ t.pending = s.pending) ∧
  ∀ (s : State) (die : Nat), s.dev.on = true → tget .inReset s.dev.dies.st die = .released →
    exec (.dieReportReady die) s = .next (s.withChip 
      (lookupsReady (s.chip.onDev fun d => (d.setDie die .ready).onDies fun x => { x with lostAt := tdel x.lostAt die }) die))

/-- What the commands of die loss and return do, and when (R25, R26, R199, R269, R462, R464, R471, R535). (1) DIE_LOST
of a running die carries out the die-loss operation. (2) After DIE_LOST the die is held in reset as lost, and the
loss is a health input. (3) SELF_REFRESH_TIMEOUT of a lost die, 1,000 ticks after its controllers began to enter
self-refresh, clears the die's memory but for the node structures kept twice. (4) DIE_RESET_RELEASE of a lost die
that is neither held nor tripped releases it; of a hub die it clears that die's counters and does nothing else to
memory. (5) THERMAL_TRIP of the Self-heal die turns the module off and latches the fault. (6) THERMAL_TRIP of any
other running die latches the trip, writes a THERMAL event, and the die is lost. (7) SELF_REFRESH_EXIT of a ready
die whose initialisation is done and whose channels are not ready sets FAILED for the faulty channels and READY for
the others and changes nothing else. (8) MANAGEMENT_BEAT_LOSS of a ready Campion die stops its heartbeat counts and
changes nothing else. (9) REPLICA_LOOP_COUNT of a ready die, 1,000 ticks after the last one, records its count in
the fixed counter 16 and in the last reading. -/
def Obligations.DieCommands : Prop :=
  (∀ (s : State) (die : Nat), s.dev.on = true → s.dev.firmware = true → dieRuns s.dev die = true →
    exec (.dieLost die) s = .next (s.withChip (dieLostOp s.chip die))) ∧
  (∀ (s : State) (die : Nat), s.dev.on = true → s.dev.firmware = true → dieRuns s.dev die = true → die ≠ 30 →
    Answers (exec (.dieLost die) s) fun t =>
      t.dev.lost die = true ∧ t.dev.mbr.dieLosses ≠ [] ∧ t.nv = s.nv ∧ t.pending = s.pending) ∧
  (∀ (s : State) (die : Nat), s.dev.on = true → s.dev.firmware = true → s.dev.lost die = true →
  tget 0 s.dev.lp.entering die ≠ 0 → s.dev.due (tget 0 s.dev.lp.entering die - 1) 1000 = true →
    Answers (exec (.selfRefreshTimeout die) s) fun t =>
      t.dev.lp.entering = tput 0 s.dev.lp.entering die 0 ∧ t.nv = s.nv ∧ t.pending = s.pending ∧
      t.mem = (restoreCopies (zeroNow s.chip (dieMem die).1 (dieMem die).2) die).mem) ∧
  (∀ (s : State) (die : Nat), s.dev.on = true → s.dev.firmware = true → s.dev.lost die = true →
  tget false s.dev.dies.held die = false → tget false s.dev.power.tripped die = false → 24 ≤ die → die < 28 →
    exec (.dieResetRelease die) s = .next (s.withDev 
      (shareCheck (countersReleased ((s.dev.setDie die .released).onDies fun x => { x with lostAt := tins x.lostAt die s.dev.now, rebased := tput false x.rebased die true }) die)))) ∧
  (∀ (s : State) (die : Nat), s.dev.on = true → die = 31 →
    Answers (exec (.thermalTrip die) s) fun t =>
      t.dev.power.state = .off ∧ t.dev.power.latched = true ∧ t.mem = [] ∧ t.nv = s.nv ∧ t.pending = s.pending) ∧
  (∀ (s : State) (die : Nat), s.dev.on = true → die < 31 → s.dev.firmware = true → dieRuns s.dev die = true →
    exec (.thermalTrip die) s = .next (s.withChip 
      (dieLostOp (s.chip.onDev fun d => thermalEvent (d.onPower fun p => { p with tripped := tput false p.tripped die true }) die) die))) ∧
  (∀ (s : State) (die failed : Nat), s.dev.on = true → tget false s.dev.lp.done die = true →
  tget 0 s.dev.lp.readyCh die = 0 → s.dev.ready die = true →
    exec (.selfRefreshExit die failed) s = .next (s.withDev 
      ({ s.dev with lp := { s.dev.lp with readyCh := tput 0 s.dev.lp.readyCh die (255 - (tget 0 s.dev.lp.failedCh die ||| failed % 256)), failedCh := tput 0 s.dev.lp.failedCh die (tget 0 s.dev.lp.failedCh die ||| failed % 256), selfRefresh := tput false s.dev.lp.selfRefresh die false } }))) ∧
  (∀ (s : State) (die : Nat), s.dev.on = true → s.dev.ready die = true → 16 ≤ die → die ≤ 23 →
    exec (.managementBeatLoss die) s = .next (s.withDev 
      ({ s.dev with dies := { s.dev.dies with beatLost := tput false s.dev.dies.beatLost die true } }))) ∧
  ∀ (s : State) (die count : Nat), s.dev.on = true → s.dev.ready die = true →
  s.dev.due (tget 0 s.dev.power.handshakesAt die) 1000 = true →
    exec (.replicaLoopCount die count) s = .next (s.withDev 
      ((fixedCount s.dev die 16 count).onPower fun p => { p with handshakes := tput 0 p.handshakes die count, handshakesAt := tput 0 p.handshakesAt die s.dev.now }))

/-- The power cap loop, the sensors and the power registers (R357, R457, R458, R459, R461, R462). (1) SENSOR_READ,
1,000 ticks after the last one, records the 32 junction temperatures, clears the latch of a tripped die that has
fallen to 100 °C, and changes nothing else. (2) POWER_CAP_PERIOD, 10,000 ticks after the last one, moves Vc down by
25 mV above the cap plus 10 W and by 10 mV above the cap, up by 5 mV below the cap less 10 W, held between 600 mV
and PWR_VMAX; sets the target of each of dies 0 to 30 to the lowest of Vc, PWR_VMAX and its thermal limit; blocks
the cap when it is exceeded with Vc at 600 mV and lifts that once the power is below the cap; and shows power, Vc
and the block in PWR_STATUS. (3) HEALTH_SCORE_UPDATE, 100,000,000 ticks after the last one, does the update of the
health score, and nothing else. (4) The new score is 1,000 less the penalties of Table 13-4; tier 1, the fuses and
the flash do not change. (5) PWR_CAP_WRITE sets the cap, held between 150 and 400 W, and changes nothing else. (6)
PWR_VMAX_WRITE sets the highest Vc, held between 600 and 850 mV, and changes nothing else. -/
def Obligations.PowerControl : Prop :=
  (∀ (s : State) (temps : List Int), s.dev.on = true → s.dev.firmware = true →
  s.dev.due s.dev.power.sensorAt 1000 = true →
    exec (.sensorRead temps) s = .next (s.withDev 
      ({ s.dev with power := { s.dev.power with sensorAt := s.dev.now, temp := (List.range 32).foldl (fun t i => tput 25 t i (temps.getD i (tget 25 s.dev.power.temp i))) s.dev.power.temp, tripped := s.dev.power.tripped.filter fun q => decide (100 < temps.getD q.1 (tget 25 s.dev.power.temp q.1)) } }))) ∧
  (∀ (s : State) (watts : Nat), s.dev.on = true → s.dev.firmware = true → s.dev.due s.dev.power.periodAt 10000 = true →
    Answers (exec (.powerCapPeriod watts) s) fun t =>
      (s.dev.power.cap + 10 < watts → t.dev.power.vc = min (max (s.dev.power.vc - 25) 600) s.dev.power.vmax) ∧
      (s.dev.power.cap < watts ∧ watts ≤ s.dev.power.cap + 10 → t.dev.power.vc = min (max (s.dev.power.vc - 10) 600) s.dev.power.vmax) ∧
      (watts + 10 < s.dev.power.cap → t.dev.power.vc = min (max (s.dev.power.vc + 5) 600) s.dev.power.vmax) ∧
      (watts ≤ s.dev.power.cap ∧ s.dev.power.cap ≤ watts + 10 → t.dev.power.vc = min (max s.dev.power.vc 600) s.dev.power.vmax) ∧
      (∀ die < 31, t.dev.limit die = nextLimit (s.dev.temp die) (s.dev.limit die) ∧ tget 0 t.dev.power.target die = min (min t.dev.power.vc s.dev.power.vmax) (t.dev.limit die)) ∧
      t.dev.power.blocked = (if s.dev.power.cap < watts ∧ s.dev.power.vc = 600 then true else if watts < s.dev.power.cap then false else s.dev.power.blocked) ∧
      t.dev.power.statusInput = watts ∧ t.dev.power.statusVc = t.dev.power.vc ∧
      t.dev.power.statusBlocked = t.dev.power.blocked ∧ t.dev.power.cap = s.dev.power.cap ∧
      t.dev.power.vmax = s.dev.power.vmax ∧ t.dev.power.temp = s.dev.power.temp ∧ t.mem = s.mem ∧ t.nv = s.nv ∧
      t.pending = s.pending) ∧
  (∀ (s : State), s.dev.on = true → s.dev.firmware = true → s.dev.due s.dev.mbr.scoreAt 100000000 = true →
    exec .healthScoreUpdate s = .next (s.withDev (scoreOp s.dev))) ∧
  (∀ (s : State), s.dev.on = true → s.dev.firmware = true → s.dev.due s.dev.mbr.scoreAt 100000000 = true →
    Answers (exec .healthScoreUpdate s) fun t =>
      t.dev.mbr.score = 1000 - penalties s.dev ∧ t.dev.mbr.scoreAt = s.dev.now ∧ t.mem = s.mem ∧ t.nv = s.nv ∧
      t.pending = s.pending) ∧
  (∀ (s : State) (value : BitVec 64), s.dev.on = true → s.dev.bar = true → regServed s.dev 0x8000 = true →
    exec (.pwrCapWrite value) s = .next (s.withDev 
      ({ s.dev with power := { s.dev.power with cap := min 400 (max 150 (bitsOf value.toNat 0 10)) } }))) ∧
  ∀ (s : State) (value : BitVec 64), s.dev.on = true → s.dev.bar = true → regServed s.dev 0x8008 = true →
    exec (.pwrVmaxWrite value) s = .next (s.withDev 
      ({ s.dev with power := { s.dev.power with vmax := min 850 (max 600 (bitsOf value.toNat 0 10)) } }))

/-- What a write of a setup register does when it is accepted (R196, R266, R280, R299, R526, R528, R531, R532, R537,
R538). (1) REGISTER_WRITE of 8 bytes at an aligned offset of the setup part acts as the register at that offset
does. (2) GLB_ENABLE_ARRAYS before SETUP_LOCK, clearing no bit and setting only bits of dies whose memory is ready,
sets the field and changes nothing else. (3) GLB_SETUP_LOCK written with bit 0 set locks the setup and changes no
other register. (4) HIF_CONN_SPILL with VALID set and a base that is not 0 sets the spill area and changes nothing
else. (5) MEM_ENABLE before SETUP_LOCK, clearing no bit and setting only bits of ready dies, starts the
initialisation of the newly set dies and changes nothing else. (6) MEM_ENABLE_COMPLETE of a running initialisation
sets DONE, READY and FAILED, and the die's memory reads as zeros. (7) LNK_ENABLE written with bits of links that may
be enabled takes the value. (8) LNK_ENABLE written with no new bit takes each link whose bit is now clear down to
DISABLED with trigger 7, and the register takes the value. (9) LNK_ESCAPE_WAIT takes a value of 10 to 10,000 before
SETUP_LOCK and nothing else changes. (10) LNK_CC_TARGET takes a PER_HOP of at most 1,000 and a BASE of 100 to
100,000 before SETUP_LOCK and nothing else changes. (11) MAT_ENABLE with a Teasel die ready and two dies of memory
starts the associative match and changes nothing else. (12) MATCH_ENABLE_DONE with room for both copies sets READY
with empty tables. -/
def Obligations.SetupRegisters : Prop :=
  (∀ (s : State) (offset size : Nat) (value : BitVec 64), s.dev.on = true → s.dev.bar = true → size = 8 →
  offset % 8 = 0 → offset < 0x80000 → offset ≠ 0x7010 →
    exec (.registerWrite offset value size) s = .next (s.withDev (regWriteOp s.dev offset value.toNat))) ∧
  (∀ (s : State) (value : BitVec 64), s.dev.on = true → s.dev.bar = true → s.dev.regs.lock = false →
  regServed s.dev 0x10 = true → keepsBits 16 s.dev.regs.arrays (value.toNat % 2 ^ 16) = true →
  ((newBits 16 s.dev.regs.arrays (value.toNat % 2 ^ 16)).all (fun n => tget false s.dev.lp.done n && tget 0 s.dev.lp.readyCh n != 0) = true) →
    exec (.glbEnableArrays value) s = .next (s.withDev 
      ({ s.dev with regs := { s.dev.regs with arrays := value.toNat % 2 ^ 16 } }))) ∧
  (∀ (s : State) (value : BitVec 64), s.dev.on = true → s.dev.bar = true → s.dev.regs.lock = false →
  regServed s.dev 0x18 = true → bitOf value.toNat 0 = true →
    Answers (exec (.glbSetupLock value) s) fun t =>
      t.dev.regs = { s.dev.regs with lock := true } ∧ t.mem = s.mem ∧ t.nv = s.nv ∧ t.pending = s.pending) ∧
  (∀ (s : State) (value : BitVec 64), s.dev.on = true → s.dev.bar = true → s.dev.regs.lock = false →
  regServed s.dev 0x1000 = true → s.dev.regs.spillValid = false → value.toNat / 2 ^ 21 * 2 ^ 21 ≠ 0 →
  bitOf value.toNat 0 = true →
    exec (.hifConnSpillValid value) s = .next (s.withDev 
      ({ s.dev with regs := { s.dev.regs with spillBase := value.toNat / 2 ^ 21 * 2 ^ 21, spillValid := true } }))) ∧
  (∀ (s : State) (value : BitVec 64), s.dev.on = true → s.dev.bar = true → s.dev.regs.lock = false →
  regServed s.dev 0x2000 = true → keepsBits 16 s.dev.regs.memEnable (value.toNat % 2 ^ 16) = true →
  (newBits 16 s.dev.regs.memEnable (value.toNat % 2 ^ 16)).all s.dev.ready = true →
    exec (.memEnable value) s = .next (s.withDev 
      ({ s.dev with regs := { s.dev.regs with memEnable := value.toNat % 2 ^ 16 }, lp := { s.dev.lp with running := (newBits 16 s.dev.regs.memEnable (value.toNat % 2 ^ 16)).foldl (fun t n => tput 0 t n (s.dev.now + 1)) s.dev.lp.running } }))) ∧
  (∀ (s : State) (die failed : Nat), s.dev.on = true → s.dev.ready die = true → tget 0 s.dev.lp.running die ≠ 0 →
    Answers (exec (.memEnableComplete die failed) s) fun t =>
      t.dev.lp.done = tput false s.dev.lp.done die true ∧
      t.dev.lp.readyCh = tput 0 s.dev.lp.readyCh die (255 - failed % 256) ∧
      t.dev.lp.failedCh = tput 0 s.dev.lp.failedCh die (failed % 256) ∧
      t.mem = memClear s.mem (4 * die * sliceBytes) (4 * sliceBytes) ∧ t.nv = s.nv ∧ t.pending = s.pending) ∧
  (∀ (s : State) (value : BitVec 64), s.dev.on = true → s.dev.bar = true → s.dev.boot.mode ≠ .recovery →
  (((bitIdx 32 (value.toNat % 2 ^ 32)).filter (fun n => !(bitOf s.dev.regs.links n))).all (linkMayEnable s.dev) = true) →
    Answers (exec (.lnkEnableSet value) s) fun t =>
      t.dev.regs.links = value.toNat % 2 ^ 32 ∧ t.mem = s.mem ∧ t.nv = s.nv ∧ t.pending = s.pending) ∧
  (∀ (s : State) (value : BitVec 64), s.dev.on = true → s.dev.bar = true → s.dev.boot.mode ≠ .recovery →
  (((bitIdx 32 (value.toNat % 2 ^ 32)).filter (fun n => !(bitOf s.dev.regs.links n))).isEmpty = true) →
    exec (.lnkEnableClear value) s = .next (s.withDev 
      ((((bitIdx 32 s.dev.regs.links).filter (fun n => !(bitOf (value.toNat % 2 ^ 32) n))).foldl (fun d n => linkDown d n .disabled 7) s.dev).onRegs fun r => { r with links := value.toNat % 2 ^ 32 }))) ∧
  (∀ (s : State) (value : BitVec 64), s.dev.on = true → s.dev.bar = true → s.dev.regs.lock = false →
  regServed s.dev 0x3018 = true → 10 ≤ bitsOf value.toNat 0 14 → bitsOf value.toNat 0 14 ≤ 10000 →
    exec (.lnkEscapeWaitWrite value) s = .next (s.withDev 
      ({ s.dev with regs := { s.dev.regs with escapeWait := bitsOf value.toNat 0 14 } }))) ∧
  (∀ (s : State) (value : BitVec 64), s.dev.on = true → s.dev.bar = true → s.dev.regs.lock = false →
  regServed s.dev 0x3020 = true → bitsOf value.toNat 32 10 ≤ 1000 → 100 ≤ bitsOf value.toNat 0 17 →
  bitsOf value.toNat 0 17 ≤ 100000 →
    exec (.lnkCcTargetWrite value) s = .next (s.withDev 
      ({ s.dev with regs := { s.dev.regs with ccPerHop := bitsOf value.toNat 32 10, ccBase := bitsOf value.toNat 0 17 } }))) ∧
  (∀ (s : State) (value : BitVec 64), s.dev.on = true → s.dev.bar = true → s.dev.regs.lock = false →
  regServed s.dev 0x5008 = true → s.dev.regs.matEnable = false → bitOf value.toNat 0 = true → s.dev.ready 28 = true →
  (matAreas s.dev).length = 2 →
    exec (.matEnable value) s = .next (s.withDev 
      ({ s.dev with regs := { s.dev.regs with matEnable := true }, mat := { s.dev.mat with startAt := some s.dev.now } }))) ∧
  ∀ (s : State), s.dev.on = true → s.dev.regs.matEnable = true → s.dev.mat.ready = false → s.dev.mat.failed = false →
  2 ≤ (matAreas s.dev).length →
    Answers (exec .matchEnableDone s) fun t =>
      t.dev.mat.ready = true ∧ t.dev.mat.areas = matAreas s.dev ∧ t.dev.mat.entries = [] ∧ t.dev.mat.overflow = 0 ∧
      t.nv = s.nv ∧ t.pending = s.pending

/-- The compatibility slots, the derived units and the queue samples (R521, R524, R525). (1) CNT_COMPAT_SEL_WRITE of a
code the die counts, or 0, sets the SEL register and the slot to count it from 0 and changes no programmable
counter. (2) CNT_COMPAT_CLEAR sets ENABLE and HOLD, and CLEAR stays set until the next update; nothing else changes.
(3) CNT_COMPAT_UPDATE while HOLD is clear, 1,000 ticks after the last, copies the ticks and the eight values into
the registers and changes nothing else. (4) DERIVED_WINDOW_END of a unit whose window has passed records the
window's value and the greatest, starts the next window and changes nothing else. (5) QUEUE_SAMPLE of a queue after
1,024 entries or 1,000 ticks records its depth, the age of its head and the largest age since the last sample, and
starts counting again. (6) Of an engine's queue the depth is recorded and the ages are free values of the model
(notes/assumptions/68.md). -/
def Obligations.CounterRegisters : Prop :=
  (∀ (s : State) (slot : Nat) (value : BitVec 64), s.dev.on = true → s.dev.bar = true → slot < 8 →
  regServed s.dev (0x6010 + 8 * slot) = true →
  (bitsOf value.toNat 0 16 = 0 ∨ (eventOk (bitsOf value.toNat 16 5) (bitsOf value.toNat 0 16) = true ∧ policerEvent (bitsOf value.toNat 0 16) = false)) →
    Answers (exec (.cntCompatSelWrite slot value) s) fun t =>
      t.dev.cnt.sel = tput 0 s.dev.cnt.sel slot (bitsOf value.toNat 40 24 * 2 ^ 40 + bitsOf value.toNat 32 1 * 2 ^ 32 + bitsOf value.toNat 16 5 * 2 ^ 16 + bitsOf value.toNat 0 16) ∧
      t.dev.cnt.slots = tput {} s.dev.cnt.slots slot { event := bitsOf value.toNat 0 16, thr := bitOf value.toNat 32, threshold := bitsOf value.toNat 40 24 } ∧
      t.dev.cnt.c = s.dev.cnt.c ∧ t.mem = s.mem ∧ t.nv = s.nv ∧ t.pending = s.pending) ∧
  (∀ (s : State) (value : BitVec 64), s.dev.on = true → s.dev.bar = true → regServed s.dev 0x6008 = true →
    exec (.cntCompatClear value) s = .next (s.withDev 
      ({ s.dev with cnt := { s.dev.cnt with enable := bitOf value.toNat 0, hold := bitOf value.toNat 2, clear := s.dev.cnt.clear || bitOf value.toNat 1 } }))) ∧
  (∀ (s : State), s.dev.on = true → s.dev.firmware = true → s.dev.cnt.hold = false → s.dev.cnt.clear = false →
  s.dev.due s.dev.cnt.updatedAt 1000 = true →
    exec .cntCompatUpdate s = .next (s.withDev 
      ({ s.dev with cnt := { s.dev.cnt with regTicks := s.dev.cnt.ticks, regVals := (List.range 8).foldl (fun t k => tput 0 t k (tget ({} : Counter) s.dev.cnt.slots k).value) [], updatedAt := s.dev.now } }))) ∧
  (∀ (s : State) (unit : Nat) (u : Derived), s.dev.on = true → tfind s.dev.cnt.derived unit = some u →
  frozenOn s.dev 31 = false → s.dev.due u.startAt u.window = true →
    exec (.derivedWindowEnd unit) s = .next (s.withDev 
      ({ s.dev with cnt := { s.dev.cnt with derived := tins s.dev.cnt.derived unit { u with windows := m32 (u.windows + 1), startAt := u.startAt + u.window, last := u.cur, cur := [], most := max u.most (u.cur.headD 0) } } }))) ∧
  (∀ (s : State) (queue die : Nat) (q : Depth), s.dev.on = true → queueDepth s.dev queue = some (die, q) →
  s.dev.ready die = true →
  (1024 ≤ (tget ({} : Sample) s.dev.fab.samples queue).enq ∨ s.dev.due (tget ({} : Sample) s.dev.fab.samples queue).at_ 1000 = true) →
  (queue < 512 ∨ 640 ≤ queue) →
    Answers (exec (.queueSample queue) s) fun t =>
      t.dev.fab.samples = tput {} s.dev.fab.samples queue { enq := 0, at_ := s.dev.now, maxAge := 0, entries := q.entries, size := q.size, headAge := if q.entries = 0 then 0 else match q.oldest with | some at_ => s.dev.now - at_ | none => 0, largest := (tget ({} : Sample) s.dev.fab.samples queue).maxAge } ∧
      t.mem = s.mem ∧ t.nv = s.nv ∧ t.pending = s.pending) ∧
  ∀ (s : State) (queue die : Nat) (q : Depth), s.dev.on = true → queueDepth s.dev queue = some (die, q) →
  s.dev.ready die = true → s.dev.due (tget ({} : Sample) s.dev.fab.samples queue).at_ 1000 = true → 512 ≤ queue →
  queue < 640 →
    Answers (exec (.queueSample queue) s) fun t =>
      (∃ a b, t.dev.fab.samples = tput {} s.dev.fab.samples queue { enq := 0, at_ := s.dev.now, maxAge := 0, entries := q.entries, size := q.size, headAge := if q.entries = 0 then 0 else a, largest := b }) ∧
      t.mem = s.mem ∧ t.nv = s.nv ∧ t.pending = s.pending

/-- The host link, its decoder and its coherence (R388, R392, R394, R395, R396, R415, R416, R417, R466). (1)
PERST_ASSERT resets the host interface. (2) After PERST_ASSERT, with tier 2 not in use, the link is down, no
transfer is queued, no read is outstanding, the decoder is not committed and no line is being invalidated. (3)
HOST_LINK_DOWN of a link that is up has the same effect. (4) HOST_LINK_UP at 64 GT/s and eight or four lanes brings
the CXL protocols up and, with no path to tier 2, changes nothing else. (5) HOST_LINK_ABSENT_TIMEOUT with the link
absent for 30 s and no drain running starts the node's own drain. (6) NODE_DRAIN while the Clover die is lost or the
link absent starts the node's own drain or carries it on. (7) HDM_DECODER_COMMIT of one way, 3,072 GiB, at a
multiple of 256 MiB commits the decoder and changes nothing else. (8) Any other commit sets the error bit and
changes nothing else. (9) DVSEC_ENABLE at full service sets Cache_Enable and Mem_Enable and changes nothing else.
(10) HOST_HDM_READ of a line of a ready channel reads it through the filter. (11) After a coherence failure
HOST_HDM_READ answers the error and changes nothing else. (12) HOST_HDM_READ of an address outside the 3,072 GiB of
tier 1 faults. (13) HOST_HDM_WRITE that keeps its copy writes the line. (14) HOST_HDM_WRITE outside the runs open
for loading is discarded and counted; no byte of tier 1 changes. (15) A write to a row under a row operation, or
behind a write of its channel that waits, waits and changes nothing else. (16) HOST_HDM_WRITE outside the 3,072 GiB
of tier 1 faults. (17) HOST_BIRSP of a line being invalidated takes it out of the filter and lets the writes and
reads that waited for it go on. (18) BACK_INVALIDATE_TIMEOUT of a line whose BISnp has had no answer for 100,000
ticks records the event and coherence fails. -/
def Obligations.HostLinkCommands : Prop :=
  (∀ (s : State), s.dev.on = true →
    exec .perstAssert s = .next (s.withChip (hostDownOp s.chip))) ∧
  (∀ (s : State), s.dev.on = true → tier2Up s.dev = false →
    Answers (exec .perstAssert s) fun t =>
      t.dev.hif.link = .down ∧ t.dev.hif.queue = [] ∧ t.dev.hif.reads = [] ∧ t.dev.hif.committed = false ∧
      t.dev.hif.backInv = [] ∧ t.nv = s.nv ∧ t.pending = s.pending) ∧
  (∀ (s : State), s.dev.on = true → s.dev.hif.link ≠ .down →
    exec .hostLinkDown s = .next (s.withChip (hostDownOp s.chip))) ∧
  (∀ (s : State) (gts width : Nat), s.dev.on = true → s.dev.ready 30 = true → s.dev.hif.link = .down → gts = 64 →
  (width = 8 ∨ width = 4) → s.dev.obj.pathUp = false →
    exec (.hostLinkUp gts width) s = .next (s.withDev 
      ({ s.dev with hif := { s.dev.hif with link := .full, gts := gts, width := width } }))) ∧
  (∀ (s : State), s.dev.on = true → s.dev.firmware = true → hostAbsent s.dev = true → s.dev.mbr.drain.step = 0 →
    exec .hostLinkAbsentTimeout s = .next (s.withDev (drainStart s.chip s.dev true none))) ∧
  (∀ (s : State), s.dev.on = true → s.dev.firmware = true → (s.dev.lost 30 = true ∨ hostAbsent s.dev = true) →
    exec .nodeDrain s = .next (s.withChip (drainAdvance ⟨drainOwn s.chip s.dev, s.mem⟩))) ∧
  (∀ (s : State) (base size ways : Nat), s.dev.on = true → s.dev.bar = true → s.dev.hif.link = .full →
  base % 268435456 = 0 → size = 3298534883328 → ways = 1 →
    exec (.hdmDecoderCommit base size ways) s = .next (s.withDev 
      ({ s.dev with hif := { s.dev.hif with committed := true, base := base, notCommitted := false } }))) ∧
  (∀ (s : State) (base size ways : Nat), s.dev.on = true → s.dev.bar = true → s.dev.hif.link = .full →
  (base % 268435456 ≠ 0 ∨ size ≠ 3298534883328 ∨ ways ≠ 1) →
    exec (.hdmDecoderCommit base size ways) s = .next (s.withDev 
      ({ s.dev with hif := { s.dev.hif with notCommitted := true } }))) ∧
  (∀ (s : State) (cache mem : Bool), s.dev.on = true → s.dev.bar = true → s.dev.hif.link = .full →
    exec (.dvsecEnable cache mem) s = .next (s.withDev 
      ({ s.dev with hif := { s.dev.hif with cacheEn := cache, memEn := mem } }))) ∧
  (∀ (s : State) (addr : Nat), s.dev.on = true → s.dev.hdm = true → addr < 3298534883328 →
  s.dev.hif.cohFailed = false → addrReady s.dev (addr / 64 * 64) = true →
    exec (.hostHdmRead addr) s = .next (s.withChip (hostRead s.chip (addr / 64 * 64)))) ∧
  (∀ (s : State) (addr : Nat), s.dev.on = true → s.dev.hdm = true → addr < 3298534883328 → s.dev.hif.cohFailed = true →
    exec (.hostHdmRead addr) s = .next (s.withDev 
      ({ s.dev with hif := { s.dev.hif with pin := some (.memData (addr / 64 * 64) [] true) } }))) ∧
  (∀ (s : State) (addr : Nat), s.dev.on = true → s.dev.hdm = true → 3298534883328 ≤ addr →
    exec (.hostHdmRead addr) s = .fault .noSuchAddress) ∧
  (∀ (s : State) (addr : Nat) (data : Bytes) (keep : Bool), s.dev.on = true → s.dev.hdm = true → addr < 3298534883328 →
  s.dev.hif.cohFailed = false → keep = true →
    exec (.hostHdmWrite addr data keep) s = .next (s.withChip (hostWrite s.chip (addr / 64 * 64) (padTo 64 data)))) ∧
  (∀ (s : State) (addr : Nat) (data : Bytes) (keep : Bool), s.dev.on = true → s.dev.hdm = true → addr < 3298534883328 →
  s.dev.hif.cohFailed = false → inLoadRun s.dev (addr / 64 * 64) (padTo 64 data).length = false →
  writeWaits s.dev (addr / 64 * 64) (padTo 64 data).length = false →
    Answers (exec (.hostHdmWrite addr data keep) s) fun t =>
      t.mem = s.mem ∧ t.dev.lp.hostDiscarded = inc48 s.dev.lp.hostDiscarded ∧ t.nv = s.nv ∧ t.pending = s.pending) ∧
  (∀ (s : State) (addr : Nat) (data : Bytes) (keep : Bool), s.dev.on = true → s.dev.hdm = true → addr < 3298534883328 →
  s.dev.hif.cohFailed = false → keep = true → writeWaits s.dev (addr / 64 * 64) (padTo 64 data).length = true →
    exec (.hostHdmWrite addr data keep) s = .next (s.withDev 
      ({ s.dev with hif := { s.dev.hif with waiting := s.dev.hif.waiting ++ [{ addr := addr / 64 * 64, data := padTo 64 data, lines := [], host := true }] } }))) ∧
  (∀ (s : State) (addr : Nat) (data : Bytes) (keep : Bool), s.dev.on = true → s.dev.hdm = true → 3298534883328 ≤ addr →
    exec (.hostHdmWrite addr data keep) s = .fault .noSuchAddress) ∧
  (∀ (s : State) (line : Nat), s.dev.on = true → s.dev.cxlUp = true →
  ((s.dev.hif.backInv.any fun p => p.1 == line) = true) →
    exec (.hostBirsp line) s = .next (s.withChip 
      (memReleased (s.chip.onDev fun d => d.onHif fun h => { h with backInv := dropWhere (fun p => p.1 == line) h.backInv, filter := tmod [] h.filter (addrDie (64 * line)) fun l => l.erase line, waiting := h.waiting.map fun w => { w with lines := w.lines.erase line } })))) ∧
  ∀ (s : State) (line : Nat), s.dev.on = true →
  ((s.dev.hif.backInv.any fun p => p.1 == line && s.dev.due p.2 100000) = true) →
    exec (.backInvalidateTimeout line) s = .next (s.withChip 
      (coherenceFails (s.chip.onDev fun d => logEv d 0x0104 30 (toLe 8 (64 * line)))))

/-- The end of reads and writes of host memory and of tier 2 (R154, R165, R173, R398, R399, R400). (1)
CXL_IO_READ_COMPLETE of an outstanding read ends it for what asked for it; in recovery a staged valid image then
resets the module. (2) The completion of a command's buffer read makes the command ready with the bytes read. (3)
CXL_IO_READ_TIMEOUT 100,000 ticks after a read was issued ends it as failed. (4) UIO_READ_COMPLETE of an outstanding
read is counted and gives its bytes to what asked for them. (5) A failed read fails what asked for it. (6)
TIER2_READ_TIMEOUT 100,000 ticks after a read was issued fails what asked for it. (7) UIO_WRITE_COMPLETE of a move's
writes counts them, and the move goes on. (8) TIER2_PATH_CHANGE sets whether the extents' devices are present, with
what follows for tier 2. (9) While the CXL protocols are down it changes nothing else. -/
def Obligations.HostReads : Prop :=
  (∀ (s : State) (id : Nat) (ok : Bool) (data : Bytes) (q : IoRead), s.dev.on = true →
  (s.dev.hif.reads.find? (fun r => r.id == id) = some q) → s.dev.hostUp = true →
    exec (.cxlIoReadComplete id ok data) s = .next (({ s with nv := (ioEnd ⟨s.nv, s.dev⟩ q ok data).nv, dev := (ioEnd ⟨s.nv, s.dev⟩ q ok data).dev } : State).recovered)) ∧
  (∀ (s : State) (id ring index : Nat) (ok : Bool) (data : Bytes) (q : IoRead) (c : Cmd), s.dev.on = true →
  (s.dev.hif.reads.find? (fun r => r.id == id) = some q) → s.dev.hostUp = true → q.purpose = .command ring index →
  s.dev.cmd ring index = some c → c.phase = .reading → ok = true → s.dev.boot.mode = .firmware →
    exec (.cxlIoReadComplete id ok data) s = .next (s.withRoot 
      (⟨s.nv, (s.dev.onHif fun h => { h with reads := dropWhere (fun r => r.id == q.id) h.reads }).onCmd ring index fun c => { c with phase := .ready, buf := padTo q.len data }⟩))) ∧
  (∀ (s : State) (id : Nat) (q : IoRead), s.dev.on = true → (s.dev.hif.reads.find? (fun r => r.id == id) = some q) →
  s.dev.due q.at_ 100000 = true →
    exec (.cxlIoReadTimeout id) s = .next (s.withRoot (ioEnd ⟨s.nv, s.dev⟩ q false []))) ∧
  (∀ (s : State) (id : Nat) (ok : Bool) (data : Bytes) (r : UioRead), s.dev.on = true →
  (s.dev.obj.uioReads.find? (fun r => r.id == id) = some r) → ok = true →
    exec (.uioReadComplete id ok data) s = .next (s.withChip 
      ((uioGood (s.chip.onDev fun d => bandwidth (count d 30 0x2860 data.length) 0xF220 ((data.length + 63) / 64 * 64)) r data).onDev readBacks))) ∧
  (∀ (s : State) (id : Nat) (ok : Bool) (data : Bytes) (r : UioRead), s.dev.on = true →
  (s.dev.obj.uioReads.find? (fun r => r.id == id) = some r) → ok = false →
    exec (.uioReadComplete id ok data) s = .next (s.withChip 
      ((uioFail (s.chip.onDev fun d => bandwidth (count d 30 0x2860 data.length) 0xF220 ((data.length + 63) / 64 * 64)) r).onDev readBacks))) ∧
  (∀ (s : State) (id : Nat) (r : UioRead), s.dev.on = true →
  (s.dev.obj.uioReads.find? (fun r => r.id == id) = some r) → s.dev.due r.at_ 100000 = true →
    exec (.tier2ReadTimeout id) s = .next (s.withChip ((uioFail s.chip r).onDev readBacks))) ∧
  (∀ (s : State) (move f n : Nat) (ok : Bool) (m : Move), s.dev.on = true →
  (s.dev.obj.moves.find? (fun m => m.id == move) = some m) → m.dst = some (2, f, n) → m.writes ≠ 0 →
  m.arrived = false → ok = true →
    exec (.uioWriteComplete move ok) s = .next (s.withDev (writesDone (count s.dev 30 0x2870 (4096 * n)) m f n))) ∧
  (∀ (s : State) (up : Bool), s.dev.on = true →
    exec (.tier2PathChange up) s = .next (s.withChip 
      (withPath s.chip fun d => d.onObj fun x => { x with pathUp := up }))) ∧
  ∀ (s : State) (up : Bool), s.dev.on = true → s.dev.cxlUp = false →
    exec (.tier2PathChange up) s = .next (s.withDev ({ s.dev with obj := { s.dev.obj with pathUp := up } }))

/-- The CXL mailbox, SPDM, MCTP and PLDM (R391, R498, R500, R501, R502, R503). (1) MAILBOX_COMMAND Identify Memory
Device answers 12,288 units of 256 MiB and changes nothing else. (2) Every other opcode than the seven is answered
Unsupported and nothing else changes. (3) GET_VERSION resets the transport's state and answers version 1.2. (4)
GET_CAPABILITIES after GET_VERSION answers the node's capabilities. (5) NEGOTIATE_ALGORITHMS that offers ECDSA
P-256, SHA-256 and DMTF measurements selects them. (6) GET_DIGESTS after the negotiation answers the digest of slot
0's chain. (7) GET_CERTIFICATE of slot 0 answers the portion of the chain. (8) CHALLENGE of slot 0 answers the
digest of the chain, the responder's nonce and a signature. (9) GET_MEASUREMENTS of a block without a signature
answers the block as it is now. (10) SPDM_UNSUPPORTED answers ERROR UnsupportedRequest and changes nothing else.
(11) I3C_ENTDAA gives the target its dynamic address and changes nothing else. (12) MCTP_SET_ENDPOINT_ID after the
address sets the endpoint and changes nothing else. (13) PLDM_SET_EVENT_RECEIVER sets the receiver and changes
nothing else. (14) PLDM_SENSOR_UPDATE records the reading of sensors 1 to 9 and its level. (15) PLDM_REQUEST_UPDATE
with no update and no mailbox command running starts the download into the slot that is not running, and that slot
is empty. (16) PLDM_FIRMWARE_DATA within the slot's 12 MiB takes the bytes at their offset; the slot holds what has
come with its first 512 bytes still blank. (17) PLDM_VERIFY_COMPLETE outside recovery writes the header, marks a
valid image VERIFIED and ends the update of any other. (18) PLDM_ACTIVATE_FIRMWARE of a verified image has the
effect of FW_ACTIVATE and ends the update. -/
def Obligations.SidebandCommands : Prop :=
  (∀ (s : State) (opcode : Nat) (payload : Bytes), s.dev.on = true → s.dev.bar = true → opcode = 0x4000 →
    exec (.mailboxCommand opcode payload) s = .next (s.withDev 
      ({ s.dev with hif := { s.dev.hif with pin := some (.mailbox 0 (toLe 8 12288)) } }))) ∧
  (∀ (s : State) (opcode : Nat) (payload : Bytes), s.dev.on = true → s.dev.bar = true →
  [0x4000, 0x0400, 0x0401, 0x0100, 0x0101, 0x0102, 0x0103].contains opcode = false →
    exec (.mailboxCommand opcode payload) s = .next (s.withDev 
      ({ s.dev with hif := { s.dev.hif with pin := some (.mailbox 3 []) } }))) ∧
  (∀ (s : State) (mctp : Bool), s.dev.on = true → s.dev.spdmUp mctp = true →
    exec (.spdmGetVersion mctp) s = .next (s.withDev 
      (spdmAnswer (s.dev.onSpdm mctp fun _ => { version := true }) mctp 0x84 [] 0x04 (toLe 2 0x1200)))) ∧
  (∀ (s : State) (mctp : Bool), s.dev.on = true → s.dev.spdmUp mctp = true → (s.dev.spdm mctp).version = true →
    exec (.spdmGetCapabilities mctp) s = .next (s.withDev 
      (spdmAnswer (s.dev.onSpdm mctp fun x => { x with capabilities := true }) mctp 0xE1 [] 0x61 (toLe 4 0x36)))) ∧
  (∀ (s : State) (asym hash meas : Nat) (mctp : Bool), s.dev.on = true → s.dev.spdmUp mctp = true →
  (s.dev.spdm mctp).capabilities = true → bitOf asym 4 = true → bitOf hash 0 = true → bitOf meas 0 = true →
    exec (.spdmNegotiateAlgorithms mctp asym hash meas) s = .next (s.withDev 
      (spdmAnswer (s.dev.onSpdm mctp fun x => { x with algorithms := true }) mctp 0xE3 (toLe 4 asym ++ toLe 4 hash ++ toLe 1 meas) 0x63 (toLe 4 0x10 ++ toLe 4 0x01 ++ toLe 1 0x01)))) ∧
  (∀ (s : State) (mctp : Bool), s.dev.on = true → s.dev.spdmUp mctp = true → (s.dev.spdm mctp).algorithms = true →
    exec (.spdmGetDigests mctp) s = .next (s.withDev 
      (spdmAnswer s.dev mctp 0x81 [] 0x01 (toLe 1 1 ++ sha256 (certChain s.nv s.dev))))) ∧
  (∀ (s : State) (slot offset length : Nat) (mctp : Bool), s.dev.on = true → s.dev.spdmUp mctp = true →
  (s.dev.spdm mctp).algorithms = true → slot = 0 → offset ≤ (certChain s.nv s.dev).length →
    exec (.spdmGetCertificate mctp slot offset length) s = .next (s.withDev 
      (spdmAnswer s.dev mctp 0x82 (toLe 1 slot ++ toLe 2 offset ++ toLe 2 length) 0x02 (cut (certChain s.nv s.dev) offset length)))) ∧
  (∀ (s : State) (slot : Nat) (mctp : Bool) (nonce : Bytes), s.dev.on = true → s.dev.spdmUp mctp = true →
  (s.dev.spdm mctp).algorithms = true → slot = 0 →
    Answers (exec (.spdmChallenge mctp slot nonce) s) fun t =>
      (t.dev.spdm mctp).response.1 = 0x03 ∧
      (∃ sig, (t.dev.spdm mctp).response.2 = sha256 (certChain s.nv s.dev) ++ padTo 32 (Config.spdmNonce s.dev.draws) ++ sig) ∧
      t.mem = s.mem ∧ t.nv = s.nv ∧ t.pending = s.pending) ∧
  (∀ (s : State) (index : Nat) (mctp signed : Bool) (nonce : Bytes), s.dev.on = true → s.dev.spdmUp mctp = true →
  (s.dev.spdm mctp).algorithms = true → 1 ≤ index → index ≤ 4 → signed = false →
    exec (.spdmGetMeasurements mctp index signed nonce) s = .next (s.withDev 
      (spdmAnswer s.dev mctp 0xE0 (toLe 1 index ++ toLe 1 0 ++ nonce) 0x60 (measurement s.dev index)))) ∧
  (∀ (s : State) (code : Nat) (mctp : Bool), s.dev.on = true → s.dev.spdmUp mctp = true →
  [0x81, 0x82, 0x83, 0x84, 0xE0, 0xE1, 0xE3].contains code = false →
    exec (.spdmUnsupported mctp code) s = .next (s.withDev 
      (s.dev.onSpdm mctp fun x => { x with response := (0x7F, toLe 1 7) }))) ∧
  (∀ (s : State) (addr : Nat), s.dev.on = true → s.dev.sideband = true → addr < 128 →
    exec (.i3cEntdaa addr) s = .next (s.withDev ({ s.dev with sec := { s.dev.sec with i3c := some addr } }))) ∧
  (∀ (s : State) (eid : Nat), s.dev.on = true → s.dev.sideband = true → s.dev.sec.i3c.isSome = true →
    exec (.mctpSetEndpointId eid) s = .next (s.withDev ({ s.dev with sec := { s.dev.sec with eid := some eid } }))) ∧
  (∀ (s : State) (eid : Nat), s.dev.on = true → s.dev.firmware = true → s.dev.sec.eid.isSome = true →
    exec (.pldmSetEventReceiver eid) s = .next (s.withDev 
      ({ s.dev with sec := { s.dev.sec with receiver := some eid } }))) ∧
  (∀ (s : State) (sensor value : Nat), s.dev.on = true → s.dev.firmware = true → 1 ≤ sensor → sensor ≤ 9 →
    Answers (exec (.pldmSensorUpdate sensor value) s) fun t =>
      t.dev.sec.sensor = tput 0 s.dev.sec.sensor sensor (sensorReading s.dev sensor value) ∧
      t.dev.sec.sensorState = tput 0 s.dev.sec.sensorState sensor (sensorLevel s.dev sensor (sensorReading s.dev sensor value)) ∧
      t.dev.power = s.dev.power ∧ t.mem = s.mem ∧ t.nv = s.nv ∧ t.pending = s.pending) ∧
  (∀ (s : State), s.dev.on = true → s.dev.sideband = true → s.dev.sec.eid.isSome = true → s.dev.sec.busy = false →
  s.dev.sec.update = .idle →
    exec .pldmRequestUpdate s = .next (s.withRoot 
      (⟨imagePut s.nv (idleSlot s.dev) [], { s.dev with sec := { s.dev.sec with update := .download, pldmBuf := [], staged := false, pldmResponse := 0 } }⟩))) ∧
  (∀ (s : State) (offset : Nat) (data : Bytes), s.dev.on = true → s.dev.sec.update = .download →
  offset + data.length ≤ 12582912 →
    exec (.pldmFirmwareData offset data) s = .next (s.withRoot 
      (⟨imagePut s.nv (idleSlot s.dev) (zeros (min 512 (setAt (padTo (max s.dev.sec.pldmBuf.length offset) s.dev.sec.pldmBuf) offset data).length) ++ (setAt (padTo (max s.dev.sec.pldmBuf.length offset) s.dev.sec.pldmBuf) offset data).drop 512), { s.dev with sec := { s.dev.sec with pldmBuf := (setAt (padTo (max s.dev.sec.pldmBuf.length offset) s.dev.sec.pldmBuf) offset data) } }⟩))) ∧
  (∀ (s : State), s.dev.on = true → s.dev.sec.update = .download → s.dev.boot.mode ≠ .recovery →
    exec .pldmVerifyComplete s = .next (s.withRoot 
      (⟨imagePut s.nv (idleSlot s.dev) s.dev.sec.pldmBuf, s.dev.onSec fun x => { x with update := if (imageFault (imagePut s.nv (idleSlot s.dev) s.dev.sec.pldmBuf) s.dev.sec.pldmBuf).isNone then .verified else .idle, staged := (imageFault (imagePut s.nv (idleSlot s.dev) s.dev.sec.pldmBuf) s.dev.sec.pldmBuf).isNone, pldmBuf := [], pldmResponse := if (imageFault (imagePut s.nv (idleSlot s.dev) s.dev.sec.pldmBuf) s.dev.sec.pldmBuf).isNone then 0 else 1 }⟩))) ∧
  ∀ (s : State), s.dev.on = true → s.dev.firmware = true → s.dev.sec.update = .verified →
    exec .pldmActivateFirmware s = .next (s.withRoot 
      ((activateOp ⟨s.nv, s.dev⟩).onDev fun d => d.onSec fun x => { x with update := .idle, pldmResponse := x.status }))

/-- The firmware commands of the SEC_MBOX registers (R489, R504, R505, R506). (1) FW_STAGE erases the slot that is not
running, sets BUSY and reads the image from host memory. (2) In recovery it does so for slot 0. (3) FW_STAGE during
a PLDM update ends with BUSY and does nothing else. (4) FW_ACTIVATE with a valid image in the slot that is not
running writes PREFERRED with TRY and ends with OK; otherwise it changes no flash and ends with FIELD_INVALID. (5)
During a PLDM update it ends with BUSY. (6) SVN_COMMIT of the preferred firmware raises the fused SVN to the running
one and ends with OK. (7) SVN_COMMIT of a fallback image blows no fuse and ends with FIELD_INVALID. (8) RESTART of a
drained node resets the module. (9) RESTART of a node that is not drained ends with BUSY and does nothing else. -/
def Obligations.MailboxCommands : Prop :=
  (∀ (s : State) (length : Nat), s.dev.on = true → s.dev.mbox = true → s.dev.firmware = true →
  s.dev.sec.update = .idle →
    exec (.fwStage length) s = .next (s.withRoot 
      (⟨imagePut s.nv (idleSlot s.dev) [], (ioRead s.dev 7 .stage s.dev.sec.addr length).onSec fun x => { x with busy := true, status := 0, detail := 0, stageLen := length, stageBuf := [], staged := false }⟩))) ∧
  (∀ (s : State) (length : Nat), s.dev.on = true → s.dev.mbox = true → s.dev.boot.mode = .recovery →
  s.dev.sec.update = .idle →
    exec (.fwStage length) s = .next (s.withRoot 
      (⟨imagePut s.nv 0 [], (ioRead s.dev 7 .stage s.dev.sec.addr length).onSec fun x => { x with busy := true, status := 0, detail := 0, stageLen := length, stageBuf := [], staged := false }⟩))) ∧
  (∀ (s : State) (length : Nat), s.dev.on = true → s.dev.mbox = true → s.dev.firmware = true →
  s.dev.sec.update ≠ .idle →
    exec (.fwStage length) s = .next (s.withDev (mboxEnd s.dev 0x40 0))) ∧
  (∀ (s : State), s.dev.on = true → s.dev.mbox = true → s.dev.firmware = true → s.dev.sec.update = .idle →
    exec .fwActivate s = .next (s.withRoot 
      (⟨if imageValid s.nv (idleSlot s.dev) = true then bootWrite s.nv (idleSlot s.dev) 1 else s.nv, mboxEnd s.dev (if imageValid s.nv (idleSlot s.dev) = true then 0 else 0x11) 0⟩))) ∧
  (∀ (s : State), s.dev.on = true → s.dev.mbox = true → s.dev.firmware = true → s.dev.sec.update ≠ .idle →
    exec .fwActivate s = .next (s.withDev (mboxEnd s.dev 0x40 0))) ∧
  (∀ (s : State), s.dev.on = true → s.dev.mbox = true → s.dev.firmware = true → s.dev.boot.mode = .firmware →
    exec .svnCommit s = .next (s.withRoot 
      (⟨{ s.nv with fusedSvn := max s.nv.fusedSvn s.dev.boot.svn }, mboxEnd s.dev 0 0⟩))) ∧
  (∀ (s : State), s.dev.on = true → s.dev.mbox = true → s.dev.firmware = true → s.dev.boot.mode = .fallback →
    exec .svnCommit s = .next (s.withDev (mboxEnd s.dev 0x11 0))) ∧
  (∀ (s : State), s.dev.on = true → s.dev.mbox = true → s.dev.firmware = true → s.dev.mbr.drain.step = 6 →
    exec .restart s = .next (s.moduleReset)) ∧
  ∀ (s : State), s.dev.on = true → s.dev.mbox = true → s.dev.firmware = true → s.dev.mbr.drain.step ≠ 6 →
    exec .restart s = .next (s.withDev (mboxEnd s.dev 0x40 0))

/-- Rings, doorbells, fetches, completions and events (R399, R402, R404, R405, R407, R408, R410, R411, R413, R414,
R446). (1) RING_ENABLE of a disabled ring with a valid setup starts it with zero indices and reads its doorbell
line. (2) RING_DISABLE takes an enabled ring to STOPPING and an idle one in ERROR to DISABLED, and changes nothing
but the ring. (3) RING_DRAINED of a STOPPING ring with no command of its own outstanding disables it and changes
nothing else. (4) HIF_IRQ with a COUNT of 1 to 256 sets the ring's moderation, and the ring is signalled if it is
now due. (5) DOORBELL_SNOOP of a held line of an enabled ring is answered RspIHitSE; the line is given up and read
again. (6) DOORBELL_READ of a valid record of a ring pair accepts TAIL, unless it lies behind the one held, and
CONSUMED, and holds the line. (7) DESCRIPTOR_FETCH serves the next ring in round-robin order that has work and room:
it reads as many descriptors as fit, and the turn passes on. (8) COMMAND_START of a command that passes its checks
and reads no buffer makes it ready to act, with the tick of its start. (9) COMMAND_START of a command that fails a
check ends it with the first failing check's status and offset. (10) COMPLETION_WRITE of a command with an outcome
posts its result data, then its completion entry, then the signal the ring's moderation asks for; the command is
gone. (11) Of a disabled ring, or of a command that a host reset cut off from its ring, no completion is written:
the command is gone and nothing else changes. (12) INTERRUPT_DELAY_EXPIRY of a ring with an unsignalled entry as old
as its delay sends the ring's vector. (13) EVENT_RECORD_WRITE with room in the event ring and nothing lost writes
the oldest record. (14) Without room the oldest record is counted as lost, its sequence number is used up, and
nothing else changes. (15) With room and records lost, a record of the number lost is written first and the count
starts again. (16) COUNTED_EVENT_FLUSH of a counted code with occurrences held back for 100,000 ticks queues one
record of them, counts anew and changes nothing else. -/
def Obligations.RingCommands : Prop :=
  (∀ (s : State) (ring : Nat), s.dev.on = true → s.dev.bar = true → ring ≤ 64 → s.dev.boot.mode ≠ .recovery →
  (s.dev.ring ring).state = .disabled → ringValid s.dev ring = true →
    exec (.ringEnable ring) s = .next (s.withDev 
      (doorbellReadIssue (s.dev.onRing ring fun r => { r with enable := true, state := .enabled, head := 0, tail := 0, prod := 0, cons := 0, stopped := false, unsignalled := 0, firstAt := 0, lineHeld := false }) ring))) ∧
  (∀ (s : State) (ring : Nat), s.dev.on = true → s.dev.bar = true → ring ≤ 64 → s.dev.boot.mode ≠ .recovery →
    exec (.ringDisable ring) s = .next (s.withDev 
      (s.dev.onRing ring fun r => match r.state with | .enabled => { r with enable := false, state := .stopping, lineHeld := false } | .error => (if ringIdle r then { r with enable := false, state := .disabled, lineHeld := false } else { r with enable := false }) | _ => { r with enable := false }))) ∧
  (∀ (s : State) (ring : Nat), s.dev.on = true → ring ≤ 64 → (s.dev.ring ring).state = .stopping →
  ringIdle (s.dev.ring ring) = true →
    exec (.ringDrained ring) s = .next (s.withDev (s.dev.onRing ring fun r => { r with state := .disabled }))) ∧
  (∀ (s : State) (ring : Nat) (value : BitVec 64), s.dev.on = true → s.dev.bar = true → ring ≤ 64 →
  s.dev.boot.mode ≠ .recovery → 1 ≤ bitsOf value.toNat 32 9 → bitsOf value.toNat 32 9 ≤ 256 →
    exec (.hifIrqWrite ring value) s = .next (s.withDev 
      (ringSignal (s.dev.onRing ring fun r => { r with irqCount := bitsOf value.toNat 32 9, irqDelay := bitsOf value.toNat 48 16, irqVector := bitsOf value.toNat 0 8 }) ring false))) ∧
  (∀ (s : State) (ring : Nat), s.dev.on = true → s.dev.cxlUp = true → (s.dev.ring ring).lineHeld = true →
  (s.dev.ring ring).state = .enabled →
    Answers (exec (.doorbellSnoop ring) s) fun t =>
      SameRest s t ∧ t.dev.hif.pin = some (.rspIHitSE (s.dev.ring ring).dbAddr) ∧ (t.dev.ring ring).lineHeld = false ∧
      (t.dev.ring ring).reread = true) ∧
  (∀ (s : State) (ring : Nat) (record : Bytes), s.dev.on = true → s.dev.cxlUp = true →
  (s.dev.ring ring).reread = true → (s.dev.ring ring).state = .enabled → ring < 64 →
  pairDoorbellError { s.dev.ring ring with reread := false } (padTo 64 record) = false →
    Answers (exec (.doorbellRead ring record) s) fun t =>
      (t.dev.ring ring).tail = (if dist32 (fld (padTo 64 record) 0 4) (s.dev.ring ring).head < dist32 (s.dev.ring ring).tail (s.dev.ring ring).head then (s.dev.ring ring).tail else fld (padTo 64 record) 0 4) ∧
      (t.dev.ring ring).cons = fld (padTo 64 record) 4 4 ∧ (t.dev.ring ring).lineHeld = true ∧
      (t.dev.ring ring).reread = false ∧ SameRest s t) ∧
  (∀ (s : State) (n : Nat), s.dev.on = true → s.dev.hostUp = true →
  ((((List.range 64).map fun k => (s.dev.hif.rr + k) % 64).find? fun n => decide (0 < fetchable (s.dev.ring n) (nodeCmds s.dev))) = some n) →
    exec .descriptorFetch s = .next (s.withDev 
      ((((List.range (fetchable (s.dev.ring n) (nodeCmds s.dev))).map fun k => m32 ((s.dev.ring n).head + fetchingCount (s.dev.ring n) + k)).foldl (fetchOne n) s.dev).onHif fun h => { h with rr := (n + 1) % 64 }))) ∧
  (∀ (s : State) (ring : Nat) (c : Cmd), s.dev.on = true → ring < 64 → s.dev.hostUp = true →
  nextStart (s.dev.ring ring).fetched = some c → s.dev.cmd ring c.index = some c →
  firstFail (startChecks s.dev c.desc) = none → readBuffer c.desc = none →
    Answers (exec (.commandStart ring) s) fun t =>
      t.dev.cmd ring c.index = some { c with phase := .ready, startedAt := s.dev.now } ∧ SameRest s t) ∧
  (∀ (s : State) (ring st off : Nat) (c : Cmd), s.dev.on = true → ring < 64 → s.dev.hostUp = true →
  nextStart (s.dev.ring ring).fetched = some c → s.dev.cmd ring c.index = some c →
  firstFail (startChecks s.dev c.desc) = some (st, off) →
    Answers (exec (.commandStart ring) s) fun t =>
      t.dev.cmd ring c.index = some { c with phase := .done, status := st, failOffset := off, result := 0 } ∧
      SameRest s t) ∧
  (∀ (s : State) (ring index : Nat) (c : Cmd), s.dev.on = true → s.dev.cmd ring index = some c → c.phase = .done →
  (s.dev.ring ring).state ≠ .disabled → index / 4294967296 = (s.dev.ring ring).era → s.dev.hostUp = true →
    exec (.completionWrite ring index) s = .next (s.withDev (
      let gone := s.dev.onRing ring fun r => { r with cmds := dropWhere (fun x => x.index == index) r.cmds }
      let r := s.dev.ring ring
      let n := ringEntries r.cplBase
      ringSignal (ringWrote (hostPut (postData (count gone 30 0x2810 1) 2 c.data) 2 (.write (ringAddr r.cplBase + 32 * (r.prod % n)) (completionBytes c r.head (phaseBit r.prod n)))) ring) ring (bitOf (fld c.desc 1 1) 1)))) ∧
  (∀ (s : State) (ring index : Nat) (c : Cmd), s.dev.on = true → s.dev.cmd ring index = some c → c.phase = .done →
  ((s.dev.ring ring).state = .disabled ∨ index / 4294967296 ≠ (s.dev.ring ring).era) →
    exec (.completionWrite ring index) s = .next (s.withDev 
      (s.dev.onRing ring fun r => { r with cmds := dropWhere (fun x => x.index == index) r.cmds }))) ∧
  (∀ (s : State) (ring : Nat), s.dev.on = true → 0 < (s.dev.ring ring).unsignalled →
  s.dev.due (s.dev.ring ring).firstAt (s.dev.ring ring).irqDelay = true →
    exec (.interruptDelayExpiry ring) s = .next (s.withDev 
      ((msiSend s.dev (s.dev.ring ring).irqVector).onRing ring fun r => { r with unsignalled := 0 }))) ∧
  (∀ (s : State) (e : Event) (q : List Event), s.dev.on = true → evtRoom s.dev = true → s.dev.evt.lost = 0 →
  s.dev.evt.queue = e :: q →
    exec .eventRecordWrite s = .next (s.withDev (evtWrite (s.dev.onEvt fun v => { v with queue := q }) e))) ∧
  (∀ (s : State) (e : Event) (q : List Event), s.dev.on = true → evtRoom s.dev = false → s.dev.evt.queue = e :: q →
    exec .eventRecordWrite s = .next (s.withDev 
      ({ s.dev with evt := { s.dev.evt with queue := q, lost := s.dev.evt.lost + 1, seq := m32 (s.dev.evt.seq + 1) } }))) ∧
  (∀ (s : State), s.dev.on = true → evtRoom s.dev = true → 0 < s.dev.evt.lost →
    exec .eventRecordWrite s = .next (s.withDev 
      (evtWrite (s.dev.onEvt fun v => { v with lost := 0 }) { code := 0x0103, die := 30, seq := 0, tick := s.dev.now, count := 1, tenant := 0, status := 0, eflags := 0, data := toLe 4 s.dev.evt.lost }))) ∧
  ∀ (s : State) (code die at_ : Nat), s.dev.on = true →
  (tget ({} : Counted) s.dev.evt.counted (countedKey code die)).last = some at_ → s.dev.due at_ 100000 = true →
  0 < (tget ({} : Counted) s.dev.evt.counted (countedKey code die)).count →
    exec (.countedEventFlush code die) s = .next (s.withDev 
      ({ s.dev with evt := { s.dev.evt with queue := s.dev.evt.queue ++ [{ code := code, die := die, seq := 0, tick := s.dev.now, count := (tget ({} : Counted) s.dev.evt.counted (countedKey code die)).count, tenant := (tget ({} : Counted) s.dev.evt.counted (countedKey code die)).tenant, status := (tget ({} : Counted) s.dev.evt.counted (countedKey code die)).status, eflags := (tget ({} : Counted) s.dev.evt.counted (countedKey code die)).eflags, data := (tget ({} : Counted) s.dev.evt.counted (countedKey code die)).data }], counted := tput {} s.dev.evt.counted (countedKey code die) { last := some s.dev.now } } }))

/-- Granules, extents, compositions, routes, scheduling and the associative match (R183, R229, R238, R251, R378, R379,
R424, R425, R429). (1) GRANULE_CONFIG that passes its checks starts the change of the granules that are not yet of
the kind asked for. (2) GRANULE_KIND_CHANGE_DONE of a granule that its ROW_FILL operations have zeroed gives it its
new kind and goes on to the next one of the change. (3) A granule that becomes ordinary is zeroed as it takes its
new kind. (4) While the host holds a line of the granule, or a write to it waits, the granule keeps its kind and the
lines are invalidated. (5) TIER2_EXTENTS whose list is valid and brings no new extent takes effect at once, with
what follows where the path to tier 2 appears or goes. (6) COMPOSITION_BIND of an unbound index takes effect at
once. (7) On a bound index a restart begins. (8) COMPOSITION_RESTART_DONE with no request of the composition running
releases its slots and puts the new binding in force. (9) COMPOSITION_FENCE adds the requester to the composition's
fences and ends its running requests with EPOCH_STALE. (10) ROUTE_TABLE with valid entries writes them to the table
it names and not to the other. (11) SCHED_CONFIG of the service weights of a port writes the five weights. (12)
MASK_PROFILE of a profile 1 to 63 writes the mask and assigns the profile to the links it names. (13) TABLE_EDIT
applies its records in order from the first. (14) HOLE_REPAIR of a run of the prefix partition that has no hole left
carries a hole into it. (15) PREFIX_LOOKUP looks its keys up in order from the first. (16) PREFIX_COPY_SCAN answers
a key that has waited since the scan began, and its command goes on with the next. -/
def Obligations.ConfigurationCommands : Prop :=
  (∀ (s : State) (ring index : Nat) (c : Cmd), s.dev.on = true → s.dev.cmdReady ring index 0x01 = some c →
  firstFail (granuleChecks s.dev c) = none → tfind s.dev.lp.changing (fld c.desc 0x10 1) = none →
  ((grans c).filter (fun g => isBankOp s.dev (fld c.desc 0x10 1 * 48 + g) != (fld c.desc 0x13 1 == 1)) ≠ []) →
    Answers (exec (.granuleConfig ring index) s) fun t =>
      RunsOn t ring index c ∧
      t.dev.lp.changing = tins s.dev.lp.changing (fld c.desc 0x10 1) { ring := ring, index := index, toBankOp := fld c.desc 0x13 1 == 1, todo := (grans c).filter fun g => isBankOp s.dev (fld c.desc 0x10 1 * 48 + g) != (fld c.desc 0x13 1 == 1), named := fld c.desc 0x12 1 } ∧
      SameRest s t) ∧
  (∀ (s : State) (slice g : Nat) (rest : List Nat) (ch : GranuleChange), s.dev.on = true → slice < 64 →
  s.dev.ready (dieOfSlice slice) = true → tfind s.dev.lp.changing slice = some ch → ch.todo = g :: rest → rest ≠ [] →
  ch.toBankOp = true → ch.filled = true → rangeSettled s.dev ((slice * 48 + g) * gib) gib = true →
    exec (.granuleKindChangeDone slice) s = .next (s.withDev 
      (granuleFill (s.dev.onLp fun l => { l with bankOp := tput false l.bankOp (slice * 48 + g) ch.toBankOp, changing := tins l.changing slice { ch with todo := rest, filled := false } }) slice))) ∧
  (∀ (s : State) (slice g : Nat) (rest : List Nat) (ch : GranuleChange), s.dev.on = true → slice < 64 →
  s.dev.ready (dieOfSlice slice) = true → tfind s.dev.lp.changing slice = some ch → ch.todo = g :: rest → rest ≠ [] →
  ch.toBankOp = false → rangeSettled s.dev ((slice * 48 + g) * gib) gib = true →
    exec (.granuleKindChangeDone slice) s = .next (s.withChip 
      ((zeroNow s.chip ((slice * 48 + g) * gib) gib).onDev fun d => d.onLp fun l => { l with bankOp := tput false l.bankOp (slice * 48 + g) ch.toBankOp, changing := tins l.changing slice { ch with todo := rest, filled := false } }))) ∧
  (∀ (s : State) (slice g : Nat) (rest : List Nat) (ch : GranuleChange), s.dev.on = true → slice < 64 →
  s.dev.ready (dieOfSlice slice) = true → tfind s.dev.lp.changing slice = some ch → ch.todo = g :: rest → rest ≠ [] →
  ch.toBankOp = false → rangeSettled s.dev ((slice * 48 + g) * gib) gib = false →
    exec (.granuleKindChangeDone slice) s = .next (s.withDev 
      ((filteredLines s.dev ((slice * 48 + g) * gib) gib).foldl sendBisnp s.dev))) ∧
  (∀ (s : State) (ring index : Nat) (c : Cmd), s.dev.on = true → s.dev.cmdReady ring index 0x02 = some c →
  fld c.desc 0x10 1 ≤ 64 → ((List.range (extentList c).length).find? (fun i => !(extentOk c.buf i)) = none) →
  (((extentList c).map (fun e => e.2)).sum ≤ 262144 * gib) →
  ((List.range s.dev.obj.extents.length).find? (fun i => extentHeld s.dev i && !(extentKept s.dev (extentList c) i)) = none) →
  ((List.range (extentList c).length).filter (fun i => !(extentKept s.dev (extentList c) i)) = []) →
  uioRoom s.dev 0 = true →
    exec (.tier2Extents ring index) s = .next (s.withChip 
      (withPath s.chip fun d => extentsDone (cmdRuns d ring index) ring index c))) ∧
  (∀ (s : State) (ring index : Nat) (c : Cmd), s.dev.on = true → s.dev.cmdReady ring index 0x03 = some c →
  firstFail (bindChecks s.dev c) = none → (comp s.dev (fld c.desc 0x10 1)).slices = [] →
    exec (.compositionBind ring index) s = .next (s.withDev 
      (bindApply s.dev ring index c (bitIdx 64 (fld c.desc 0x18 8)) false))) ∧
  (∀ (s : State) (ring index : Nat) (c : Cmd), s.dev.on = true → s.dev.cmdReady ring index 0x03 = some c →
  firstFail (bindChecks s.dev c) = none → (comp s.dev (fld c.desc 0x10 1)).slices ≠ [] →
    Answers (exec (.compositionBind ring index) s) fun t =>
      RunsOn t ring index c ∧
      t.dev.mbr.compositions = tmod {} s.dev.mbr.compositions (fld c.desc 0x10 1) (fun k => { k with restarting := some (bitIdx 64 (fld c.desc 0x18 8), c.desc, ring, index) }) ∧
      SameRest s t) ∧
  (∀ (s : State) (comp_ ring index : Nat) (l : List Nat) (desc : Bytes) (c : Cmd), s.dev.on = true →
  (comp s.dev comp_).restarting = some (l, desc, ring, index) → s.dev.firmware = true →
  ((s.dev.attn.requests.any fun q => q.2.composition == comp_) = false) → s.dev.cmd ring index = some c →
  c.desc = desc →
  (firstFail (bindState (dropSlots (s.dev.onMbr fun m => { m with compositions := tmod {} m.compositions comp_ fun k => { k with restarting := none } }) fun x => x.composition == comp_) c) = none) →
    exec (.compositionRestartDone comp_) s = .next (s.withDev 
      (bindApply (dropSlots (s.dev.onMbr fun m => { m with compositions := tmod {} m.compositions comp_ fun k => { k with restarting := none } }) fun x => x.composition == comp_) ring index c l true))) ∧
  (∀ (s : State) (ring index : Nat) (c : Cmd), s.dev.on = true → s.dev.cmdReady ring index 0x04 = some c →
  fld c.desc 0x10 1 < 64 → (comp s.dev (fld c.desc 0x10 1)).slices ≠ [] →
  (comp s.dev (fld c.desc 0x10 1)).tenant = fld c.desc 8 2 →
    exec (.compositionFence ring index) s = .next (s.withDev 
      (cmdDone (requestsEnd (s.dev.onMbr fun m => { m with compositions := tmod {} m.compositions (fld c.desc 0x10 1) fun k => { k with fences := k.fences.filter (fun y => y != fld c.desc 0x14 4) ++ [fld c.desc 0x14 4] } }) 0x50 fun i q => q.composition == fld c.desc 0x10 1 && !(s.dev.slot i).local_ && (s.dev.slot i).requester == fld c.desc 0x14 4) ring index 0 0))) ∧
  (∀ (s : State) (ring index : Nat) (c : Cmd), s.dev.on = true → s.dev.cmdReady ring index 0x08 = some c →
  1 ≤ fld c.desc 0x14 2 → fld c.desc 0x14 2 + fld c.desc 0x12 2 ≤ 1024 → fld c.desc 0x10 1 < 2 →
  s.dev.regs.links ≠ 0 →
  ((List.range (fld c.desc 0x14 2)).find? (fun i => bitsOf (fld c.buf (8 * i) 8) 43 15 != 0) = none) →
    Answers (exec (.routeTable ring index) s) fun t =>
      Ended t ring index c 0 0 ∧
      t.dev.fab.group = (if fld c.desc 0x10 1 = 0 then putAll 0 s.dev.fab.group (fld c.desc 0x12 2) ((List.range (fld c.desc 0x14 2)).map fun i => fld c.buf (8 * i) 8) else s.dev.fab.group) ∧
      t.dev.fab.member = (if fld c.desc 0x10 1 = 0 then s.dev.fab.member else putAll 0 s.dev.fab.member (fld c.desc 0x12 2) ((List.range (fld c.desc 0x14 2)).map fun i => fld c.buf (8 * i) 8)) ∧
      SameRest s t) ∧
  (∀ (s : State) (ring index : Nat) (c : Cmd), s.dev.on = true → s.dev.cmdReady ring index 0x09 = some c →
  firstFail (schedChecks c) = none → fld c.desc 0x10 1 = 1 →
  ((List.range (fld c.desc 0x14 2)).find? (fun i => !(serviceOk (cut c.buf (8 * i) 8))) = none) →
    exec (.schedConfig ring index) s = .next (s.withDev 
      (cmdDone (shareCheck (s.dev.onFab fun f => { f with weights := (List.range 5).foldl (fun t i => tput 0 t (fld c.desc 0x11 1 * 8 + 3 + i) (fld c.buf i 1)) f.weights })) ring index 0 0))) ∧
  (∀ (s : State) (ring index : Nat) (c : Cmd), s.dev.on = true → s.dev.cmdReady ring index 0x0A = some c →
  1 ≤ fld c.desc 0x10 1 → fld c.desc 0x10 1 ≤ 63 → s.dev.mat.ready = true →
    Answers (exec (.maskProfile ring index) s) fun t =>
      Ended t ring index c 0 0 ∧
      t.dev.mat.profiles = tput 0 s.dev.mat.profiles (fld c.desc 0x10 1) (fld c.desc 0x14 20) ∧
      t.dev.mat.assigned = (bitIdx 32 (fld c.desc 0x28 4)).foldl (fun t l => tput 0 t l (fld c.desc 0x10 1)) s.dev.mat.assigned ∧
      t.dev.mat.entries = s.dev.mat.entries ∧ SameRest s t) ∧
  (∀ (s : State) (ring index : Nat) (c : Cmd), s.dev.on = true → s.dev.cmdReady ring index 0x0B = some c →
  1 ≤ fld c.desc 0x10 2 → fld c.desc 0x10 2 ≤ 4096 → fld c.desc 0x20 4 = 64 * fld c.desc 0x10 2 →
  s.dev.mat.ready = true → s.dev.mat.edits = [] →
    exec (.tableEdit ring index) s = .next (s.withChip 
      (editRun ring index (fld c.desc 0x10 2) c.buf (fld c.desc 0x10 2 + 1) 0 (s.chip.onDev fun d => d.onMat fun m => { m with edits := [] })))) ∧
  (∀ (s : State) (die partition run : Nat) (runs : List Nat), s.dev.on = true → (die = 28 ∨ die = 29) → partition = 1 →
  tget [] s.dev.mat.repairs ((die - 28) * 2 + 1) = run :: runs →
  (runHoles (dieTab s.dev die) (holeSpacing s.dev) run).isEmpty = true →
    exec (.holeRepair die partition) s = .next (s.withChip 
      (writeEntries (s.chip.onDev fun d => d.onMat fun m => { m with repairs := tmod [] m.repairs ((die - 28) * 2 + 1) fun l => l.drop 1 }) die (repairWrites (dieTab s.dev die) (partRange s.dev 1).1 (partRange s.dev 1).2 (holeSpacing s.dev) run)))) ∧
  (∀ (s : State) (ring index : Nat) (c : Cmd), s.dev.on = true → s.dev.cmdReady ring index 0x0C = some c →
  ((s.dev.mat.lookups.any fun l => l.ring == ring && l.index == index) = false) → 1 ≤ fld c.desc 0x10 2 →
  fld c.desc 0x10 2 ≤ 4096 → fld c.desc 0x20 4 = 16 * fld c.desc 0x10 2 → 16 * fld c.desc 0x10 2 ≤ fld c.desc 0x30 4 →
    exec (.prefixLookup ring index) s = .next (s.withChip 
      (lookupRun ring index c (fld c.desc 0x10 2) none none (lookupFuel (fld c.desc 0x10 2)) 0 0 [] s.chip))) ∧
  ∀ (s : State) (die : Nat) (l : Lookup) (c : Cmd), s.dev.on = true → s.dev.lost die = true →
  s.dev.mat.lookups = [l] → l.scanning = true → l.asks = none → s.dev.cmd l.ring l.index = some c →
  prefixDie (lookupKey c l.next) = die →
    exec (.prefixCopyScan die) s = .next (s.withChip 
      (lookupRun l.ring l.index c (fld c.desc 0x10 2) (some die) none (lookupFuel (fld c.desc 0x10 2)) l.next l.hits l.out (s.chip.onDev fun d => d.onMat fun m => { m with lookups := [] })))

/-- The commands that declare domains, enter, expel and drain (R426, R427, R465, R466). (1) FD_SETUP of a new domain
record, before any link is enabled, declares the witnesses, the budget and the threshold of the domain and sets the
node's own domain, with the health threshold that domain's record holds. (2) FD_SETUP of a new witness set on a LIVE
witness of the current set finds the WITNESS_SET change warranted. (3) MEMBERSHIP ENTER of a node that is not LIVE
and has a domain starts its entry. (4) MEMBERSHIP EXPEL of a LIVE node, on a voting witness of its domain, finds the
EXPEL_FORCED change warranted. (5) ENTER_TIMEOUT 1,000,000,000 ticks after the oldest ENTER ends that command with
DEADLINE_EXPIRED. (6) MANAGED_REMOVAL of a node that may drain starts the drain. (7) DRAIN_STEP_BOUND takes the
drain to its next step where the step is done or its bound has passed. (8) DRAIN_COMPLETE in the last step, once the
node is no longer LIVE, ends the drain. -/
def Obligations.MembershipCommands : Prop :=
  (∀ (s : State) (ring index : Nat) (c : Cmd), s.dev.on = true → s.dev.cmdReady ring index 0x05 = some c →
  fld c.desc 0x10 1 = 0 → fld c.desc 0x12 2 ≠ 0 → fld c.desc 0x16 2 ≤ 1000 → fld c.desc 0x18 1 ≤ 16 →
  witnessesOk s.dev c.desc = true → fld c.desc 0x14 2 ≠ 0 → s.dev.regs.links = 0 →
  (s.dev.domain (fld c.desc 0x12 2)).witnesses = [] →
  ((s.dev.mbr.domains.filter fun p => !p.2.witnesses.isEmpty).length < 64) →
    Answers (exec (.fdSetupDomain ring index) s) fun t =>
      t.dev.mbr.domain = fld c.desc 0x14 2 ∧
      t.dev.mbr.threshold = (if fld c.desc 0x14 2 = fld c.desc 0x12 2 then fld c.desc 0x16 2 else (s.dev.domain (fld c.desc 0x14 2)).threshold) ∧
      (t.dev.domain (fld c.desc 0x12 2)).witnesses = fdWitnesses c.desc ∧
      (t.dev.domain (fld c.desc 0x12 2)).budget = fld c.desc 0x18 1 ∧
      (t.dev.domain (fld c.desc 0x12 2)).threshold = fld c.desc 0x16 2 ∧
      Ended t ring index c 0 (s.dev.domain (fld c.desc 0x12 2)).epoch ∧ SameRest s t) ∧
  (∀ (s : State) (ring index : Nat) (c : Cmd), s.dev.on = true → s.dev.cmdReady ring index 0x05 = some c →
  fld c.desc 0x10 1 = 1 → fld c.desc 0x12 2 ≠ 0 → witnessesOk s.dev c.desc = true →
  (voters s.dev (fld c.desc 0x12 2)).contains s.dev.regs.nodeId = true → frozen s.dev (fld c.desc 0x12 2) = false →
    exec (.fdSetupWitnessSet ring index) s = .next (s.withDev 
      (warrant (s.dev.onCmd ring index fun c => { c with phase := .running }) (fld c.desc 0x12 2) { change := 8, subject := 0, epoch := 0, list := (fdWitnesses c.desc).map fun w => (w.1, 0, w.2) }))) ∧
  (∀ (s : State) (ring index : Nat) (c : Cmd), s.dev.on = true → s.dev.cmdReady ring index 0x06 = some c →
  fld c.desc 0x10 1 = 0 → fld c.desc 0x14 4 = 0 → s.dev.live s.dev.regs.nodeId = false → s.dev.mbr.domain ≠ 0 →
    Answers (exec (.membershipEnter ring index) s) fun t =>
      RunsOn t ring index c ∧
      t.dev.mbr = { s.dev.mbr with entering := s.dev.mbr.entering ++ [(ring, index, s.dev.now)], joinAt := none } ∧
      SameRest s t) ∧
  (∀ (s : State) (ring index : Nat) (c : Cmd) (m : Member), s.dev.on = true → s.dev.cmdReady ring index 0x06 = some c →
  fld c.desc 0x10 1 = 1 → s.dev.member (fld c.desc 0x14 4) = some m → m.live = true →
  (voters s.dev m.domain).contains s.dev.regs.nodeId = true →
    exec (.membershipExpel ring index) s = .next (s.withDev 
      (warrant (s.dev.onCmd ring index fun c => { c with phase := .running }) m.domain { change := 4, subject := fld c.desc 0x14 4, epoch := 0 }))) ∧
  (∀ (s : State) (ring index at_ : Nat) (rest : List (Nat × Nat × Nat)) (c : Cmd), s.dev.on = true →
  s.dev.mbr.entering = (ring, index, at_) :: rest → s.dev.due at_ 1000000000 = true → s.dev.cmd ring index = some c →
    Answers (exec .enterTimeout s) fun t =>
      t.dev.mbr = { s.dev.mbr with entering := rest, joining := s.dev.mbr.joining && !rest.isEmpty } ∧
      t.dev.cmd ring index = some { c with phase := .done, status := 0x42, result := 0, failOffset := failField (fld c.desc 0 1) 0x42 } ∧
      SameRest s t) ∧
  (∀ (s : State) (ring index : Nat) (c : Cmd), s.dev.on = true → s.dev.cmdReady ring index 0x07 = some c →
  mayDrain s.dev = true →
    exec (.managedRemoval ring index) s = .next (s.withDev 
      (drainStart s.chip (s.dev.onCmd ring index fun c => { c with phase := .running }) false (some (ring, index))))) ∧
  (∀ (s : State), s.dev.on = true → s.dev.firmware = true →
    exec .drainStepBound s = .next (s.withChip (drainAdvance s.chip))) ∧
  ∀ (s : State), s.dev.on = true → s.dev.firmware = true → s.dev.mbr.drain.step = 4 →
  s.dev.live s.dev.regs.nodeId = false → s.dev.mbr.drain.command = none →
    Answers (exec .drainComplete s) fun t =>
      t.dev.mbr.drain = { s.dev.mbr.drain with step := 6, command := none } ∧ SameRest s t

/-- The counter commands (R439, R508, R511, R513, R515). (1) CNT_CONFIG of a programmable counter of a die sets its
event, threshold and value, and no other counter. (2) CNT_SNAPSHOT with neither flag starts a capture of every die
out of reset. (3) CNT_FREEZE of counters that are not frozen starts a capture that freezes. (4) CNT_UNFREEZE of
frozen counters starts a capture that lets them count again. (5) SNAPSHOT_CAPTURE of a die of a running snapshot,
with another die still to answer, takes the die's record, clears its DISCONTINUITY flags and changes nothing else.
-/
def Obligations.CounterCommands : Prop :=
  (∀ (s : State) (ring index : Nat) (c : Cmd), s.dev.on = true → s.dev.cmdReady ring index 0x0D = some c →
  firstFail (cntChecks s.dev c) = none → fld c.desc 0x11 1 < 16 →
    Answers (exec (.cntConfig ring index) s) fun t =>
      Ended t ring index c 0 0 ∧
      t.dev.cnt = { s.dev.cnt with c := tmod {} s.dev.cnt.c (fld c.desc 0x10 1 * 64 + fld c.desc 0x11 1) fun k => setCounter k (fld c.desc 0x12 2) (cntThr c) (cntClear c) (fld c.desc 0x18 8) } ∧
      SameRest s t) ∧
  (∀ (s : State) (ring index : Nat) (c : Cmd), s.dev.on = true → s.dev.cmdReady ring index 0x0E = some c →
  fld c.desc 0x14 4 = 0 → s.dev.cnt.snap = none →
    Answers (exec (.cntSnapshot ring index) s) fun t =>
      RunsOn t ring index c ∧
      t.dev.cnt.snap = some { ring := ring, index := index, mode := 0, target := s.dev.now + 100, mask := ofBits ((List.range 32).filter (outOfReset s.dev)) } ∧
      t.dev.cnt.c = s.dev.cnt.c ∧ SameRest s t) ∧
  (∀ (s : State) (ring index : Nat) (c : Cmd), s.dev.on = true → s.dev.cmdReady ring index 0x0E = some c →
  fld c.desc 0x14 4 = 1 → s.dev.cnt.snap = none → s.dev.cnt.frozen = false →
    Answers (exec (.cntFreeze ring index) s) fun t =>
      RunsOn t ring index c ∧
      t.dev.cnt.snap = some { ring := ring, index := index, mode := 1, target := s.dev.now + 100, mask := ofBits ((List.range 32).filter (outOfReset s.dev)) } ∧
      t.dev.cnt.c = s.dev.cnt.c ∧ SameRest s t) ∧
  (∀ (s : State) (ring index : Nat) (c : Cmd), s.dev.on = true → s.dev.cmdReady ring index 0x0E = some c →
  fld c.desc 0x14 4 = 2 → s.dev.cnt.snap = none → s.dev.cnt.frozen = true →
    Answers (exec (.cntUnfreeze ring index) s) fun t =>
      RunsOn t ring index c ∧
      t.dev.cnt.snap = some { ring := ring, index := index, mode := 2, target := s.dev.now + 100, mask := ofBits ((List.range 32).filter (outOfReset s.dev)) } ∧
      t.dev.cnt.c = s.dev.cnt.c ∧ SameRest s t) ∧
  ∀ (s : State) (die : Nat) (p : Snapshot), s.dev.on = true → s.dev.cnt.snap = some p → p.target ≤ s.dev.now →
  bitOf p.mask die = true → die < 31 → tfind p.got die = none →
  (((bitIdx 32 p.mask).all fun n => (tfind (tins p.got die (dieRecord s.dev p.target die ++ [])) n).isSome) = false) →
    exec (.snapshotCapture die) s = .next (s.withDev 
      ({ s.dev with cnt := { s.dev.cnt with c := s.dev.cnt.c.map (fun q => if q.1 / 64 = die then (q.1, { q.2 with disc := false }) else q), snap := some { p with got := tins p.got die (dieRecord s.dev p.target die ++ []) } } }))

/-- Object records, forks, placement, seals and shadow reads (R56, R61, R225, R372, R374, R375, R430, R431, R432,
R433, R434). (1) OBJ_CREATE of a record that passes its checks makes this node its home, with the tail at the open
shard's primary, and announces every shard as a record change. (2) OBJ_RECORD at the home, with no other change
running, a record that passes the checks and no shard closed, applies the record. (3) RECORD_NODE_TIMEOUT
100,000,000 ticks after a record change was sent treats the silent node as withdrawn with DEADLINE_EXPIRED and
settles the change. (4) OBJ_DELETE of an object the node holds or is home of drops its pages, its record and its
shadow reads, and answers how many runs were released. (5) OBJ_DELETE of an object the node neither holds nor is
home of ends with NO_SUCH_OBJECT and changes nothing else. (6) OBJ_FORK of two objects held, with at most 16,777,216
tokens, is the fork of those objects. (7) FORK_PAGE_READY looks at a waiting fork again, or reads what a copying
fork still needs of tier 2. (8) PLACE of an object held, with a policy 0 to 3 and a prefetch depth up to 16, places
the object and completes. (9) SEAL_FLUSH of an object with no full page that is not sealed completes at once and
changes nothing else. (10) SEAL_FLUSH of an object with full pages that are not sealed waits for them, and counts
them in its result. (11) Once each of them is sealed or gone, the command completes with their number. (12)
SHADOW_START that passes its checks names the shadow in the shard's record, with the defaults 16 and 10,000 for zero
fields, and announces the record change. -/
def Obligations.ObjectCommands : Prop :=
  (∀ (s : State) (ring index : Nat) (c : Cmd), s.dev.on = true → s.dev.cmdReady ring index 0x10 = some c →
  recordLenOk c = true → firstFail (createChecks s.dev c) = none →
    exec (.objCreate ring index) s = .next (s.withDev (
      let h := readWhole c.buf
      let shards := h.shards.map fun s => { s with state := if s.mirror.isSome then 0 else 1, tail := if s.isOpen then s.primary else none }
      homeChange ((s.dev.onMbr fun m => { m with homes := tins m.homes (mkObj h.tenant h.object) { h with isHome := true, shards := shards, creating := some (ring, index) } }).onCmd ring index fun c => { c with phase := .running }) (mkObj h.tenant h.object) shards (List.range shards.length) true))) ∧
  (∀ (s : State) (ring index : Nat) (c : Cmd) (h : HomeRec), s.dev.on = true →
  s.dev.cmdReady ring index 0x11 = some c → recordLenOk c = true → firstFail (objIdChecks s.dev c.desc 0x10) = none →
  s.dev.home (mkObj (cTenant c) (fld c.desc 0x10 4)) = some h → h.isHome = true → h.creating = none →
  firstFail (recordChecks s.dev c h) = none → closesAt h.shards (readWhole c.buf).shards = none →
    exec (.objRecord ring index) s = .next (s.withDev 
      (recordApply s.dev ring index (mkObj (cTenant c) (fld c.desc 0x10 4)) h (readWhole c.buf) none))) ∧
  (∀ (s : State) (object node : Nat) (h : HomeRec), s.dev.on = true → s.dev.home object = some h → h.isHome = true →
  h.creating.isSome = true → h.unacked.any (·.1 == node) = true → s.dev.due h.sentAt 100000000 = true →
    exec (.recordNodeTimeout object node) s = .next (s.withDev 
      (homeSettle (badAnswer s.dev object node St.deadlineExpired) object))) ∧
  (∀ (s : State) (ring index : Nat) (c : Cmd), s.dev.on = true → s.dev.cmdReady ring index 0x12 = some c →
  firstFail (objIdChecks s.dev c.desc 0x10) = none →
  ((s.dev.objAt (cObj c)).isSome = true ∨ (s.dev.home (cObj c)).isSome = true) →
    exec (.objDelete ring index) s = .next (s.withDev (
      let d := blockEnd ((dropObject s.dev (cObj c)).onMbr fun m => { m with homes := tdel m.homes (cObj c), shadowings := m.shadowings.filter fun p => p.1 / 256 != cObj c }) 6 (objId (cObj c)) (objTenant (cObj c))
      cmdDone d ring index 0 (liveRuns s.dev - liveRuns d)))) ∧
  (∀ (s : State) (ring index : Nat) (c : Cmd), s.dev.on = true → s.dev.cmdReady ring index 0x12 = some c →
  firstFail (objIdChecks s.dev c.desc 0x10) = none → s.dev.objAt (cObj c) = none → s.dev.home (cObj c) = none →
    exec (.objDelete ring index) s = .next (s.withDev (cmdFail s.dev ring index 0x20 0x10))) ∧
  (∀ (s : State) (ring index : Nat) (c : Cmd), s.dev.on = true → s.dev.cmdReady ring index 0x13 = some c →
  firstFail ([fieldOk (decide (fld c.desc 0x18 4 ≤ 16777216)) 0x18] ++ objHeld s.dev c 0x10 ++ objHeld s.dev c 0x14) = none →
    exec (.objFork ring index) s = .next (s.withDev (forkGo s.chip (forkOf c ring index) c.startedAt))) ∧
  (∀ (s : State) (ring index : Nat) (c : Cmd) (f : Fork), s.dev.on = true → forkAt s.dev ring index = some f →
  s.dev.cmd ring index = some c →
    exec (.forkPageReady ring index) s = .next (s.withDev 
      (if f.copies.isEmpty then forkGo s.chip f c.startedAt else forkReads s.dev ring index))) ∧
  (∀ (s : State) (ring index : Nat) (c : Cmd), s.dev.on = true → s.dev.cmdReady ring index 0x14 = some c →
  fld c.desc 0x14 1 < 4 → fld c.desc 0x15 1 ≤ 16 → firstFail (objHeld s.dev c 0x10) = none →
    exec (.place ring index) s = .next (s.withDev 
      (cmdDone (placeObj s.dev (cObj c) (fld c.desc 0x14 1) (fld c.desc 0x15 1)) ring index 0 0))) ∧
  (∀ (s : State) (ring index : Nat) (c : Cmd) (o : Obj), s.dev.on = true → s.dev.cmdReady ring index 0x15 = some c →
  firstFail (objHeld s.dev c 0x10) = none → s.dev.objAt (cObj c) = some o → fullPages s.chip (cObj c) o.geom = [] →
    exec (.sealFlush ring index) s = .next (s.withDev (cmdDone s.dev ring index 0 0))) ∧
  (∀ (s : State) (ring index : Nat) (c : Cmd) (o : Obj), s.dev.on = true → s.dev.cmdReady ring index 0x15 = some c →
  firstFail (objHeld s.dev c 0x10) = none → s.dev.objAt (cObj c) = some o → fullPages s.chip (cObj c) o.geom ≠ [] →
    exec (.sealFlush ring index) s = .next (s.withDev 
      (s.dev.onCmd ring index fun x => { x with phase := .running, result := (fullPages s.chip (cObj c) o.geom).length, keys := fullPages s.chip (cObj c) o.geom }))) ∧
  (∀ (s : State) (ring index : Nat) (c : Cmd), s.dev.on = true → s.dev.cmd ring index = some c → c.phase = .running →
  fld c.desc 0 1 = 0x15 → unsealed s.dev c.keys = [] →
    exec (.sealFlush ring index) s = .next (s.withDev (cmdDone s.dev ring index 0 c.result))) ∧
  ∀ (s : State) (ring index : Nat) (c : Cmd) (h : HomeRec), s.dev.on = true →
  s.dev.cmdReady ring index 0x16 = some c → s.dev.home (cObj c) = some h →
  firstFail (objIdChecks s.dev c.desc 0x10 ++ shadowChecks s.dev c h) = none →
    exec (.shadowStart ring index) s = .next (s.withDev (
      let n := fld c.desc 0x14 1
      let d := s.dev.onHome (cObj c) fun h => { h with shadowing := h.shadowing ++ [(n, (if fld c.desc 0x16 2 = 0 then 16 else fld c.desc 0x16 2), (if fld c.desc 0x1C 4 = 0 then 10000 else fld c.desc 0x1C 4), some (ring, index))] }
      homeChange (d.onCmd ring index fun c => { c with phase := .running }) (cObj c) (h.shards.set n { h.shard n with shadow := some (fld c.desc 0x18 4), fromMirror := fld c.desc 0x15 1 == 1 }) [n] true))

/-- The end of a fork's page copy (R56, R225). (1) FORK_COPY_DONE, once every row operation of the copy has completed
and the source is a sound image of tier 1, ends the copy of the page. (2) FORK_COPY_DONE of a page that no fork
copies changes nothing. -/
def Obligations.ForkCopy : Prop :=
  (∀ (s : State) (ring index key : Nat) (f : Fork), s.dev.on = true →
  ((s.dev.obj.forks.find? fun f => f.ring == ring && f.index == index && f.copies.contains key) = some f) →
  ((s.dev.row.jobs.all fun j => !(j.use == .fork key) || j.completed.length == jobSize j) = true) →
  (s.dev.ownerEntry (rekey key f.parent)).tier ≠ 2 → (s.dev.ownerEntry (rekey key f.parent)).suspect = false →
  (s.dev.entry key).state = .absent → s.dev.ready (pageDie s.dev key) = true →
    exec (.forkCopyDone ring index key) s = .next (s.withChip (forkCopyEnd s.chip f key))) ∧
  ∀ (s : State) (ring index key : Nat), s.dev.on = true →
  ((s.dev.obj.forks.find? fun f => f.ring == ring && f.index == index && f.copies.contains key) = none) →
    exec (.forkCopyDone ring index key) s = .next (s)

/-- Loads and inspections (R52, R212, R306, R435, R436). (1) LOAD_OPEN of an area whose slice has room opens the load
at the run it placed and answers the run's tier-1 address. (2) LOAD_OPEN of an area for which the slice has no room
ends BUSY and changes nothing else. (3) LOAD_CLOSE with commit of an open page load checks the image that was
written and installs it. (4) LOAD_CLOSE with commit of an area ends FIELD_INVALID at the action and changes nothing
else. (5) LOAD_CLOSE with discard of a load that nothing registers closes the load, and its run is freed when its
last reader is done. (6) LOAD_CLOSE with discard of a load that a registration covers ends BUSY. (7) PAGE_INSPECT of
a page-table entry alone answers the page's 16-byte entry and changes nothing else. (8) OBJ_INSPECT with no room for
the record ends LENGTH_INVALID and changes nothing else. (9) OBJ_INSPECT at the home of an object it holds no shard
of answers the record, then a zero length for each layer. -/
def Obligations.LoadAndInspectCommands : Prop :=
  (∀ (s : State) (ring index : Nat) (c : Cmd), s.dev.on = true → s.dev.cmdReady ring index 0x18 = some c →
  firstFail (loadChecks s.dev c) = none → fld c.desc 0x10 1 = 2 →
  (allocArea s.dev (fld c.desc 0x12 1) (fld c.desc 0x1C 4) (cTenant c) (fld c.desc 0x13 1)).isSome = true →
    exec (.loadOpen ring index) s = .next (s.withDev 
      (match allocArea s.dev (fld c.desc 0x12 1) (fld c.desc 0x1C 4) (cTenant c) (fld c.desc 0x13 1) with | some p => loadOpened p.2 ring index 0 p.1 false 0 | none => s.dev))) ∧
  (∀ (s : State) (ring index : Nat) (c : Cmd), s.dev.on = true → s.dev.cmdReady ring index 0x18 = some c →
  firstFail (loadChecks s.dev c) = none → fld c.desc 0x10 1 = 2 →
  allocArea s.dev (fld c.desc 0x12 1) (fld c.desc 0x1C 4) (cTenant c) (fld c.desc 0x13 1) = none →
    exec (.loadOpen ring index) s = .next (s.withDev (cmdFail s.dev ring index 0x40 0x1C))) ∧
  (∀ (s : State) (ring index key frame res : Nat) (growing : Bool) (c : Cmd), s.dev.on = true →
  s.dev.cmdReady ring index 0x19 = some c → fld c.desc 0x10 1 = 0 → loadAt s.dev c = some (key, frame, growing, res) →
  key ≠ 0 → registered s.dev frame = false →
    exec (.loadCloseCommit ring index) s = .next (s.withDev (loadCommit s.chip ring index key frame growing))) ∧
  (∀ (s : State) (ring index frame res : Nat) (growing : Bool) (c : Cmd), s.dev.on = true →
  s.dev.cmdReady ring index 0x19 = some c → fld c.desc 0x10 1 = 0 → loadAt s.dev c = some (0, frame, growing, res) →
    exec (.loadCloseCommit ring index) s = .next (s.withDev (cmdFail s.dev ring index 0x11 0x10))) ∧
  (∀ (s : State) (ring index key frame res : Nat) (c : Cmd), s.dev.on = true →
  s.dev.cmdReady ring index 0x19 = some c → fld c.desc 0x10 1 = 1 → loadAt s.dev c = some (key, frame, false, res) →
  registered s.dev frame = false →
    exec (.loadCloseDiscard ring index) s = .next (s.withDev 
      (cmdDone ((leaveRun s.dev (runKey 1 frame)).onObj fun x => { x with loads := dropWhere (fun y => y.2.1 == frame) x.loads }) ring index 0 0))) ∧
  (∀ (s : State) (ring index key frame res : Nat) (growing : Bool) (c : Cmd), s.dev.on = true →
  s.dev.cmdReady ring index 0x19 = some c → fld c.desc 0x10 1 = 1 → loadAt s.dev c = some (key, frame, growing, res) →
  registered s.dev frame = true →
    exec (.loadCloseDiscard ring index) s = .next (s.withDev (cmdFail s.dev ring index 0x40 0x20))) ∧
  (∀ (s : State) (ring index : Nat) (c : Cmd) (o : Obj), s.dev.on = true → s.dev.cmdReady ring index 0x1A = some c →
  fld c.desc 0x15 1 = 0 → firstFail (objHeld s.dev c 0x10) = none → s.dev.objAt (cObj c) = some o →
  pageInObj o (fld c.desc 0x14 1) (fld c.desc 0x18 4) = true →
    exec (.pageInspect ring index) s = .next (s.withDev 
      (inspectWrite s.dev ring index c 0 (entryBytes (s.dev.entry (inspectKey c)))))) ∧
  (∀ (s : State) (ring index : Nat) (c : Cmd), s.dev.on = true → s.dev.cmdReady ring index 0x1B = some c →
  firstFail (objIdChecks s.dev c.desc 0x10) = none → knowsObj s.dev (cObj c) = true → fld c.desc 0x28 4 = 0 →
  ((match s.dev.objAt (cObj c) with | some o => holdsTail s.dev o && !(tailsRead s.dev (cObj c) o.layers) | none => false) = false) →
    Answers (exec (.objInspect ring index) s) fun t =>
      SameRest s t ∧ t.dev = cmdFail s.dev ring index 0x10 0x28) ∧
  ∀ (s : State) (ring index : Nat) (c : Cmd) (h : HomeRec), s.dev.on = true →
  s.dev.cmdReady ring index 0x1B = some c → firstFail (objIdChecks s.dev c.desc 0x10) = none →
  s.dev.objAt (cObj c) = none → s.dev.home (cObj c) = some h → h.isHome = true →
  (recordBytes h).length + 4 * h.layers ≤ fld c.desc 0x28 4 →
    exec (.objInspect ring index) s = .next (s.withDev 
      (s.dev.onCmd ring index fun x => { x with phase := .done, status := 0, result := (recordBytes h ++ (List.range h.layers).flatMap fun _ => toLe 4 0).length, data := [(fld c.desc 0x20 8, recordBytes h ++ (List.range h.layers).flatMap fun _ => toLe 4 0)] }))

/-- Jobs of row operations and local attention commands (R94, R95, R97, R211, R214, R437). (1) BANKOP_JOB of a
tenant's own job that passes its checks queues the job with its tag and a reference to every run it names. (2)
BANKOP_JOB whose job names another tenant than its descriptor ends TENANT_MISMATCH. (3) LOCAL_ATTENTION of a
reservation is the reservation of a sender that is this node, answered into the command. (4) LOCAL_ATTENTION of a
request is the request of a sender that is this node, arriving now, with the room of its result. (5) LOCAL_ATTENTION
of a release is the release of a sender that is this node. (6) LOCAL_ATTENTION whose buffer is not of its kind ends
FIELD_INVALID and changes nothing else. -/
def Obligations.LocalCommands : Prop :=
  (∀ (s : State) (ring index : Nat) (c : Cmd), s.dev.on = true → s.dev.cmdReady ring index 0x1C = some c →
  fld c.buf 2 2 = fld c.desc 8 2 → firstFail (jobChecks s.dev c.buf (fld c.desc 0x20 4)) = none →
    exec (.bankopJob ring index) s = .next (s.withDev (
      let es := jobEntries (fld c.buf 0 2) (c.buf.drop 16)
      let d := s.dev.onCmd ring index fun c => { c with phase := .running }
      jobAdd d (.command ring index) (fld c.buf 2 2) es (runsOver d (es.flatMap fun e => (enOperands e).flatMap fun u => (List.range (enCount e)).flatMap fun k => unitFrames (u + k))) (fld c.buf 4 4)))) ∧
  (∀ (s : State) (ring index : Nat) (c : Cmd), s.dev.on = true → s.dev.cmdReady ring index 0x1C = some c →
  fld c.buf 2 2 ≠ fld c.desc 8 2 →
    exec (.bankopJob ring index) s = .next (s.withDev (cmdFailState s.dev ring index 0x32))) ∧
  (∀ (s : State) (ring index : Nat) (c : Cmd), s.dev.on = true → s.dev.cmdReady ring index 0x1D = some c →
  fld c.desc 0x10 1 = 0 → fld c.buf 0 1 = 0x20 → 24 ≤ fld c.desc 0x30 4 →
    exec (.localReserve ring index) s = .next (s.withDev 
      (reserveOp (s.dev.onCmd ring index fun c => { c with phase := .running }) c.buf { tenant := fld c.desc 8 2, node := s.dev.regs.nodeId, action := none } { conn := goneConn, cmd := some (ring, index) } false))) ∧
  (∀ (s : State) (ring index : Nat) (c : Cmd), s.dev.on = true → s.dev.cmdReady ring index 0x1D = some c →
  fld c.desc 0x10 1 = 1 → fld c.buf 0 1 = 0x23 →
    exec (.localRequest ring index) s = .next (s.withDev 
      (requestOp (s.chip.onDev fun d => d.onCmd ring index fun c => { c with phase := .running }) c.buf { tenant := fld c.desc 8 2, node := s.dev.regs.nodeId, action := none } { conn := goneConn, cmd := some (ring, index) } s.dev.now (some (fld c.desc 0x30 4)) false))) ∧
  (∀ (s : State) (ring index : Nat) (c : Cmd), s.dev.on = true → s.dev.cmdReady ring index 0x1D = some c →
  fld c.desc 0x10 1 = 2 → fld c.buf 0 1 = 0x22 → 24 ≤ fld c.desc 0x30 4 →
    exec (.localRelease ring index) s = .next (s.withDev 
      (releaseOp (s.dev.onCmd ring index fun c => { c with phase := .running }) c.buf { tenant := fld c.desc 8 2, node := s.dev.regs.nodeId, action := none } { conn := goneConn, cmd := some (ring, index) } false))) ∧
  ∀ (s : State) (ring index : Nat) (c : Cmd), s.dev.on = true → s.dev.cmdReady ring index 0x1D = some c →
  fld c.desc 0x10 1 = 1 → fld c.buf 0 1 ≠ 0x23 →
    exec (.localRequest ring index) s = .next (s.withDev (cmdFail s.dev ring index 0x11 0x10))

/-- Memory domains, registrations, triggers, work and closing connections (R290, R304, R305, R306, R311, R312, R313,
R438, R439, R440). (1) MDOM_CREATE of a free domain below 4096 with a tenant and a key makes the domain. (2)
MDOM_CREATE with key 0 ends FIELD_INVALID at the key. (3) MDOM_REKEY of the tenant's own domain replaces its key.
(4) MDOM_REKEY of another tenant's domain ends TENANT_MISMATCH and changes nothing else. (5) MDOM_DELETE revokes
every registration of the domain; those with no operation running go at once, and the command ends with the last.
(6) REG_CREATE of host memory in the tenant's own domain, page-aligned, of 4 KiB to 1 TiB, overlapping no other
registration and outside the HDM window, makes the registration. (7) REG_REVOKE of the tenant's own registration
drains it; with no operation running it goes at once. (8) REGISTRATION_DRAINED of a draining registration with no
operation running removes it, ends the revocations, and ends the domain's deletion if it was the last. (9)
REGISTRATION_DRAINED of a registration with an operation running changes nothing. (10) TRIG_ARM of an idle counter
with a threshold arms it at value 0 for the tenant. (11) TRIG_ARM with threshold 0 ends FIELD_INVALID and changes
nothing else. (12) TRIG_ARM of the tenant's counter while it fires ends BUSY. (13) TRIG_DISARM of the tenant's armed
counter makes it IDLE and frees its list's requests. (14) WORK_POST of a request that passes its checks stores its
record, adds it to its counter's list and answers its number. (15) CONN_CLOSE with no connection of the tenant to
the peer runs with none to close, and completes as soon as closings are looked at. (16) CONN_CLOSE marks every OPEN
connection of the tenant to the peer for closing, sends CLOSE where nothing is outstanding, and completes when each
is in QUARANTINE. -/
def Obligations.RemoteMemoryCommands : Prop :=
  (∀ (s : State) (ring index : Nat) (c : Cmd), s.dev.on = true → s.dev.cmdReady ring index 0x20 = some c →
  fld c.desc 0x12 2 < 4096 → cTenant c ≠ 0 → fld c.desc 0x18 8 ≠ 0 →
  tfind s.dev.rma.domains (fld c.desc 0x12 2) = none →
    exec (.mdomCreate ring index) s = .next (s.withDev 
      (cmdDone (s.dev.onRma fun x => { x with domains := tins x.domains (fld c.desc 0x12 2) { tenant := cTenant c, key := fld c.desc 0x18 8 } }) ring index 0 0))) ∧
  (∀ (s : State) (ring index : Nat) (c : Cmd), s.dev.on = true → s.dev.cmdReady ring index 0x20 = some c →
  fld c.desc 0x12 2 < 4096 → cTenant c ≠ 0 → fld c.desc 0x18 8 = 0 →
    exec (.mdomCreate ring index) s = .next (s.withDev (cmdFail s.dev ring index 0x11 0x18))) ∧
  (∀ (s : State) (ring index : Nat) (c : Cmd) (m : Mdom), s.dev.on = true → s.dev.cmdReady ring index 0x21 = some c →
  tfind s.dev.rma.domains (fld c.desc 0x12 2) = some m → m.tenant = cTenant c → fld c.desc 0x18 8 ≠ 0 →
    exec (.mdomRekey ring index) s = .next (s.withDev 
      (cmdDone (s.dev.onRma fun x => { x with domains := tupd x.domains (fld c.desc 0x12 2) fun m => { m with key := fld c.desc 0x18 8 } }) ring index 0 0))) ∧
  (∀ (s : State) (ring index : Nat) (c : Cmd) (m : Mdom), s.dev.on = true → s.dev.cmdReady ring index 0x21 = some c →
  tfind s.dev.rma.domains (fld c.desc 0x12 2) = some m → m.tenant ≠ cTenant c →
    exec (.mdomRekey ring index) s = .next (s.withDev (cmdFail s.dev ring index 0x32 8))) ∧
  (∀ (s : State) (ring index : Nat) (c : Cmd) (m : Mdom), s.dev.on = true → s.dev.cmdReady ring index 0x22 = some c →
  tfind s.dev.rma.domains (fld c.desc 0x12 2) = some m → m.tenant = cTenant c →
    exec (.mdomDelete ring index) s = .next (s.withDev (
      let dom := fld c.desc 0x12 2
      let d := (s.dev.onCmd ring index fun c => { c with phase := .running }).onRma fun x => { x with domains := tupd x.domains dom fun m => { m with deleting := m.deleting ++ [(ring, index)] }, regs := x.regs.map fun p => if p.2.domain = dom then (p.1, { p.2 with state := .draining }) else p }
      domainGone ((d.rma.regs.filter fun p => p.2.domain == dom).foldl (fun d p => regDrained d p.1) d) dom))) ∧
  (∀ (s : State) (ring index : Nat) (c : Cmd) (m : Mdom), s.dev.on = true → s.dev.cmdReady ring index 0x23 = some c →
  tfind s.dev.rma.domains (fld c.desc 0x12 2) = some m → m.tenant = cTenant c → s.dev.reg (fld c.desc 0x10 2) = none →
  1 ≤ fld c.desc 0x14 1 → fld c.desc 0x14 1 ≤ 3 → fld c.desc 0x15 1 = 0 → fld c.desc 0x18 8 % 4096 = 0 →
  fld c.desc 0x20 8 % 4096 = 0 → 4096 ≤ fld c.desc 0x20 8 → fld c.desc 0x20 8 ≤ 2 ^ 40 →
  fld c.desc 0x18 8 + fld c.desc 0x20 8 ≤ 2 ^ 64 →
  ((s.dev.rma.regs.any fun p => p.2.domain == fld c.desc 0x12 2 && decide (fld c.desc 0x18 8 < p.2.base + p.2.length) && decide (p.2.base < fld c.desc 0x18 8 + fld c.desc 0x20 8)) = false) →
  fld c.desc 0x28 8 % 4096 = 0 → inHdmWindow s.dev (fld c.desc 0x28 8) (fld c.desc 0x20 8) = false →
    exec (.regCreate ring index) s = .next (s.withDev 
      (cmdDone (s.dev.onRma fun x => { x with regs := tins x.regs (fld c.desc 0x10 2) { domain := fld c.desc 0x12 2, base := fld c.desc 0x18 8, length := fld c.desc 0x20 8, read := bitOf (fld c.desc 0x14 1) 0, write := bitOf (fld c.desc 0x14 1) 1, tier1 := false, target := fld c.desc 0x28 8 } }) ring index 0 0))) ∧
  (∀ (s : State) (ring index : Nat) (c : Cmd) (g : Registration) (m : Mdom), s.dev.on = true →
  s.dev.cmdReady ring index 0x24 = some c → s.dev.reg (fld c.desc 0x10 2) = some g →
  tfind s.dev.rma.domains g.domain = some m → m.tenant = cTenant c →
    exec (.regRevoke ring index) s = .next (s.withDev 
      (regDrained ((s.dev.onCmd ring index fun c => { c with phase := .running }).onReg (fld c.desc 0x10 2) fun g => { g with state := .draining, revoking := g.revoking ++ [(ring, index)] }) (fld c.desc 0x10 2)))) ∧
  (∀ (s : State) (reg : Nat) (r : Registration), s.dev.on = true → s.dev.reg reg = some r → r.state = .draining →
  r.running = 0 →
    exec (.registrationDrained reg) s = .next (s.withDev 
      (domainGone (cmdsDone (s.dev.onRma fun x => { x with regs := tdel x.regs reg }) r.revoking) r.domain))) ∧
  (∀ (s : State) (reg : Nat) (r : Registration), s.dev.on = true → s.dev.reg reg = some r → r.running ≠ 0 →
    exec (.registrationDrained reg) s = .next (s)) ∧
  (∀ (s : State) (ring index : Nat) (c : Cmd), s.dev.on = true → s.dev.cmdReady ring index 0x25 = some c →
  fld c.desc 0x14 4 ≠ 0xFFFFFFFF → fld c.desc 0x14 4 ≠ 0 → (s.dev.trig (fld c.desc 0x10 2)).state = .idle →
    exec (.trigArm ring index) s = .next (s.withDev 
      (cmdDone ((s.dev.onRma fun x => { x with work := (s.dev.trig (fld c.desc 0x10 2)).list.foldl (fun w k => tupd w k fun y => { record := y.record }) x.work }).onTrig (fld c.desc 0x10 2) fun t => { state := .armed, tenant := cTenant c, threshold := fld c.desc 0x14 4, repeat_ := bitOf (fld c.desc 0x12 1) 0, list := t.list }) ring index 0 0))) ∧
  (∀ (s : State) (ring index : Nat) (c : Cmd), s.dev.on = true → s.dev.cmdReady ring index 0x25 = some c →
  fld c.desc 0x14 4 = 0 →
    exec (.trigArm ring index) s = .next (s.withDev (cmdFail s.dev ring index 0x11 0x14))) ∧
  (∀ (s : State) (ring index : Nat) (c : Cmd), s.dev.on = true → s.dev.cmdReady ring index 0x25 = some c →
  fld c.desc 0x14 4 ≠ 0xFFFFFFFF → fld c.desc 0x14 4 ≠ 0 → (s.dev.trig (fld c.desc 0x10 2)).tenant = cTenant c →
  (s.dev.trig (fld c.desc 0x10 2)).state = .firing →
    exec (.trigArm ring index) s = .next (s.withDev (cmdFail s.dev ring index 0x40 0x10))) ∧
  (∀ (s : State) (ring index : Nat) (c : Cmd), s.dev.on = true → s.dev.cmdReady ring index 0x26 = some c →
  (s.dev.trig (fld c.desc 0x10 2)).tenant = cTenant c → (s.dev.trig (fld c.desc 0x10 2)).state = .armed →
    exec (.trigDisarm ring index) s = .next (s.withDev 
      (cmdDone ((freeWork s.dev (s.dev.trig (fld c.desc 0x10 2)).list).onTrig (fld c.desc 0x10 2) fun _ => {}) ring index 0 0))) ∧
  (∀ (s : State) (ring index : Nat) (c : Cmd), s.dev.on = true → s.dev.cmdReady ring index 0x27 = some c →
  firstFail (workChecks s.dev c) = none →
    exec (.workPost ring index) s = .next (s.withDev 
      (cmdDone ((s.dev.onRma fun x => { x with work := tins x.work (freeWorkNo s.dev) { record := c.buf.take 64 } }).onTrig (wkCounter c.buf) fun t => { t with list := t.list ++ [freeWorkNo s.dev] }) ring index 0 (freeWorkNo s.dev)))) ∧
  (∀ (s : State) (ring index : Nat) (c : Cmd), s.dev.on = true → s.dev.cmdReady ring index 0x28 = some c →
  ((s.dev.tr.conns.any fun p => p.2.tenant == cTenant c && p.2.peer == fld c.desc 0x14 4) = false) → c.result = 0 →
    exec (.connClose ring index) s = .next (s.withDev 
      (closeDone (s.dev.onCmd ring index fun c => { c with phase := .running, result := 0 })))) ∧
  ∀ (s : State) (ring index : Nat) (c : Cmd), s.dev.on = true → s.dev.cmdReady ring index 0x28 = some c →
    exec (.connClose ring index) s = .next (s.withDev (
      let l := (s.dev.tr.conns.filter fun p => p.2.state == .open_ && p.2.tenant == cTenant c && p.2.peer == fld c.desc 0x14 4).map (·.1)
      closeDone (l.foldl (fun d i => closeSend (d.onConn i fun c => { c with wantClose := true }) i) (s.dev.onCmd ring index fun c => { c with phase := .running, result := l.length }))))

/-- Link training, cables and heartbeats (R253, R266, R267, R268, R269, R270). (1) LINK_SIGNAL_DETECTED takes a link
of a running die from DETECT to EQUALISE. (2) LINK_EQUALISE_DONE takes a link from EQUALISE to ALIGN. (3)
LINK_ALIGN_LOCK takes a link from ALIGN to IDENTIFY. (4) LINK_ALIGN_LOCK of a link that is not in ALIGN changes
nothing. (5) LINK_NO_SIGNAL_EVENT after 10,000,000 ticks in DETECT logs one event with the link and reason 3, and
the link keeps waiting. (6) IDENTIFY_RECEIVED of a partner that is refused keeps the payload as refused and logs an
event with reason 2. (7) IDENTIFY_RECEIVED of a partner that is accepted keeps it, and the link becomes ACTIVE if
its heartbeats have been seen. (8) IDENTIFY_SEND in IDENTIFY puts the node's identity on the lane as a control flit.
(9) LINK_TRAINING_TIMEOUT of a link past its step's limit counts a training failure, on the link and in its fixed
counter, and returns to DETECT. (10) LINK_RETRAIN of an ACTIVE link whose trigger has been met retrains the link.
(11) LINK_RETRAIN for a trigger that has not been met changes nothing. (12) RETRAIN_REQUEST of an ACTIVE link
retrains it with trigger 4. (13) LINK_LOSS_OF_SIGNAL takes a link down to DETECT with trigger 5. (14) CABLE_PRESENT
of a passive cable, or of an active optical one of at most 3.3 W, with a length, is accepted; only the optical one
is powered. (15) CABLE_PRESENT of any other cable refuses it, takes the connector's enabled links down to DISABLED,
and logs an event with the connector's first link and reason 1. (16) HEARTBEAT_ADVANCE after 1,000 ticks adds 1,
modulo 16, to the heartbeat of a link in IDENTIFY or ACTIVE whose die has its beat. (17) HEARTBEAT_ADVANCE of a die
that receives no beat changes nothing. (18) HEARTBEAT_CHECK of a heartbeat that advanced clears the misses. (19)
HEARTBEAT_CHECK of a heartbeat that did not advance counts a miss. (20) HEARTBEAT_CHECK at the 16th consecutive miss
takes the link down. -/
def Obligations.LinkTraining : Prop :=
  (∀ (s : State) (link : Nat), s.dev.on = true → link < 32 → s.dev.ready (dieOfLink link) = true →
  (s.dev.link link).state = .detect →
    exec (.linkSignalDetected link) s = .next (s.withDev 
      (s.dev.onLink link fun l => { l with state := .equalise, stepAt := s.dev.now }))) ∧
  (∀ (s : State) (link : Nat), s.dev.on = true → link < 32 → s.dev.ready (dieOfLink link) = true →
  (s.dev.link link).state = .equalise →
    exec (.linkEqualiseDone link) s = .next (s.withDev 
      (s.dev.onLink link fun l => { l with state := .align, stepAt := s.dev.now }))) ∧
  (∀ (s : State) (link : Nat), s.dev.on = true → link < 32 → s.dev.ready (dieOfLink link) = true →
  (s.dev.link link).state = .align →
    exec (.linkAlignLock link) s = .next (s.withDev 
      (s.dev.onLink link fun l => { l with state := .identify, stepAt := s.dev.now }))) ∧
  (∀ (s : State) (link : Nat), s.dev.on = true → (s.dev.link link).state ≠ .align →
    exec (.linkAlignLock link) s = .next (s)) ∧
  (∀ (s : State) (link : Nat), s.dev.on = true → link < 32 → s.dev.ready (dieOfLink link) = true →
  (s.dev.link link).state = .detect → (s.dev.link link).told = false →
  (s.dev.link link).stepAt + 10000000 ≤ s.dev.now →
    exec (.linkNoSignalEvent link) s = .next (s.withDev 
      ((logEv s.dev 0x0402 (dieOfLink link) (toLe 1 link ++ toLe 1 3)).onLink link fun l => { l with told := true }))) ∧
  (∀ (s : State) (link : Nat) (payload : Bytes), s.dev.on = true → link < 32 → s.dev.ready (dieOfLink link) = true →
  (s.dev.link link).state = .identify → (s.dev.link link).refused ≠ some (padTo 240 payload) →
  partnerRefused s.dev (partnerOf (padTo 240 payload)) = true →
    exec (.identifyReceived link payload) s = .next (s.withDev 
      (logEv (s.dev.onLink link fun l => { l with refused := some (padTo 240 payload), partner := none }) 0x0402 (dieOfLink link) (toLe 1 link ++ toLe 1 2)))) ∧
  (∀ (s : State) (link : Nat) (payload : Bytes), s.dev.on = true → link < 32 → s.dev.ready (dieOfLink link) = true →
  (s.dev.link link).state = .identify → (s.dev.link link).refused ≠ some (padTo 240 payload) →
  partnerRefused s.dev (partnerOf (padTo 240 payload)) = false →
    exec (.identifyReceived link payload) s = .next (s.withDev 
      (linkMaybeActive (s.dev.onLink link fun l => { l with refused := none, partner := some (partnerOf (padTo 240 payload)) }) link))) ∧
  (∀ (s : State) (link : Nat), s.dev.on = true → link < 32 → s.dev.ready (dieOfLink link) = true →
  (s.dev.link link).state = .identify → (s.dev.link link).identAt = none →
    exec (.identifySend link) s = .next (s.withDev 
      (s.dev.onLink link fun l => { laneSend l { ftype := 2, seq := l.txSeq, payload := identifyPayload s.dev link } with identAt := some s.dev.now }))) ∧
  (∀ (s : State) (link : Nat), s.dev.on = true → link < 32 → s.dev.ready (dieOfLink link) = true →
  linkOverrun s.dev link = true → (s.dev.link link).settings = false →
    exec (.linkTrainingTimeout link) s = .next (s.withDev 
      ((fixedCount s.dev (dieOfLink link) (44 + link % 4) 1).onLink link fun l => { l with state := .detect, retrain := false, stepAt := s.dev.now, told := false, failures := inc48 l.failures, partner := none, hbSeen := 0, identAt := none, settings := false }))) ∧
  (∀ (s : State) (link trigger : Nat), s.dev.on = true → s.dev.active link = true → trigger ≠ 0 →
  (s.dev.link link).retrainDue = trigger →
    exec (.linkRetrain link trigger) s = .next (s.withDev (linkRetrainOp s.dev link trigger))) ∧
  (∀ (s : State) (link trigger : Nat), s.dev.on = true → (s.dev.link link).retrainDue ≠ trigger →
    exec (.linkRetrain link trigger) s = .next (s)) ∧
  (∀ (s : State) (link : Nat), s.dev.on = true → s.dev.active link = true →
    exec (.retrainRequest link) s = .next (s.withDev (linkRetrainOp s.dev link 4))) ∧
  (∀ (s : State) (link : Nat), s.dev.on = true → link < 32 → s.dev.ready (dieOfLink link) = true →
  (s.dev.link link).state ≠ .disabled → (s.dev.link link).state ≠ .detect →
    exec (.linkLossOfSignal link) s = .next (s.withDev (linkDown s.dev link .detect 5))) ∧
  (∀ (s : State) (connector type length power : Nat), s.dev.on = true → connector < 4 → s.dev.firmware = true →
  (type = 1 ∨ (type = 2 ∧ power ≤ 33)) → length ≠ 0 →
    exec (.cablePresent connector type length power) s = .next (s.withDev 
      (s.dev.onFab fun x => { x with cables := tput {} x.cables connector { present := true, type := type, length := length, power := power, powered := type == 2, refused := false } }))) ∧
  (∀ (s : State) (connector type length power : Nat), s.dev.on = true → connector < 4 → s.dev.firmware = true →
  (¬(type = 1 ∨ (type = 2 ∧ power ≤ 33)) ∨ length = 0) →
    exec (.cablePresent connector type length power) s = .next (s.withDev 
      (logEv (((List.range 8).map (8 * connector + ·)).foldl (fun d n => if bitOf d.regs.links n then (linkDown d n .disabled 7).onRegs fun r => { r with links := r.links - 2 ^ n } else d) (s.dev.onFab fun x => { x with cables := tput {} x.cables connector { present := true, type := type, length := length, power := power, powered := false, refused := true } })) 0x0402 (dieOfLink (8 * connector)) (toLe 1 (8 * connector) ++ toLe 1 1)))) ∧
  (∀ (s : State) (link : Nat), s.dev.on = true → link < 32 → s.dev.ready (dieOfLink link) = true →
  ((s.dev.link link).state = .active ∨ (s.dev.link link).state = .identify) →
  (s.dev.link link).hbAt + 1000 ≤ s.dev.now → tget false s.dev.dies.beatLost (dieOfLink link) = false →
    exec (.heartbeatAdvance link) s = .next (s.withDev 
      (s.dev.onLink link fun l => { l with hb := (l.hb + 1) % 16, hbAt := s.dev.now }))) ∧
  (∀ (s : State) (link : Nat), s.dev.on = true → tget false s.dev.dies.beatLost (dieOfLink link) = true →
    exec (.heartbeatAdvance link) s = .next (s)) ∧
  (∀ (s : State) (link : Nat), s.dev.on = true → s.dev.active link = true →
  (s.dev.link link).checkAt + 1000 ≤ s.dev.now → (s.dev.link link).rxHb ≠ (s.dev.link link).checkedHb →
    exec (.heartbeatCheck link) s = .next (s.withDev 
      (s.dev.onLink link fun l => { l with misses := 0, checkedHb := l.rxHb, checkAt := s.dev.now }))) ∧
  (∀ (s : State) (link : Nat), s.dev.on = true → s.dev.active link = true →
  (s.dev.link link).checkAt + 1000 ≤ s.dev.now → (s.dev.link link).rxHb = (s.dev.link link).checkedHb →
  (s.dev.link link).misses < 15 →
    exec (.heartbeatCheck link) s = .next (s.withDev 
      (s.dev.onLink link fun l => { l with misses := l.misses + 1, checkAt := s.dev.now }))) ∧
  ∀ (s : State) (link : Nat), s.dev.on = true → s.dev.active link = true →
  (s.dev.link link).checkAt + 1000 ≤ s.dev.now → (s.dev.link link).rxHb = (s.dev.link link).checkedHb →
  15 ≤ (s.dev.link link).misses →
    exec (.heartbeatCheck link) s = .next (s.withDev (linkDown s.dev link .detect 6))

/-- Flits, replay, routing and reception (R234, R235, R259, R263, R272, R276, R277, R281, R284, R324, R329, R349). (1)
FLIT_RECEIVE of a good flit on an ACTIVE link takes the flit in. (2) FLIT_RECEIVE of a flit whose CRC or header
fails asks for a replay. (3) FLIT_RECEIVE of a flit in a codeword that could not be corrected notes the codeword and
asks for a replay. (4) NAK_RESEND_TIMEOUT after 100 ticks without the wanted flit asks again; the 8th time is a
trigger of retraining. (5) FLIT_SLOT with a flit to replay sends it first and counts it. (6) FLIT_SLOT with 1,024
flits not acknowledged sends no data; a waiting control flit goes out. (7) FLIT_SLOT with nothing to send sends an
idle flit. (8) FLIT_SLOT in ALIGN sends an ALIGN flit with its position in the superframe. (9) FLIT_SLOT in
IDENTIFY, between the IDENTIFY flits, sends an idle flit. (10) HOST_PORT_SCHEDULE gives the transfer the port
schedule picks to the controller, charges it and counts its bytes. (11) MESSAGE_HEAD_ROUTE of a head that has
arrived chooses its way, with the escape channel not yet allowed. (12) A head in transit whose header is not sound
is discarded and counted as misframed. (13) HEAD_REEVALUATE of a waiting head chooses again; the escape channel is
allowed once the head's wait is over. (14) ESCAPE_WAIT_EXPIRY of a head whose wait is over lets it take the escape
channel. (15) ESCAPE_WAIT_EXPIRY before the wait is over changes nothing. (16) ABORT_FLIT of a message that is not
being forwarded discards it, counts it, if it is not counted yet, and gives its flits' room back. (17)
MESSAGE_RECEIVE of a message that is framed wrongly counts a framing error on the link and drops it. (18)
MESSAGE_RECEIVE of a framed message with room in its search queue delivers it and frees its receive buffer. (19)
MESSAGE_CLASSIFY takes the oldest message of the die's search queue to the Teasel die's search, and the room it
leaves is used. -/
def Obligations.FlitsAndRouting : Prop :=
  (∀ (s : State) (link : Nat) (flit : Bytes) (bad : Bool), s.dev.on = true → s.dev.active link = true → bad = false →
  flitGood flit = true →
    exec (.flitReceive link flit bad) s = .next (s.withDev (goodFlit (codewordSeen s.dev link false) link flit))) ∧
  (∀ (s : State) (link : Nat) (flit : Bytes) (bad : Bool), s.dev.on = true → s.dev.active link = true → bad = false →
  flitGood flit = false →
    exec (.flitReceive link flit bad) s = .next (s.withDev (nakSet (codewordSeen s.dev link false) link))) ∧
  (∀ (s : State) (link : Nat) (flit : Bytes) (bad : Bool), s.dev.on = true → s.dev.active link = true → bad = true →
    exec (.flitReceive link flit bad) s = .next (s.withDev (nakSet (codewordSeen s.dev link true) link))) ∧
  (∀ (s : State) (link : Nat), s.dev.on = true → s.dev.active link = true → (s.dev.link link).discarding = true →
  (s.dev.link link).nakAt + 100 ≤ s.dev.now →
    exec (.nakResendTimeout link) s = .next (s.withDev 
      (s.dev.onLink link fun l => nakCounted { l with nak := true, nakCount := l.nakCount + 1, nakAt := s.dev.now }))) ∧
  (∀ (s : State) (link q : Nat) (rest : List Nat) (f : Nat × Bytes), s.dev.on = true → s.dev.active link = true →
  (s.dev.link link).resend = q :: rest → (s.dev.link link).replay.find? (·.1 == q) = some f →
    exec (.flitSlot link) s = .next (s.withDev 
      ((laneCount s.dev link 0x1440 1).onLink link fun l => { laneSend l (kindOf f.2) with resend := rest }))) ∧
  (∀ (s : State) (link : Nat) (p : Bytes) (rest : List Bytes), s.dev.on = true → s.dev.active link = true →
  (s.dev.link link).resend = [] → 1024 ≤ (s.dev.link link).replay.length → pickCand s.dev link [] = (s.dev, none) →
  (s.dev.link link).ctrl = p :: rest →
    exec (.flitSlot link) s = .next (s.withDev 
      (s.dev.onLink link fun l => { laneSend l { ftype := 2, seq := l.txSeq, payload := p } with ctrl := rest }))) ∧
  (∀ (s : State) (link : Nat), s.dev.on = true → s.dev.active link = true → (s.dev.link link).resend = [] →
  (if (s.dev.link link).replay.length < 1024 then (List.range 5).flatMap (vcCands s.dev link) else []) = [] →
  pickCand s.dev link [] = (s.dev, none) → (s.dev.link link).ctrl = [] →
    exec (.flitSlot link) s = .next (s.withDev 
      (s.dev.onLink link fun l => laneSend l { ftype := 0, seq := l.txSeq }))) ∧
  (∀ (s : State) (link : Nat), s.dev.on = true → s.dev.linkUp link = true → (s.dev.link link).state = .align →
    exec (.flitSlot link) s = .next (s.withDev 
      (s.dev.onLink link fun l => laneSend l { ftype := 2, seq := l.txSeq, payload := alignPayload (s.dev.link link).txPos }))) ∧
  (∀ (s : State) (link : Nat), s.dev.on = true → s.dev.linkUp link = true → (s.dev.link link).state = .identify →
    exec (.flitSlot link) s = .next (s.withDev 
      (s.dev.onLink link fun l => laneSend l { ftype := 0, seq := l.txSeq }))) ∧
  (∀ (s : State) (c : Cand) (g : Bool) (d : Dev) (w : HostWait), s.dev.on = true → s.dev.hostUp = true →
  pickCand s.dev 32 (hostCands s.dev) = (d, some (c, g)) → d.hif.queue[c.id]? = some w →
    exec .hostPortSchedule s = .next (s.withDev (
      let d := sampleDeq (chargeCand d 32 c g) (portQueue 32 c.service) (d.now - c.stamp)
      (bandwidth (count d Config.clover (0x2880 + 0x10 * c.service) c.charge) 0xF120 c.charge).onHif fun h => { h with queue := h.queue.eraseIdx c.id, pin := some w.xfer }))) ∧
  (∀ (s : State) (head : Nat) (m : FMsg), s.dev.on = true →
  ((s.dev.fab.msgs.find? fun m => m.id == head && m.route == .arrived) = some m) →
  (m.inLink = none ∨ msgDest (headOf m) = s.dev.regs.nodeId ∨ transitOk m = true) →
    exec (.messageHeadRoute head) s = .next (s.withDev (routeMsg s.dev m false))) ∧
  (∀ (s : State) (head : Nat) (m : FMsg), s.dev.on = true →
  ((s.dev.fab.msgs.find? fun m => m.id == head && m.route == .arrived) = some m) → m.inLink.isSome = true →
  msgDest (headOf m) ≠ s.dev.regs.nodeId → transitOk m = false →
    exec (.messageHeadRoute head) s = .next (s.withDev 
      (msgSweep (setMsg s.dev { m with route := .discard, misframed := true })))) ∧
  (∀ (s : State) (head : Nat) (m : FMsg), s.dev.on = true →
  ((s.dev.fab.msgs.find? fun m => m.id == head && m.route == .waiting) = some m) →
    exec (.headReevaluate head) s = .next (s.withDev (routeMsg s.dev m (decide (m.stamp + m.wait ≤ s.dev.now))))) ∧
  (∀ (s : State) (head : Nat) (m : FMsg), s.dev.on = true →
  ((s.dev.fab.msgs.find? fun m => m.id == head && m.route == .waiting) = some m) → m.stamp + m.wait ≤ s.dev.now →
    exec (.escapeWaitExpiry head) s = .next (s.withDev (routeMsg s.dev m true))) ∧
  (∀ (s : State) (head : Nat) (m : FMsg), s.dev.on = true →
  ((s.dev.fab.msgs.find? fun m => m.id == head && m.route == .waiting) = some m) → s.dev.now < m.stamp + m.wait →
    exec (.escapeWaitExpiry head) s = .next (s)) ∧
  (∀ (s : State) (link vc : Nat) (m : FMsg), s.dev.on = true →
  ((s.dev.fab.msgs.find? fun m => m.inLink == some link && m.vc == vc && m.aborted) = some m) →
  (m.route = .here ∨ m.route = .waiting) →
    exec (.abortFlit link vc) s = .next (s.withDev 
      ((freeFlits (countLost s.dev m) m m.chunks.length).onFab fun x => { x with msgs := dropWhere (·.id == m.id) x.msgs }))) ∧
  (∀ (s : State) (link vc : Nat) (m : FMsg), s.dev.on = true → arrivedHere s.dev link vc = some m → framed m = false →
    exec (.messageReceive link vc) s = .next (s.withDev 
      (leaveBuffer (s.dev.onLink link fun l => { l with framing := inc48 l.framing }) m))) ∧
  (∀ (s : State) (link vc : Nat) (m : FMsg), s.dev.on = true → arrivedHere s.dev link vc = some m → framed m = true →
  searchFull s.dev link = false →
    exec (.messageReceive link vc) s = .next (s.withDev 
      (deliver (leaveBuffer s.dev m) link (ownVc vc m.chunks.flatten) m.lastAt m.chunks.flatten))) ∧
  ∀ (s : State) (die teasel : Nat) (h : Held), s.dev.on = true →
  (s.dev.tr.search.find? (fun h => dieOfLink h.inLink == die) = some h) → searchDie s.dev die = some teasel →
    exec (.messageClassify die) s = .next (s.withDev 
      (searchRoom (classify (s.chip.onDev fun d => sampleDeq (d.onTr fun x => { x with search := x.search.erase h }) (searchQueue die) (d.now - h.at_)) h teasel) die))

/-- Connections, acknowledgements and timers (R286, R287, R289, R290, R294, R296, R299, R300, R303). (1) CONNECT does
the responder's part of opening. (2) CONNECT_REPLY that names no CONNECTING context is counted and changes nothing
else. (3) CONNECT_REPLY with status OK that answers this connection's CONNECT opens it, and what waits on it is
sent. (4) CONNECT_RESEND after 10,000 ticks without a reply sends CONNECT again, at most 8 times. (5) CONNECT_RESEND
after the eighth CONNECT tears the connection down with DEADLINE_EXPIRED. (6) A sound CLOSE on an OPEN or CLOSING
connection puts it into CLOSING, and it is answered once nothing is outstanding. (7) A CLOSE with a field that is
not valid is answered FIELD_INVALID and closes nothing. (8) CLOSE_REPLY with status OK and the tag of the CLOSE that
a CLOSING connection sent puts it into QUARANTINE. (9) CONNECTION_IDLE_CLOSE of a responder's context unused for
100,000,000 ticks closes it. (10) CONNECTION_IDLE_CLOSE of a connection idle for 6,000,000,000 ticks with nothing
pending closes it. (11) QUARANTINE_EXPIRY 1,000,000 ticks after QUARANTINE began closes the context; only its
generation stays. (12) ACK in the inbox acknowledges what it covers and gives a delay sample. (13) NAK in the inbox
acknowledges what it covers and answers for the message it names. (14) NOT_READY_RETRY sends a message whose retry
time has come. (15) ACK_DELAY_EXPIRY 50 ticks after the first acceptance not acknowledged sends an ACK. (16)
GAP_TIMEOUT 1,000 ticks after a message above a gap arrived sends a NAK of reason 1 for the expected message if it
does not wait here. (17) RTO_EXPIRY sends the oldest message again, counts it, counts one more expiry, and the
window falls to 4,096 bytes. (18) CONTACT_LOST after 16 expiries for one message answers a CLOSE that waits and
tears the connection down with DEADLINE_EXPIRED. (19) CONTEXT_FETCH_DONE of a sound context with room in the cache
caches it, and what waited goes on. (20) CONTEXT_FETCH_DONE of a context whose CRC fails logs an event with its
index and tears the connection down. -/
def Obligations.Connections : Prop :=
  (∀ (s : State) (msg : Nat) (m : Inb), s.dev.on = true → s.dev.tr.inbox.find? (·.id == msg) = some m →
  msgType m.bytes = 1 → bodyType m.bytes = 0x10 →
    exec (.connect msg) s = .next (s.withDev (connectOp (s.dev.take msg) m))) ∧
  (∀ (s : State) (msg : Nat) (m : Inb), s.dev.on = true → s.dev.tr.inbox.find? (·.id == msg) = some m →
  msgType m.bytes = 1 → bodyType m.bytes = 0x11 → (s.dev.conn (msgDstConn m.bytes)).state ≠ .connecting →
    exec (.connectReply msg) s = .next (s.withDev 
      ((s.dev.take msg).onTr fun x => { x with strayReplies := x.strayReplies + 1 }))) ∧
  (∀ (s : State) (msg : Nat) (m : Inb), s.dev.on = true → s.dev.tr.inbox.find? (·.id == msg) = some m →
  msgType m.bytes = 1 → bodyType m.bytes = 0x11 → ctrlOk m false = true →
  (s.dev.conn (msgDstConn m.bytes)).state = .connecting → msgDstGen m.bytes = connGen s.dev (msgDstConn m.bytes) →
  (s.dev.conn (msgDstConn m.bytes)).peer = msgSrc m.bytes →
  (s.dev.conn (msgDstConn m.bytes)).requestId = cbTag (msgBody m.bytes) → cbStatus (msgBody m.bytes) = 0 →
    exec (.connectReply msg) s = .next (s.withDev 
      (pump ((s.dev.take msg).onConn (msgDstConn m.bytes) fun c => { c with state := .open_, peerConn := msgSrcConn m.bytes, peerGen := cbGen (msgBody m.bytes), enteredAt := s.dev.now, dataAt := s.dev.now }) (msgDstConn m.bytes)))) ∧
  (∀ (s : State) (conn : Nat), s.dev.on = true → (s.dev.conn conn).state = .connecting →
  (s.dev.conn conn).sendAt + 10000 ≤ s.dev.now → s.dev.ready (homeDie conn) = true → (s.dev.conn conn).sends < 8 →
    exec (.connectResend conn) s = .next (s.withDev 
      (sendCtrl (s.dev.onConn conn fun c => { c with sends := c.sends + 1, sendAt := s.dev.now }) conn 0x10 0 (s.dev.conn conn).requestId))) ∧
  (∀ (s : State) (conn : Nat), s.dev.on = true → (s.dev.conn conn).state = .connecting →
  (s.dev.conn conn).sendAt + 10000 ≤ s.dev.now → s.dev.ready (homeDie conn) = true → 8 ≤ (s.dev.conn conn).sends →
    exec (.connectResend conn) s = .next (s.withDev (connTeardown s.dev conn 0x42))) ∧
  (∀ (s : State) (msg : Nat) (m : Inb), s.dev.on = true → s.dev.tr.inbox.find? (·.id == msg) = some m →
  msgType m.bytes = 1 → bodyType m.bytes = 0x12 → ctrlOk m true = true →
  ((s.dev.conn m.conn).state = .open_ ∨ (s.dev.conn m.conn).state = .closing) →
    exec (.close msg) s = .next (s.withDev 
      (closeCheck ((s.dev.take msg).onConn m.conn fun c => { c with state := .closing, closeGot := some (cbTag (msgBody m.bytes)) }) m.conn))) ∧
  (∀ (s : State) (msg : Nat) (m : Inb), s.dev.on = true → s.dev.tr.inbox.find? (·.id == msg) = some m →
  msgType m.bytes = 1 → bodyType m.bytes = 0x12 → ctrlOk m true = false →
    exec (.close msg) s = .next (s.withDev (sendCtrl (s.dev.take msg) m.conn 0x13 0x11 (cbTag (msgBody m.bytes))))) ∧
  (∀ (s : State) (msg : Nat) (m : Inb), s.dev.on = true → s.dev.tr.inbox.find? (·.id == msg) = some m →
  msgType m.bytes = 1 → bodyType m.bytes = 0x13 → (s.dev.conn m.conn).state = .closing →
  (s.dev.conn m.conn).closeSent = true → ctrlOk m false = true →
  (s.dev.conn m.conn).requestId = cbTag (msgBody m.bytes) → cbStatus (msgBody m.bytes) = 0 →
    exec (.closeReply msg) s = .next (s.withDev (closeOver (s.dev.take msg) m.conn))) ∧
  (∀ (s : State) (conn : Nat), s.dev.on = true → (s.dev.conn conn).state = .open_ →
  (s.dev.conn conn).initiator = false → (s.dev.conn conn).gotData = false →
  (s.dev.conn conn).enteredAt + 100000000 ≤ s.dev.now →
    exec (.connectionIdleClose conn) s = .next (s.withDev (closeSend s.dev conn))) ∧
  (∀ (s : State) (conn : Nat), s.dev.on = true → (s.dev.conn conn).state = .open_ →
  (s.dev.conn conn).dataAt + 6000000000 ≤ s.dev.now → connPending s.dev conn = false →
    exec (.connectionIdleClose conn) s = .next (s.withDev (closeSend s.dev conn))) ∧
  (∀ (s : State) (conn : Nat), s.dev.on = true → (s.dev.conn conn).state = .quarantine →
  (s.dev.conn conn).enteredAt + 1000000 ≤ s.dev.now →
    exec (.quarantineExpiry conn) s = .next (s.withDev 
      ((s.dev.onConn conn fun c => { gens := c.gens }).onTr fun x => { x with cache := tmod [] x.cache (homeDie conn) fun l => l.erase conn, spilled := tput false x.spilled conn false, fetching := x.fetching.erase conn }))) ∧
  (∀ (s : State) (msg : Nat) (m : Inb), s.dev.on = true → s.dev.tr.inbox.find? (·.id == msg) = some m →
  msgType m.bytes = 2 →
    exec (.transportAck msg) s = .next (s.withDev (ackOpT (s.dev.take msg) m))) ∧
  (∀ (s : State) (msg : Nat) (m : Inb), s.dev.on = true → s.dev.tr.inbox.find? (·.id == msg) = some m →
  msgType m.bytes = 3 →
    exec (.transportNak msg) s = .next (s.withDev (nakOp (s.dev.take msg) m))) ∧
  (∀ (s : State) (conn seq r : Nat) (w : TxMsg), s.dev.on = true →
  (s.dev.conn conn).sent.find? (·.seq == seq) = some w → w.retryAt = some r → r ≤ s.dev.now →
  connSends s.dev conn = true →
    exec (.notReadyRetry conn seq) s = .next (s.withDev (resend s.dev conn w))) ∧
  (∀ (s : State) (conn : Nat), s.dev.on = true → (s.dev.conn conn).state = .open_ → 0 < (s.dev.conn conn).unacked →
  (s.dev.conn conn).firstAt + 50 ≤ s.dev.now →
    exec (.ackDelayExpiry conn) s = .next (s.withDev (ackSend s.dev conn))) ∧
  (∀ (s : State) (conn q t : Nat) (rest : List (Nat × Nat)), s.dev.on = true → (s.dev.conn conn).state = .open_ →
  (s.dev.conn conn).above = (q, t) :: rest → t + 1000 ≤ s.dev.now → (s.dev.conn conn).gapNakAt = none →
  queuedHere s.dev conn (s.dev.conn conn).expected = false →
    exec (.gapTimeout conn) s = .next (s.withDev 
      (nakSend (s.dev.onConn conn fun c => { c with gapNakAt := some s.dev.now }) conn (s.dev.conn conn).expected 1 0 (s.dev.conn conn).echoTick))) ∧
  (∀ (s : State) (conn : Nat) (w : TxMsg) (rest : List TxMsg), s.dev.on = true → (s.dev.conn conn).sent = w :: rest →
  connSends s.dev conn = true → (s.dev.conn conn).timerAt + rto (s.dev.conn conn) ≤ s.dev.now →
  (s.dev.conn conn).expiries < 16 →
    exec (.rtoExpiry conn) s = .next (s.withDev 
      (resend (count (s.dev.onConn conn fun c => { c with expiries := c.expiries + 1, timerAt := s.dev.now, window := 4096 }) (homeDie conn) 0x1820 1) conn w))) ∧
  (∀ (s : State) (conn : Nat), s.dev.on = true →
  ((s.dev.conn conn).state = .open_ ∨ (s.dev.conn conn).state = .closing) → (s.dev.conn conn).sent ≠ [] →
  16 ≤ (s.dev.conn conn).expiries →
    exec (.contactLost conn) s = .next (s.withDev 
      (connTeardown (match (s.dev.conn conn).closeGot with | some tag => sendCtrl s.dev conn 0x13 0 tag | none => s.dev) conn 0x42))) ∧
  (∀ (s : State) (conn : Nat) (crcOk : Bool), s.dev.on = true → s.dev.tr.fetching.contains conn = true →
  spillUp s.dev = true → crcOk = true → cacheRoom s.dev (homeDie conn) = some s.dev →
    exec (.contextFetchDone conn crcOk) s = .next (s.withDev (
      let d := (s.dev.onTr fun x => { x with fetching := x.fetching.erase conn, spilled := tput false x.spilled conn false }).onHif fun h => { h with reads := dropWhere (fun r => r.purpose == .spill conn) h.reads }
      closeWanted (pump (releaseWaiting (cacheTouch d conn) conn) conn) conn))) ∧
  ∀ (s : State) (conn : Nat) (crcOk : Bool), s.dev.on = true → s.dev.tr.fetching.contains conn = true →
  spillUp s.dev = true → crcOk = false →
    exec (.contextFetchDone conn crcOk) s = .next (s.withDev (
      let d := (s.dev.onTr fun x => { x with fetching := x.fetching.erase conn, spilled := tput false x.spilled conn false }).onHif fun h => { h with reads := dropWhere (fun r => r.purpose == .spill conn) h.reads }
      connTeardown (logEv d 0x0502 (homeDie conn) (toLe 4 conn)) conn 0x42))

/-- Reserving, releasing and requesting attention (R94, R97, R98, R99, R100, R104, R105, R166, R376). (1) ATTN_RESERVE
is the reservation of its sender, answered on its connection. (2) ATTN_RESERVE that fails a check reserves nothing:
its only effect is the reply with that check's status and the request's tag. (3) ATTN_RELEASE is the release of its
sender, answered on its connection. (4) ATTN_RESERVE_REPLY for no reservation of this node's is counted as a stray
reply and changes nothing else. (5) ATTN_RESERVE_REPLY with status OK to a reservation of this node's gives it its
slot. (6) SLOT_LEASE_EXPIRY of a reserved slot with no request, a lease after its last renewal, starts the guard.
(7) SLOT_GUARD_EXPIRY 10,000,000 ticks after the lease ended frees the slot, and its generation advances by 1. (8)
Nothing of the slot is left but its generation, and no request changes. (9) ATTN_REQUEST is the request of its
sender, with the deadline counted from its arrival, and credits withheld for want of admissions are given. -/
def Obligations.AttentionAdmission : Prop :=
  (∀ (s : State) (msg : Nat) (m : Inb), s.dev.on = true → s.dev.msg msg 0x20 = some m →
    exec (.attnReserve msg) s = .next (s.withDev 
      (reserveOp (s.dev.take msg) (msgBody m.bytes) (senderOf m) (backOf m) m.stale))) ∧
  (∀ (s : State) (msg st : Nat) (m : Inb), s.dev.on = true → s.dev.msg msg 0x20 = some m → m.stale = false →
  firstFail (reserveChecks (s.dev.take msg) (msgBody m.bytes) (senderOf m)) = some st → st ≠ 0x32 →
    exec (.attnReserve msg) s = .next (s.withDev 
      (answer (s.dev.take msg) (backOf m) st (reserveReply st 0 0 (fld (msgBody m.bytes) 0x1C 4) 0 0 0)))) ∧
  (∀ (s : State) (msg : Nat) (m : Inb), s.dev.on = true → s.dev.msg msg 0x22 = some m →
    exec (.attnRelease msg) s = .next (s.withDev 
      (releaseOp (s.dev.take msg) (msgBody m.bytes) (senderOf m) (backOf m) m.stale))) ∧
  (∀ (s : State) (msg : Nat) (m : Inb), s.dev.on = true → s.dev.msg msg 0x21 = some m →
  s.dev.attn.own.any (·.requestId == fld (msgBody m.bytes) 4 4) = false →
    exec (.attnReserveReply msg) s = .next (s.withDev 
      ((s.dev.take msg).onTr fun x => { x with strayReplies := x.strayReplies + 1 }))) ∧
  (∀ (s : State) (msg : Nat) (m : Inb), s.dev.on = true → s.dev.msg msg 0x21 = some m →
  s.dev.attn.own.any (·.requestId == fld (msgBody m.bytes) 4 4) = true → fld (msgBody m.bytes) 1 1 = 0 →
  bitOf (fld (msgBody m.bytes) 2 1) 0 = false →
    exec (.attnReserveReply msg) s = .next (s.withDev 
      ((s.dev.take msg).onAttn fun x => { x with own := modWhere (·.requestId == fld (msgBody m.bytes) 4 4) (fun o => { o with handle := some (fld (msgBody m.bytes) 8 4) }) x.own }))) ∧
  (∀ (s : State) (slot : Nat), s.dev.on = true → (s.dev.slot slot).reserved = true → s.dev.request slot = none →
  (s.dev.slot slot).guardAt = none → (s.dev.slot slot).leaseAt + (s.dev.slot slot).lease ≤ s.dev.now →
    exec (.slotLeaseExpiry slot) s = .next (s.withDev 
      (s.dev.onSlot slot fun x => { x with guardAt := some s.dev.now }))) ∧
  (∀ (s : State) (slot g : Nat), s.dev.on = true → (s.dev.slot slot).guardAt = some g → s.dev.request slot = none →
  g + 10000000 ≤ s.dev.now →
    exec (.slotGuardExpiry slot) s = .next (s.withDev (freeSlot s.dev slot))) ∧
  (∀ (s : State) (slot g : Nat), s.dev.on = true → (s.dev.slot slot).guardAt = some g → s.dev.request slot = none →
  g + 10000000 ≤ s.dev.now →
    Answers (exec (.slotGuardExpiry slot) s) fun t =>
      t.dev.slot slot = { gens := (s.dev.slot slot).gens + 1 } ∧ t.dev.attn.requests = s.dev.attn.requests ∧
      SameRest s t) ∧
  ∀ (s : State) (msg : Nat) (m : Inb), s.dev.on = true → s.dev.msg msg 0x23 = some m →
    exec (.attnRequest msg) s = .next (s.withDev 
      (campionDies.foldl giveWithheld (requestOp (s.chip.onDev fun d => d.take msg) (msgBody m.bytes) (senderOf m) (backOf m) m.at_ none m.stale)))

/-- Page walks, reads, passes, parts and deadlines (R73, R81, R89, R90, R105, R109, R116, R119, R122, R123, R148,
R150). (1) PAGE_RESOLVE of a running context resolves its next page, by the bounded or the dense walk. (2)
PAGE_RESOLVE of an ABSENT page of a dense request passes over it: nothing is read for it. (3) PAGE_READ_ISSUE of a
copy not yet read joins it to a copy of the same page or issues its read. (4) PAGE_STAGED of an issued tier-1 read
checks the image and stages it for the contexts that joined. (5) PAGE_STAGED of a copy whose read has not been
issued changes nothing. (6) PAGE_READ_FAIL of a read whose tier-2 path failed ends the joined requests with
TIER_READ_FAILED. (7) ARRAY_PASS_END of a staged page in its context's order ends a phase of the pass. (8)
TREE_NODE_EMIT of a tree node whose pages are all folded emits the node's rows as a part. (9) PART_HANDOFF of a part
that is ready hands it to the request's serial context. (10) PART_HANDOFF after the request has ended discards the
part and counts it. (11) REQUEST_DEADLINE of a request past its deadline ends it with DEADLINE_EXPIRED. (12)
REQUEST_DEADLINE before the deadline changes nothing. (13) REQUEST_ERROR of a die with a context of the request ends
the request with that status; with INTERNAL goes an INTERNAL_FAULT event. (14) ATTN_PARTIAL whose trigger is not
firing is written or compared as its tag says. -/
def Obligations.AttentionEngines : Prop :=
  (∀ (s : State) (slot die head : Nat) (r : Request) (c : Ctx), s.dev.on = true → s.dev.request slot = some r →
  r.ctx die head = some c → s.dev.ready die = true → c.stopped = none → resolveWaits s.dev r c = false →
    exec (.pageResolve slot die head) s = .next (s.withDev 
      (if aqBounded r.body then resolveBounded s.chip slot r c else resolveDense s.chip slot r c))) ∧
  (∀ (s : State) (slot die head : Nat) (r : Request) (c : Ctx) (page : Nat) (rest : List Nat), s.dev.on = true →
  s.dev.request slot = some r → r.ctx die head = some c → s.dev.ready die = true → c.stopped = none →
  resolveWaits s.dev r c = false → aqBounded r.body = false → c.todo = page :: rest →
  (s.dev.entry (s.dev.ownerKey (mkKey (aqTenant r.body) (aqObject r.body) (aqLayer r.body) page))).state = .absent →
    exec (.pageResolve slot die head) s = .next (s.withDev 
      (s.dev.onCtx slot c.die c.head fun c => { c with todo := rest, waits := none }))) ∧
  (∀ (s : State) (die copy : Nat) (c : Staged), s.dev.on = true → s.dev.stagedAt die copy = some c → c.issued = false →
  s.dev.ready die = true →
    exec (.pageReadIssue die copy) s = .next (s.withDev (issueCopy s.dev c))) ∧
  (∀ (s : State) (die copy : Nat) (c : Staged), s.dev.on = true → s.dev.stagedAt die copy = some c → c.issued = true →
  c.ready = false → c.uio = false → stagedWaits s.dev c = false →
    exec (.pageStaged die copy) s = .next (s.withDev (stageOp s.chip c))) ∧
  (∀ (s : State) (die copy : Nat) (c : Staged), s.dev.on = true → s.dev.stagedAt die copy = some c → c.issued = false →
    exec (.pageStaged die copy) s = .next (s)) ∧
  (∀ (s : State) (die copy cause : Nat) (c : Staged), s.dev.on = true → s.dev.stagedAt die copy = some c →
  c.issued = true → c.ready = false → c.tierFail = true → stagedWaits s.dev c = false → cause = 2 →
  ¬(c.joined.isEmpty = true ∧ c.ahead.isNone = true) →
    exec (.pageReadFail die copy cause) s = .next (s.withDev (pageFail s.dev c 0x24))) ∧
  (∀ (s : State) (die copy slot head : Nat) (c : Staged) (r : Request) (x : Ctx) (p : Resolved), s.dev.on = true →
  s.dev.stagedAt die copy = some c → s.dev.request slot = some r → r.ctx die head = some x →
  ((x.resolved.find? fun p => p.copy == some copy && !p.finished) = some p) → c.ready = true →
  s.dev.ready die = true → bitOf s.dev.regs.arrays die = true → x.stopped = none → passInOrder r x p = true →
    exec (.arrayPassEnd die copy slot head) s = .next (s.withDev (passEnd s.dev slot r x p c))) ∧
  (∀ (s : State) (slot part : Nat) (r : Request) (p : Sys2Proof.Machine.Part) (c : Ctx), s.dev.on = true →
  s.dev.request slot = some r → r.parts[part]? = some p → r.ctx p.die p.head = some c → aqBounded r.body = false →
  nodeReady c p.level p.index = true → p.rows = none → resultQueue s.dev p.die < resultDepth →
    exec (.treeNodeEmit slot part) s = .next (s.withDev 
      (s.dev.onRequest slot fun r => { r with parts := r.parts.set part { p with rows := some (nodeRows c (aqTokens r.body * aqGroup r.body) (reqGeom s.dev r.body).D p.level p.index) } }))) ∧
  (∀ (s : State) (slot part : Nat) (r : Request) (p : Sys2Proof.Machine.Part) (rows : List Partial), s.dev.on = true →
  s.dev.request slot = some r → r.parts[part]? = some p → p.rows = some rows → p.handed = false →
    exec (.partHandoff slot part) s = .next (s.withDev (handPart s.dev slot r part p rows))) ∧
  (∀ (s : State) (slot part : Nat), s.dev.on = true → s.dev.request slot = none → (s.dev.slot slot).reserved = true →
    exec (.partHandoff slot part) s = .next (s.withDev (lateDiscard s.dev 1 16 (s.dev.slot slot).tenant 0))) ∧
  (∀ (s : State) (slot : Nat) (r : Request), s.dev.on = true → s.dev.request slot = some r →
  r.arrived + r.deadline ≤ s.dev.now →
    exec (.requestDeadline slot) s = .next (s.withDev (requestEnd s.dev slot 0x42))) ∧
  (∀ (s : State) (slot : Nat) (r : Request), s.dev.on = true → s.dev.request slot = some r →
  s.dev.now < r.arrived + r.deadline →
    exec (.requestDeadline slot) s = .next (s)) ∧
  (∀ (s : State) (slot die status : Nat) (r : Request), s.dev.on = true → s.dev.request slot = some r →
  r.ctxs.any (·.die == die) = true → errorStatus status = true →
    exec (.requestError slot die status) s = .next (s.withDev 
      (requestEnd (internalFault s.dev die (aqTenant r.body) status) slot status))) ∧
  ∀ (s : State) (msg : Nat) (m : Inb), s.dev.on = true → s.dev.msg msg 0x24 = some m →
  tagFiring s.dev (fld (msgBody m.bytes) 0x24 4) = false →
    exec (.attnPartial msg) s = .next (s.withChip (partOp (s.chip.onDev fun d => d.take msg) m))

/-- Appends, mirror copies, held appends and seals (R50, R53, R127, R128, R129, R130, R131, R145, R374). (1) APPEND
from a requester is checked and carried out. (2) APPEND that fails a check writes nothing: its only effect is the
acknowledgement with the check's status. (3) An append to a page under a row operation waits for it. (4)
APPEND_MIRROR_COPY is checked and carried out as a copy. (5) APPEND_ACK answers for the copy it acknowledges. (6)
MIRROR_COPY_RESEND 100,000 ticks after a bad answer, while the record lists that mirror, sends the copy again. (7)
APPEND_DEADLINE of a requester's held append past its deadline ends it with DEADLINE_EXPIRED before its write. (8)
APPEND_DEADLINE of a held mirror copy changes nothing: a copy has no deadline. (9) HELD_APPEND_RELEASE at the tail
owner lets the append go on. (10) SEAL_COMPLETE of a running die seals its oldest full page. (11) SEAL_COMPLETE of a
die with no full page changes nothing. -/
def Obligations.Appends : Prop :=
  (∀ (s : State) (msg : Nat) (m : Inb), s.dev.on = true → s.dev.msg msg 0x28 = some m →
  apMirror (msgBody m.bytes) = false → appendWaits s.dev m.bytes = false →
    exec (.append msg) s = .next (s.withChip (appendOp (s.chip.onDev fun d => d.take msg) m))) ∧
  (∀ (s : State) (msg st : Nat) (m : Inb), s.dev.on = true → s.dev.msg msg 0x28 = some m →
  apMirror (msgBody m.bytes) = false → appendWaits s.dev m.bytes = false → m.stale = false →
  firstFail (appendChecks (s.dev.take msg) (msgBody m.bytes) (senderOf m)) = some st →
    exec (.append msg) s = .next (s.withDev 
      (ackAppend (s.dev.take msg) (msgBody m.bytes) m.conn (actionSub m.action) (msgTenant m.bytes) st 0))) ∧
  (∀ (s : State) (msg : Nat) (m : Inb), s.dev.on = true → s.dev.msg msg 0x28 = some m →
  appendWaits s.dev m.bytes = true →
    exec (.append msg) s = .next (s)) ∧
  (∀ (s : State) (msg : Nat) (m : Inb), s.dev.on = true → s.dev.msg msg 0x28 = some m →
  apMirror (msgBody m.bytes) = true → appendWaits s.dev m.bytes = false →
    exec (.appendMirrorCopy msg) s = .next (s.withChip (appendOp (s.chip.onDev fun d => d.take msg) m))) ∧
  (∀ (s : State) (msg : Nat) (m : Inb), s.dev.on = true → s.dev.msg msg 0x29 = some m →
    exec (.appendAck msg) s = .next (s.withDev (ackOp (s.chip.onDev fun d => d.take msg) m))) ∧
  (∀ (s : State) (ack n : Nat) (a : AckWait) (x : Shard), s.dev.on = true →
  s.dev.attn.acks.find? (·.id == ack) = some a → a.refused = true → apShard s.dev (msgBody a.bytes) = some (n, x) →
  otherReplica s.dev.regs.nodeId x = some a.mirror → a.sentAt + 100000 ≤ s.dev.now →
    exec (.mirrorCopyResend ack) s = .next (s.withDev 
      (copyAppend (s.dev.onAttn fun x => { x with acks := modWhere (·.id == a.id) (fun a => { a with sentAt := s.dev.now }) x.acks }) (msgBody a.bytes) a.mirror a.sub false))) ∧
  (∀ (s : State) (held : Nat) (h : HeldAppend), s.dev.on = true → s.dev.attn.held.find? (·.id == held) = some h →
  h.mirror = false → h.arrived + apDeadline (msgBody h.bytes) ≤ s.dev.now →
    exec (.appendDeadline held) s = .next (s.withChip 
      (appendDone s.chip h.bytes h.conn h.action (some h) 0x42 false))) ∧
  (∀ (s : State) (held : Nat) (h : HeldAppend), s.dev.on = true → s.dev.attn.held.find? (·.id == held) = some h →
  h.mirror = true →
    exec (.appendDeadline held) s = .next (s)) ∧
  (∀ (s : State) (held n : Nat) (h : HeldAppend) (x : Shard), s.dev.on = true →
  s.dev.attn.held.find? (·.id == held) = some h → h.why ≠ 3 → appendWaits s.dev h.bytes = false →
  apShard s.dev (msgBody h.bytes) = some (n, x) → x.tail = some s.dev.regs.nodeId →
    exec (.heldAppendRelease held) s = .next (s.withChip 
      (appendGo s.chip h.bytes h.conn h.action h.arrived (some h) none))) ∧
  (∀ (s : State) (die : Nat) (x : Seal) (rest : List Seal), s.dev.on = true → tget [] s.dev.obj.seals die = x :: rest →
  s.dev.ready die = true → entryBusy s.dev (s.dev.entry x.key) = false →
    exec (.sealComplete die) s = .next (s.withChip (sealOp s.chip die x.key))) ∧
  ∀ (s : State) (die : Nat), s.dev.on = true → tget [] s.dev.obj.seals die = [] →
    exec (.sealComplete die) s = .next (s)

/-- Remote writes, reads, responses and completed work (R309, R310, R315, R316). (1) RMA_WRITE whose trigger is not
firing is checked against its registration and carried out. (2) RMA_WRITE with a tag whose counter is firing waits
where it is. (3) RMA_READ is checked against its registration and answered. (4) RMA_RESP answers for the operation
it names. (5) WORK_REQUEST_COMPLETE of a fired request whose outcome is an error ends it with that status. (6)
WORK_REQUEST_COMPLETE of a fired request with status OK, whose done tag may be counted, ends it. -/
def Obligations.RemoteMemoryMessages : Prop :=
  (∀ (s : State) (msg : Nat) (m : Inb), s.dev.on = true → s.dev.msg msg 0x30 = some m →
  tagFiring s.dev (fld (msgBody m.bytes) 0x20 4) = false →
    exec (.rmaWrite msg) s = .next (s.withChip (rmaWriteOp (s.chip.onDev fun d => d.take msg) m))) ∧
  (∀ (s : State) (msg : Nat) (m : Inb), s.dev.on = true → s.dev.msg msg 0x30 = some m →
  tagFiring s.dev (fld (msgBody m.bytes) 0x20 4) = true →
    exec (.rmaWrite msg) s = .next (s)) ∧
  (∀ (s : State) (msg : Nat) (m : Inb), s.dev.on = true → s.dev.msg msg 0x31 = some m →
  rmaReadWaits s.dev msg = false →
    exec (.rmaRead msg) s = .next (s.withDev (rmaReadOp (s.chip.onDev fun d => d.take msg) m))) ∧
  (∀ (s : State) (msg : Nat) (m : Inb), s.dev.on = true → s.dev.msg msg 0x32 = some m →
  tagFiring s.dev (fld (msgBody m.bytes) 0x10 4) = false →
    exec (.rmaResp msg) s = .next (s.withDev (rmaRespOp (s.chip.onDev fun d => d.take msg) m))) ∧
  (∀ (s : State) (work status : Nat) (x : Work), s.dev.on = true → tfind s.dev.rma.work work = some x →
  x.fired = true → x.outcome = some status → status ≠ 0 →
    exec (.workRequestComplete work status) s = .next (s.withDev (workDone s.chip work x status))) ∧
  ∀ (s : State) (work status : Nat) (x : Work), s.dev.on = true → tfind s.dev.rma.work work = some x →
  x.fired = true → x.outcome = some status → status = 0 → doneWaits s.dev work x = false →
    exec (.workRequestComplete work status) s = .next (s.withDev (workDone s.chip work x 0))

/-- Reports, suspicions, proposals, votes and grants (R346, R351, R352, R353, R354, R355, R356, R360). (1)
STATUS_REPORT_SEND of a LIVE node that never reported, or whose fields have changed, sends the report to its
domain's witnesses at once. (2) STATUS_REPORT_SEND of a node that is not LIVE changes nothing. (3) STATUS_REPORT
with a good body is the report of its sender. (4) STATUS_REPORT whose body has reserved bits set or whose count does
not fit is discarded and counted (the model's choice). (5) SUSPECT_SEND of a LIVE node that no link reaches reports
it, and the node is suspected from now on. (6) SUSPECT with a good body is the suspicion of its sender. (7)
SUSPECT_LAPSE drops the reporter's suspicion once it is 20,000,000 ticks old, and no other. (8)
REPORT_SILENCE_TIMEOUT at a witness looks whether the silent node is suspected and acts on it. (9)
PROPOSE_DELAY_EXPIRY at witness k, 100,000 k ticks after the oldest valid change was warranted, proposes it for the
next epoch to every witness. (10) PROPOSE with a good body is voted on. (11) VOTE counts for the proposal it names.
(12) PROPOSAL_ABANDON 100,000 ticks after PROPOSE without a majority gives the proposal up; witness k may propose
that change again after 100,000 (1 + k) ticks. (13) GRANT_LEASE_EXPIRY 1,100,000 ticks after a grant (lease and
guard) frees the witness to grant again. -/
def Obligations.WitnessMessages : Prop :=
  (∀ (s : State), s.dev.on = true → s.dev.firmware = true → s.dev.live s.dev.regs.nodeId = true →
  (s.dev.mbr.lastReport = none ∨ reportFields s.dev ≠ s.dev.mbr.reportBody) →
    exec .statusReportSend s = .next (s.withDev 
      ((sendAll s.dev (witnessesOf s.dev s.dev.mbr.domain) (reportFields s.dev)).onMbr fun m => { m with lastReport := some s.dev.now, reportBody := reportFields s.dev }))) ∧
  (∀ (s : State), s.dev.on = true → s.dev.live s.dev.regs.nodeId = false →
    exec .statusReportSend s = .next (s)) ∧
  (∀ (s : State) (msg : Nat) (m : Inb), s.dev.on = true → s.dev.firmware = true → s.dev.msg msg 0x40 = some m →
  mbBodyOk (msgBody m.bytes) = true →
    exec (.statusReport msg) s = .next (s.withDev (reportOp (s.dev.take msg) (msgSrc m.bytes) (msgBody m.bytes)))) ∧
  (∀ (s : State) (msg : Nat) (m : Inb), s.dev.on = true → s.dev.firmware = true → s.dev.msg msg 0x40 = some m →
  mbBodyOk (msgBody m.bytes) = false →
    exec (.statusReport msg) s = .next (s.withDev ((s.dev.take msg).onTr fun x => { x with stray := inc48 x.stray }))) ∧
  (∀ (s : State) (node : Nat) (m : Member), s.dev.on = true → s.dev.firmware = true →
  tfind s.dev.mbr.suspected node = some 0 → s.dev.member node = some m → (partners s.dev).contains node = false →
  m.live = true →
    exec (.suspectSend node) s = .next (s.withDev 
      ((sendSuspect s.dev node m true).onMbr fun x => { x with suspected := tins x.suspected node (s.dev.now + 1) }))) ∧
  (∀ (s : State) (msg : Nat) (m : Inb), s.dev.on = true → s.dev.firmware = true → s.dev.msg msg 0x41 = some m →
  mbBodyOk (msgBody m.bytes) = true →
    exec (.suspect msg) s = .next (s.withDev (suspectOp (s.dev.take msg) (msgSrc m.bytes) (msgBody m.bytes)))) ∧
  (∀ (s : State) (domain subject reporter : Nat), s.dev.on = true →
    exec (.suspectLapse domain subject reporter) s = .next (s.withDev 
      (s.dev.onDomain domain fun x => { x with suspicions := dropWhere (fun r => r.1 == subject && r.2.1 == reporter && s.dev.due r.2.2 20000000) x.suspicions }))) ∧
  (∀ (s : State) (domain subject : Nat), s.dev.on = true → s.dev.firmware = true → isWitness s.dev domain = true →
    exec (.reportSilenceTimeout domain subject) s = .next (s.withDev (suspectCheck s.dev domain subject))) ∧
  (∀ (s : State) (domain since after k : Nat) (c : Change) (rest : List (Change × Nat × Nat)), s.dev.on = true →
  ((s.dev.domain domain).warranted.filter (fun w => changeValid s.dev domain w.1) = (c, since, after) :: rest) →
  witnessIndex s.dev domain = some k → s.dev.firmware = true → (s.dev.domain domain).proposal = none →
  since + 100000 * k ≤ s.dev.now → after ≤ s.dev.now → frozen s.dev domain = false →
  (voters s.dev domain).contains s.dev.regs.nodeId = true →
    exec (.proposeDelayExpiry domain) s = .next (s.withDev (
      let w := { c with epoch := (s.dev.domain domain).epoch + 1 }
      let d := s.dev.onDomain domain fun x => { x with warranted := (c, since, after) :: rest, proposal := some { change := w, at_ := s.dev.now } }
      sendAll d (witnessesOf d domain) (changeBody 0x42 domain w 0)))) ∧
  (∀ (s : State) (msg : Nat) (m : Inb), s.dev.on = true → s.dev.firmware = true → s.dev.msg msg 0x42 = some m →
  mbBodyOk (msgBody m.bytes) = true →
    exec (.propose msg) s = .next (s.withDev (proposeOp (s.dev.take msg) (msgSrc m.bytes) (msgBody m.bytes)))) ∧
  (∀ (s : State) (msg : Nat) (m : Inb), s.dev.on = true → s.dev.firmware = true → s.dev.msg msg 0x43 = some m →
  onProbation (voteOp (s.dev.take msg) (msgSrc m.bytes) (msgBody m.bytes)) = false →
    exec (.vote msg) s = .next (s.withDev (voteOp (s.dev.take msg) (msgSrc m.bytes) (msgBody m.bytes)))) ∧
  (∀ (s : State) (domain k : Nat) (p : Proposal), s.dev.on = true → (s.dev.domain domain).proposal = some p →
  witnessIndex s.dev domain = some k → p.committed = false → p.at_ + 100000 ≤ s.dev.now →
    exec (.proposalAbandon domain) s = .next (s.withDev 
      (s.dev.onDomain domain fun x => { x with proposal := none, warranted := x.warranted.map fun w => if w.1.change = p.change.change ∧ w.1.subject = p.change.subject then (w.1, w.2.1, s.dev.now + 100000 * (1 + k)) else w }))) ∧
  ∀ (s : State) (domain g : Nat) (c : Change), s.dev.on = true → (s.dev.domain domain).grant = some (c, g) →
  g + 1100000 ≤ s.dev.now →
    exec (.grantLeaseExpiry domain) s = .next (s.withDev (s.dev.onDomain domain fun x => { x with grant := none }))

/-- Updates, pulls, joining, frozen domains and gossip (R345, R346, R348, R350, R360, R363, R381). (1) MEMBER_UPDATE
with a good body is the membership change it carries. (2) MEMBER_PULL with a good body is answered or passed on. (3)
JOIN with a good body asks for its sender's admission. (4) JOIN_SEND of a node that wants to join sends JOIN with
its epoch to its domain's witnesses. (5) FROZEN_DOMAIN_EVENT at a witness of a domain that has just frozen logs the
event. (6) LAST_REPLICA_SUSPECT_EVENT of a suspected node that holds a last replica logs the event in place of an
expulsion. (7) STRAGGLER_GOSSIP_SEND of an unbound composition changes nothing. (8) STRAGGLER_GOSSIP_SEND 10,000,000
ticks after the last one sends the node's service index, with the fresh ones it knows, to 4 nodes in rotation. (9)
STRAGGLER_GOSSIP for a composition bound here replaces the service indices it carries, the newest first and at most
255. -/
def Obligations.MembershipMessages : Prop :=
  (∀ (s : State) (msg : Nat) (m : Inb), s.dev.on = true → s.dev.firmware = true → s.dev.msg msg 0x44 = some m →
  mbBodyOk (msgBody m.bytes) = true →
  onProbation (updateOp (s.dev.take msg) (msgSrc m.bytes) (msgBody m.bytes)) = false →
    exec (.memberUpdate msg) s = .next (s.withDev (updateOp (s.dev.take msg) (msgSrc m.bytes) (msgBody m.bytes)))) ∧
  (∀ (s : State) (msg : Nat) (m : Inb), s.dev.on = true → s.dev.firmware = true → s.dev.msg msg 0x45 = some m →
  mbBodyOk (msgBody m.bytes) = true →
    exec (.memberPull msg) s = .next (s.withDev (pullOp (s.dev.take msg) m.bytes))) ∧
  (∀ (s : State) (msg : Nat) (m : Inb), s.dev.on = true → s.dev.firmware = true → s.dev.msg msg 0x46 = some m →
  mbBodyOk (msgBody m.bytes) = true →
    exec (.join msg) s = .next (s.withDev (joinOp (s.dev.take msg) (msgSrc m.bytes) (msgBody m.bytes)))) ∧
  (∀ (s : State), s.dev.on = true → mayJoin s.dev = true → s.dev.mbr.joinAt = none → nodeEpoch s.dev ≠ 0 →
    exec .joinSend s = .next (s.withDev 
      ((sendAll s.dev (witnessesOf s.dev s.dev.mbr.domain) (mbBody 0x46 0 s.dev.mbr.domain (nodeEpoch s.dev) s.dev.regs.nodeId 0 0 [])).onMbr fun m => { m with joinAt := some s.dev.now }))) ∧
  (∀ (s : State) (domain : Nat), s.dev.on = true → s.dev.firmware = true → isWitness s.dev domain = true →
  frozen s.dev domain = true → (s.dev.domain domain).frozenAt = none →
    exec (.frozenDomainEvent domain) s = .next (s.withDev 
      ((mbrEvent s.dev domain 0xFF 0 (s.dev.domain domain).epoch).onDomain domain fun x => { x with frozenAt := some s.dev.now }))) ∧
  (∀ (s : State) (domain subject : Nat), s.dev.on = true → s.dev.firmware = true → isWitness s.dev domain = true →
  isSuspected s.dev domain subject = true → lastReplica s.dev domain subject = true →
  tfind (s.dev.domain domain).lastReplicaAt subject = none →
    exec (.lastReplicaSuspectEvent domain subject) s = .next (s.withDev 
      ((mbrEvent s.dev domain 2 subject (s.dev.domain domain).epoch).onDomain domain fun x => { x with lastReplicaAt := tins x.lastReplicaAt subject s.dev.now }))) ∧
  (∀ (s : State) (comp : Nat), s.dev.on = true → tfind s.dev.mbr.compositions comp = none →
    exec (.stragglerGossipSend comp) s = .next (s)) ∧
  (∀ (s : State) (comp own : Nat) (k : Composition), s.dev.on = true → tfind s.dev.mbr.compositions comp = some k →
  s.dev.firmware = true → s.dev.due k.gossipAt 10000000 = true → serviceIndex s.dev comp = some own →
    exec (.stragglerGossipSend comp) s = .next (s.withDev (
      let others := ((k.indices.filter fun x => decide (s.dev.now < x.2.2 + 100000000)).take 31).map fun x => (x.1, 0, x.2.1)
      let ns := compNodes s.dev k.id
      let pick := (List.range (min 4 ns.length)).map fun i => ns.getD ((k.rotation + i) % ns.length) 0
      preferOp ((sendAll s.dev pick (mbBody 0x47 0 s.dev.mbr.domain k.id s.dev.regs.nodeId 0 0 ((s.dev.regs.nodeId, 0, own) :: others))).onMbr fun m => { m with compositions := tupd m.compositions comp fun x => { x with rotation := x.rotation + 4, gossipAt := s.dev.now } }) comp))) ∧
  ∀ (s : State) (msg c : Nat) (m : Inb), s.dev.on = true → s.dev.firmware = true → s.dev.msg msg 0x47 = some m →
  mbBodyOk (msgBody m.bytes) = true → compIndex (s.dev.take msg) (mbEpoch (msgBody m.bytes)) = some c →
    exec (.stragglerGossip msg) s = .next (s.withDev (
      let got := ((mbList (msgBody m.bytes)).filter (·.1 != s.dev.regs.nodeId)).map fun e => (e.1, e.2.2, s.dev.now)
      preferOp ((s.dev.take msg).onMbr fun m => { m with compositions := tupd m.compositions c fun x => { x with indices := (got ++ dropWhere (fun o => got.any (·.1 == o.1)) x.indices).take 255 } }) c))

/-- Home queries, record changes, handovers and shadow comparison (R366, R367, R369, R372, R373, R374, R375, R377,
R548). (1) HOME_QUERY of an object this node is home of is answered with the record; nothing else changes. (2)
HOME_QUERY of an object this node does not know is answered NO_SUCH_OBJECT. (3) HOME_REPLY answers for the query it
names. (4) SHARD_UPDATE with a good header and a sound record is taken into the mirror and into the shard, and
acknowledged with the shard's epoch. (5) SHARD_UPDATE whose record is refused changes no record: its only effect is
the acknowledgement. (6) SHARD_UPDATE whose header is refused changes no record: its only effect is the
acknowledgement. (7) SHARD_ACK answers for the record message it acknowledges. (8) HOME_RECORD_CHANGE at the home
rewrites the shards of nodes that are not LIVE. (9) HOME_RECORD_CHANGE at the home mirror of a home that is not LIVE
takes the record over, then rewrites its shards. (10) SHARD_WITHDRAW at the home takes the node out of the shard's
record and is acknowledged OK. (11) TAIL_OFFER is the offer of its sender, at the home or at the receiver. (12)
TAIL_ACCEPT answers for the offer it names. (13) HANDOVER_TIMEOUT 1,000,000 ticks after the offer ends the handover:
the tail is the offerer's again, and the guard starts. (14) SHADOW_COMPARE of a forwarded request with every part
from both sides counts a match or a mismatch. (15) SHADOW_COMPARISON_DEADLINE of a request with a part missing
counts a mismatch. (16) SHADOW_DIGEST compares the checksums it carries with this node's pages and is acknowledged.
(17) SHADOW_READY of a node that is not the shard's shadow is acknowledged NOT_OWNER and changes no record. (18)
SHADOW_READY is the report of its sender. -/
def Obligations.HomeRecordMessages : Prop :=
  (∀ (s : State) (msg : Nat) (m : Inb) (h : HomeRec), s.dev.on = true → s.dev.msg msg 0x50 = some m → m.stale = false →
  fld (msgBody m.bytes) 2 2 = msgTenant m.bytes → recHeadBad m.bytes = none →
  (s.dev.take msg).home (rmObj (msgBody m.bytes)) = some h → h.isHome = true →
    exec (.homeQuery msg) s = .next (s.withDev 
      (reply (s.dev.take msg) m 1 2 (recMsg 0x51 0 (rmObj (msgBody m.bytes)) (rmTag (msgBody m.bytes)) 0xFF 0 0 0 (recordBytes h))))) ∧
  (∀ (s : State) (msg : Nat) (m : Inb), s.dev.on = true → s.dev.msg msg 0x50 = some m → m.stale = false →
  fld (msgBody m.bytes) 2 2 = msgTenant m.bytes → recHeadBad m.bytes = none →
  (s.dev.take msg).home (rmObj (msgBody m.bytes)) = none → (s.dev.take msg).objAt (rmObj (msgBody m.bytes)) = none →
    exec (.homeQuery msg) s = .next (s.withDev 
      (reply (s.dev.take msg) m 1 2 (recMsg 0x51 0x20 (rmObj (msgBody m.bytes)) (rmTag (msgBody m.bytes)) 0xFF 0 0 0 [])))) ∧
  (∀ (s : State) (msg : Nat) (m : Inb), s.dev.on = true → s.dev.msg msg 0x51 = some m →
    exec (.homeReply msg) s = .next (s.withDev (homeReplyOp (s.chip.onDev fun d => d.take msg) m))) ∧
  (∀ (s : State) (msg : Nat) (m : Inb), s.dev.on = true → s.dev.msg msg 0x52 = some m → m.stale = false →
  recHeadBad m.bytes = none →
  carriedBad (s.dev.take msg) (rmObj (msgBody m.bytes)) (rmPayload (msgBody m.bytes)) (rmShard (msgBody m.bytes)) [(rmPayload (msgBody m.bytes)).drop 32] = none →
    exec (.shardUpdate msg) s = .next (s.withDev (
      let b := msgBody m.bytes
      let h := readRecord (rmPayload b)
      let x := readShard ((rmPayload b).drop 32)
      let r := takeShard (s.chip.onDev fun d => d.take msg) (takeMirror (s.dev.take msg) (rmObj b) (rmShard b) h x) (rmObj b) (rmShard b) h x
      reply r.2 m 1 2 (shardAckMsg m r.1 x.epoch)))) ∧
  (∀ (s : State) (msg st : Nat) (m : Inb), s.dev.on = true → s.dev.msg msg 0x52 = some m → m.stale = false →
  recHeadBad m.bytes = none →
  carriedBad (s.dev.take msg) (rmObj (msgBody m.bytes)) (rmPayload (msgBody m.bytes)) (rmShard (msgBody m.bytes)) [(rmPayload (msgBody m.bytes)).drop 32] = some st →
    exec (.shardUpdate msg) s = .next (s.withDev (ackShard (s.dev.take msg) m st))) ∧
  (∀ (s : State) (msg st : Nat) (m : Inb), s.dev.on = true → s.dev.msg msg 0x52 = some m → m.stale = false →
  recHeadBad m.bytes = some st →
    exec (.shardUpdate msg) s = .next (s.withDev (ackShard (s.dev.take msg) m st))) ∧
  (∀ (s : State) (msg : Nat) (m : Inb), s.dev.on = true → s.dev.msg msg 0x53 = some m →
    exec (.shardAck msg) s = .next (s.withDev (shardAckOp (s.dev.take msg) m))) ∧
  (∀ (s : State) (object : Nat) (h : HomeRec), s.dev.on = true → s.dev.home object = some h → h.isHome = true →
    exec (.homeRecordChange object) s = .next (s.withDev (deadNodes s.dev object))) ∧
  (∀ (s : State) (object : Nat) (h : HomeRec), s.dev.on = true → s.dev.home object = some h → h.isHome = false →
  h.mirror = some s.dev.regs.nodeId → s.dev.live h.home = false →
    exec (.homeRecordChange object) s = .next (s.withDev (deadNodes (takeOver s.chip object) object))) ∧
  (∀ (s : State) (msg : Nat) (m : Inb) (h : HomeRec), s.dev.on = true → s.dev.msg msg 0x56 = some m → m.stale = false →
  recHeadBad m.bytes = none → (s.dev.take msg).home (rmObj (msgBody m.bytes)) = some h → h.isHome = true →
  bitOf (rmFlags (msgBody m.bytes)) 2 = false →
    exec (.shardWithdraw msg) s = .next (s.withDev 
      (ackShard (loseNodes (s.dev.take msg) (rmObj (msgBody m.bytes)) (some (rmShard (msgBody m.bytes))) (· == rmNode (msgBody m.bytes))) m 0))) ∧
  (∀ (s : State) (msg : Nat) (m : Inb), s.dev.on = true → s.dev.msg msg 0x54 = some m →
    exec (.tailOffer msg) s = .next (s.withDev (tailOfferOp (s.chip.onDev fun d => d.take msg) m))) ∧
  (∀ (s : State) (msg : Nat) (m : Inb), s.dev.on = true → s.dev.msg msg 0x55 = some m →
    exec (.tailAccept msg) s = .next (s.withDev (tailAcceptOp (s.dev.take msg) m))) ∧
  (∀ (s : State) (object shard : Nat) (h : HomeRec) (p : Nat × Nat × Nat × Nat), s.dev.on = true →
  s.dev.home object = some h → h.isHome = true → h.handovers.find? (·.1 == shard) = some p →
  p.2.2.2 + 1000000 ≤ s.dev.now →
    exec (.handoverTimeout object shard) s = .next (s.withDev 
      (endHandover (s.dev.onHome object fun h => { h with guards := dropWhere (·.1 == shard) h.guards ++ [(shard, s.dev.now)] }) object shard))) ∧
  (∀ (s : State) (object shard request : Nat) (w : Shadowing) (c : Compared), s.dev.on = true →
  tfind s.dev.mbr.shadowings (object * 256 + shard) = some w → w.compared.find? (·.request == request) = some c →
  comparedWhole c = true →
    exec (.shadowCompare object shard request) s = .next (s.withDev 
      (compareDone s.chip object shard request (comparedEqual c)))) ∧
  (∀ (s : State) (object shard request : Nat) (w : Shadowing) (c : Compared), s.dev.on = true →
  tfind s.dev.mbr.shadowings (object * 256 + shard) = some w → w.compared.find? (·.request == request) = some c →
  comparedWhole c = false → c.until_ ≤ s.dev.now →
    exec (.shadowComparisonDeadline object shard request) s = .next (s.withDev 
      (compareDone s.chip object shard request false))) ∧
  (∀ (s : State) (msg : Nat) (m : Inb), s.dev.on = true → s.dev.msg msg 0x57 = some m →
    exec (.shadowDigest msg) s = .next (s.withDev (digestOp (s.chip.onDev fun d => d.take msg) m))) ∧
  (∀ (s : State) (msg : Nat) (m : Inb) (h : HomeRec), s.dev.on = true → s.dev.msg msg 0x58 = some m → m.stale = false →
  recHeadBad m.bytes = none → (s.dev.take msg).home (rmObj (msgBody m.bytes)) = some h → h.isHome = true →
  (h.shard (rmShard (msgBody m.bytes))).shadow ≠ some (rmNode (msgBody m.bytes)) →
    exec (.shadowReady msg) s = .next (s.withDev (ackShard (s.dev.take msg) m 0x51))) ∧
  ∀ (s : State) (msg : Nat) (m : Inb), s.dev.on = true → s.dev.msg msg 0x58 = some m →
    exec (.shadowReady msg) s = .next (s.withDev (shadowReadyOp (s.dev.take msg) m))

/-- Page fetches, images and recovery attempts (R49, R545, R548). (1) PAGE_FETCH of a page with no seal in progress is
answered. (2) PAGE_FETCH waits while a seal of the page is in progress. (3) PAGE_IMAGE with the tag of a fetch is
the image that the page's recovery waits for, and the tail offers that wait for its page are looked at again. (4)
PAGE_IMAGE with tag 0 is an image that a shadow takes in. (5) RECOVERY_ATTEMPT of a SUSPECT page with an active
recovery checks the image in place or fetches another. (6) PAGE_FETCH_TIMEOUT 100,000,000 ticks after the fetch, or
once it is known that no answer comes, fails the recovery, and the requests that wait for the page end. (7)
RECOVERY_RETRY 100,000,000 ticks after a failed attempt starts a new one. -/
def Obligations.PageRecovery : Prop :=
  (∀ (s : State) (msg : Nat) (m : Inb), s.dev.on = true → s.dev.msg msg 0x59 = some m →
  ((s.dev.obj.seals.any fun p => p.2.any (·.key == fld m.bytes 0x50 12)) = false) →
    exec (.pageFetch msg) s = .next (s.withDev (pageFetchOp (s.chip.onDev fun d => d.take msg) m))) ∧
  (∀ (s : State) (msg : Nat) (m : Inb), s.dev.on = true → s.dev.msg msg 0x59 = some m →
  ((s.dev.obj.seals.any fun p => p.2.any (·.key == fld m.bytes 0x50 12)) = true) →
    exec (.pageFetch msg) s = .next (s)) ∧
  (∀ (s : State) (msg key : Nat) (m : Inb) (r : Recovery), s.dev.on = true → s.dev.msg msg 0x5A = some m →
  m.stale = false → recHeadBad m.bytes = none → rmTag (msgBody m.bytes) ≠ 0 →
  fetchedBy (s.dev.take msg) (rmTag (msgBody m.bytes)) = some (key, r) →
    exec (.pageImage msg) s = .next (s.withChip (
      let k := recoveryImage (s.chip.onDev fun d => d.take msg) key (msgBody m.bytes) r
      ⟨offersAgain k, k.mem⟩))) ∧
  (∀ (s : State) (msg : Nat) (m : Inb), s.dev.on = true → s.dev.msg msg 0x5A = some m → m.stale = false →
  recHeadBad m.bytes = none → rmTag (msgBody m.bytes) = 0 →
    exec (.pageImage msg) s = .next (s.withChip (shadowImage (s.chip.onDev fun d => d.take msg) (msgBody m.bytes)))) ∧
  (∀ (s : State) (key : Nat) (r : Recovery), s.dev.on = true → tfind s.dev.obj.recoveries key = some r →
  r.active = true → r.fetching = none → r.installing = false → (s.dev.entry key).suspect = true →
    exec (.recoveryAttempt key) s = .next (s.withDev (offersAgain ⟨recoveryStep s.chip key r, s.mem⟩))) ∧
  (∀ (s : State) (key : Nat) (r : Recovery), s.dev.on = true → tfind s.dev.obj.recoveries key = some r →
  r.active = true → r.fetching.isSome = true → r.installing = false →
  (r.expired = true ∨ r.at_ + 100000000 ≤ s.dev.now) →
    exec (.pageFetchTimeout key) s = .next (s.withDev (recoveryFails s.dev key))) ∧
  ∀ (s : State) (key : Nat) (r : Recovery), s.dev.on = true → tfind s.dev.obj.recoveries key = some r →
  r.active = false → r.at_ + 100000000 ≤ s.dev.now →
    exec (.recoveryRetry key) s = .next (s.withDev 
      (s.dev.onObj fun x => { x with recoveries := tins x.recoveries key { active := true, at_ := s.dev.now, copyBack := r.copyBack } }))

/-- Moves between tiers, prefetches and freed runs (R52, R62, R159, R163, R165, R168, R169, R172). (1) MIGRATION_MOVE
starts the die's move of least rank that can go on. (2) MIGRATION_MOVE of a die that is not running changes nothing.
(3) MIGRATION_COMPLETE of an image that arrived in tier 2 switches the page's entry to it. (4) MIGRATION_COMPLETE of
a page that is no longer sealed gives the destination back and ends the move. (5) TIER2_WRITE_RETRY lets the page's
moves go on whose write failed 100,000,000 ticks ago, and changes nothing else. (6) PLACEMENT_SHORTFALL of a move
that has waited more than 100,000,000 ticks for room logs one event. (7) PREFETCH_READ_ISSUE, with fewer than 128
demand reads waiting and 32 prefetches outstanding, drops what is over from the queue, issues the nearest queued
prefetch that can go and takes it off the queue. (8) PREFETCH_READ_ISSUE with 128 demand reads waiting issues
nothing. (9) PREFETCH_COPY_ARRIVE of a copy with an uncorrectable burst in its image reports it and drops the copy.
(10) PREFETCH_COPY_ARRIVE of a copy that has not arrived changes nothing. (11) FREED_RUN_SCRUB of a freed run of
tier 1 that nothing reads writes it with zeros. (12) FREED_RUN_SCRUB of a run with a reader changes nothing. (13)
RUN_REFERENCE_DROP of a run that left its entry and has no reader frees it. -/
def Obligations.TierAndPrefetch : Prop :=
  (∀ (s : State) (die : Nat) (m : Move), s.dev.on = true → s.dev.ready die = true →
  leastRank ((dieMoves s.dev die).foldl noteMove s.dev) ((dieMoves ((dieMoves s.dev die).foldl noteMove s.dev) die).filter (movable ((dieMoves s.dev die).foldl noteMove s.dev))) = some m →
    exec (.migrationMove die) s = .next (s.withChip 
      (moveStart (s.chip.onDev fun d => (dieMoves d die).foldl noteMove d) m))) ∧
  (∀ (s : State) (die : Nat), s.dev.on = true → s.dev.ready die = false →
    exec (.migrationMove die) s = .next (s)) ∧
  (∀ (s : State) (move f n : Nat) (m : Move), s.dev.on = true → s.dev.obj.moves.find? (·.id == move) = some m →
  m.dst = some (2, f, n) → m.arrived = true → (s.dev.entry m.key).state = .sealed →
    exec (.migrationComplete move) s = .next (s.withDev (moveSwitch s.dev m 2 f n))) ∧
  (∀ (s : State) (move tier f n : Nat) (m : Move), s.dev.on = true → s.dev.obj.moves.find? (·.id == move) = some m →
  m.dst = some (tier, f, n) → m.arrived = true → (s.dev.entry m.key).state ≠ .sealed →
    exec (.migrationComplete move) s = .next (s.withDev (moveOver (freeDst s.dev m) m))) ∧
  (∀ (s : State) (key : Nat), s.dev.on = true →
    exec (.tier2WriteRetry key) s = .next (s.withDev (
      let p : Move → Bool := fun m => m.key == key && (match m.failedAt with | some w => s.dev.due w 100000000 | none => false)
      let f : Move → Move := fun m => { m with failedAt := none }
      s.dev.onObj fun x => { x with moves := modWhere p f x.moves }))) ∧
  (∀ (s : State) (move w : Nat) (m : Move), s.dev.on = true → s.dev.obj.moves.find? (·.id == move) = some m →
  m.waitAt = some w → m.told = false → w + 100000001 ≤ s.dev.now →
    exec (.placementShortfall move) s = .next (s.withDev 
      (placementEvent (s.dev.onMove move fun m => { m with told := true }) (keyObj m.key) 2))) ∧
  (∀ (s : State) (die : Nat), s.dev.on = true → s.dev.ready die = true → demandWaiting s.dev die < 128 →
  prefetchOut s.dev die < 32 →
    exec (.prefetchReadIssue die) s = .next (s.withDev (
      let d := s.dev.onObj fun x => { x with prefetch := tmod [] x.prefetch die fun l => dropWhere (prefetchOver s.dev die) l }
      let q := issueFirst s.chip die (nearFirst (tget [] s.dev.obj.prefetch die)) d
      match q.1 with | some p => q.2.onObj fun x => { x with prefetch := tmod [] x.prefetch die fun l => l.erase p } | none => q.2))) ∧
  (∀ (s : State) (die : Nat), s.dev.on = true → s.dev.ready die = true → 128 ≤ demandWaiting s.dev die →
    exec (.prefetchReadIssue die) s = .next (s)) ∧
  (∀ (s : State) (copy : Nat) (c : Copy) (b : Nat) (rest : List Nat), s.dev.on = true →
  s.dev.obj.copies.find? (·.id == copy) = some c → c.arrived = true → c.ready = false →
  badBursts s.dev (4096 * c.frame) (imageLen false (keyGeom s.chip c.key (runKey 1 c.frame)) (readTier1 s.chip (4096 * c.frame) 128) c.count) = b :: rest →
    exec (.prefetchCopyArrive copy) s = .next (s.withDev 
      (dropCopy (badFound s.dev (b :: rest) 2 (keyTenant c.key) 0x23) copy))) ∧
  (∀ (s : State) (copy : Nat) (c : Copy), s.dev.on = true → s.dev.obj.copies.find? (·.id == copy) = some c →
  c.arrived = false →
    exec (.prefetchCopyArrive copy) s = .next (s)) ∧
  (∀ (s : State) (frame : Nat) (r : Run), s.dev.on = true → tfind s.dev.obj.runs frame = some r → r.use = .freed →
  r.scrubbing = false → r.refs = 0 → runTier frame = 1 →
  sliceReady s.dev (runFrame frame / (48 * granFrames)) = true →
  s.dev.ready (dieOfSlice (runFrame frame / (48 * granFrames))) = true →
    exec (.freedRunScrub frame) s = .next (s.withChip (scrubTier1 s.chip (runFrame frame) r.count r.tenant))) ∧
  (∀ (s : State) (frame : Nat) (r : Run), s.dev.on = true → tfind s.dev.obj.runs frame = some r → r.refs ≠ 0 →
    exec (.freedRunScrub frame) s = .next (s)) ∧
  ∀ (s : State) (frame : Nat) (r : Run), s.dev.on = true → tfind s.dev.obj.runs frame = some r → r.left = true →
  r.refs = 0 →
    exec (.runReferenceDrop frame) s = .next (s.withDev (s.dev.onRun frame freedRun))

/-- Row operations and their jobs (R213, R214, R215, R216, R217). (1) ROW_OP_START of a slice under its limit starts
the next row operation in its bank. (2) ROW_OP_START of a slice at its limit starts nothing. (3) ROW_OP_COMPLETE of
a running slice ends the row operation of the bank: its row is written and counted. (4) ROW_OP_COMPLETE of a bank
with no row operation changes nothing. (5) BANKOP_JOB_COMPLETE of a command's job with every row operation complete
drops the job and answers its row operations and its pauses. -/
def Obligations.RowOperations : Prop :=
  (∀ (s : State) (slice : Nat) (j : Job) (o : RowOp), s.dev.on = true → s.dev.ready (dieOfSlice slice) = true →
  slice < 64 → sliceRuns s.dev slice < bankLimit s.dev slice → nextOp (notePauses s.dev slice) slice = some (j, o) →
    exec (.rowOpStart slice) s = .next (s.withDev 
      (((notePauses s.dev slice).onJob j.id fun j => { j with started := tput false j.started o.n true }).onRow fun x => { x with running := tins x.running (16 * slice + unitBank o.dst) (j.id, o) }))) ∧
  (∀ (s : State) (slice : Nat), s.dev.on = true → bankLimit s.dev slice ≤ sliceRuns s.dev slice →
    exec (.rowOpStart slice) s = .next (s)) ∧
  (∀ (s : State) (slice bank : Nat), s.dev.on = true → s.dev.ready (dieOfSlice slice) = true →
    exec (.rowOpComplete slice bank) s = .next (s.withChip (rowOpDone s.chip slice bank))) ∧
  (∀ (s : State) (slice bank : Nat), s.dev.on = true → tfind s.dev.row.running (16 * slice + bank) = none →
    exec (.rowOpComplete slice bank) s = .next (s)) ∧
  ∀ (s : State) (job ring index : Nat) (j : Job), s.dev.on = true → s.dev.job job = some j →
  j.use = .command ring index → j.completed.length = jobSize j →
    exec (.bankopJobComplete job) s = .next (s.withDev 
      (cmdDone (jobDrop s.dev j) ring index 0 (jobSize j + 4294967296 * j.pauses)))

/-- Burst reads, partial writes, refresh, temperature and patrol (R176, R180, R184, R190, R191, R193, R194, R392,
R546). (1) MEMORY_READ_COMPLETE of a burst of tier 1 counts the read and checks what was read against its check
bits. (2) MEMORY_READ_COMPLETE of a burst beyond the 3,072 GiB of tier 1 faults: there is no such address. (3)
PARTIAL_BURST_WRITE beyond tier 1 faults. (4) PARTIAL_BURST_WRITE of the host through the HDM window is the host's
write. (5) PARTIAL_BURST_WRITE of one of the node's engines, over sound bursts, writes the bytes. (6) REFRESH_DUE of
a bank in its turn that a row operation occupies is owed, at most 2, and the turn passes on. (7) REFRESH_DUE of a
free bank in its turn issues it with the refreshes the bank owes. (8) REFRESH_MANAGEMENT_REQUEST of a free bank
issues it at once. (9) REFRESH_MANAGEMENT_REQUEST of a bank that a row operation occupies counts as one owed
refresh. (10) DEVICE_TEMP_READ up to 95 °C records the temperature and its tick and changes nothing else. (11)
DEVICE_TEMP_READ above 95 °C also logs the event and the CXL warning. (12) IMPEDANCE_RECAL every 50,000,000 ticks
recalibrates the channel. (13) DQ_TRACKING every 10,000 ticks tracks the channel and counts it. (14) DQ_TRACKING
earlier, with less than 2 °C of change, changes nothing. (15) PATROL_READ every 2,000 ticks reads the sub-channel's
next burst of a checked granule, counts it and checks it, and counts the sweep at its end. (16) PATROL_READ before
2,000 ticks have passed reads nothing. -/
def Obligations.MemoryCommands : Prop :=
  (∀ (s : State) (burst : Nat) (error : Bytes) (reader : Reader), s.dev.on = true → 32 * burst < 3298534883328 →
  addrReady s.dev (32 * burst) = true →
    exec (.memoryReadComplete burst error reader) s = .next (s.withDev 
      (burstRead (count (setBurstError s.dev burst (padTo 36 error)) (addrDie (32 * burst)) (0x0C00 + chanOfDie (32 * burst)) 1) burst reader))) ∧
  (∀ (s : State) (burst : Nat) (error : Bytes) (reader : Reader), s.dev.on = true → 3298534883328 ≤ 32 * burst →
    exec (.memoryReadComplete burst error reader) s = .fault .noSuchAddress) ∧
  (∀ (s : State) (addr : Nat) (data : Bytes) (host : Bool), s.dev.on = true → 3298534883328 < addr + data.length →
    exec (.partialBurstWrite addr data host) s = .fault .noSuchAddress) ∧
  (∀ (s : State) (addr : Nat) (data : Bytes) (host : Bool), s.dev.on = true → addr + data.length ≤ 3298534883328 →
  host = true → s.dev.hdm = true → s.dev.hif.cohFailed = false →
    exec (.partialBurstWrite addr data host) s = .next (s.withChip (hostWrite s.chip addr data))) ∧
  (∀ (s : State) (addr : Nat) (data : Bytes) (host : Bool), s.dev.on = true → addr + data.length ≤ 3298534883328 →
  host = false → addrReady s.dev addr = true → writeBlocked s.dev addr data.length = [] →
    exec (.partialBurstWrite addr data host) s = .next (s.withChip (nodeWrite s.chip addr data))) ∧
  (∀ (s : State) (bank : Nat), s.dev.on = true → chanUp s.dev (bankChannel bank) = true →
  refreshDueNow s.dev bank = true → bankBusy s.dev bank = true → tget 0 s.dev.lp.owed bank < 2 →
    exec (.refreshDue bank) s = .next (s.withDev 
      ((refreshTurn s.dev bank).onLp fun x => { x with owed := tput 0 x.owed bank (tget 0 s.dev.lp.owed bank + 1) }))) ∧
  (∀ (s : State) (bank : Nat), s.dev.on = true → chanUp s.dev (bankChannel bank) = true →
  refreshDueNow s.dev bank = true → bankBusy s.dev bank = false →
    exec (.refreshDue bank) s = .next (s.withDev 
      (issueRefresh (refreshTurn s.dev bank) bank (tget 0 s.dev.lp.owed bank + 1)))) ∧
  (∀ (s : State) (bank : Nat), s.dev.on = true → chanUp s.dev (bankChannel bank) = true → bankBusy s.dev bank = false →
    exec (.refreshManagementRequest bank) s = .next (s.withDev (issueRefresh s.dev bank 1))) ∧
  (∀ (s : State) (bank : Nat), s.dev.on = true → chanUp s.dev (bankChannel bank) = true → bankBusy s.dev bank = true →
    exec (.refreshManagementRequest bank) s = .next (s.withDev 
      (s.dev.onLp fun x => { x with management := tput false x.management bank true, owed := tput 0 x.owed bank (min 2 (tget 0 x.owed bank + 1)) }))) ∧
  (∀ (s : State) (device : Nat) (celsius : Int), s.dev.on = true → chanUp s.dev (device / 4) = true →
  tget 0 s.dev.lp.tempAt device + 100000 ≤ s.dev.now → celsius ≤ 95 →
    exec (.deviceTempRead device celsius) s = .next (s.withDev 
      (s.dev.onLp fun x => { x with temp := tput 25 x.temp device celsius, tempAt := tput 0 x.tempAt device s.dev.now }))) ∧
  (∀ (s : State) (device : Nat) (celsius : Int), s.dev.on = true → chanUp s.dev (device / 4) = true →
  tget 0 s.dev.lp.tempAt device + 100000 ≤ s.dev.now → 95 < celsius →
    exec (.deviceTempRead device celsius) s = .next (s.withDev 
      (cxlWarn (logEv (s.dev.onLp fun x => { x with temp := tput 25 x.temp device celsius, tempAt := tput 0 x.tempAt device s.dev.now }) 0x0204 (device / 4 / 8) (toLe 1 (device / 4 % 8) ++ toLe 1 celsius.toNat)) { kind := 2, dpa := 0, type := 0, transaction := 0, detail := [celsius.toNat] }))) ∧
  (∀ (s : State) (channel : Nat), s.dev.on = true → chanUp s.dev channel = true →
  tget 0 s.dev.lp.impedanceAt channel + 50000000 ≤ s.dev.now →
    exec (.impedanceRecal channel) s = .next (s.withDev 
      (s.dev.onLp fun x => { x with impedanceAt := tput 0 x.impedanceAt channel s.dev.now }))) ∧
  (∀ (s : State) (channel : Nat) (celsius : Int), s.dev.on = true → chanUp s.dev channel = true →
  tget 0 s.dev.lp.trackAt channel + 10000 ≤ s.dev.now →
    exec (.dqTracking channel celsius) s = .next (s.withDev 
      (count (s.dev.onLp fun x => { x with trackAt := tput 0 x.trackAt channel s.dev.now, trackTemp := tput 25 x.trackTemp channel celsius }) (channel / 8) (0x0C60 + channel % 8) 1))) ∧
  (∀ (s : State) (channel : Nat) (celsius : Int), s.dev.on = true →
  s.dev.now < tget 0 s.dev.lp.trackAt channel + 10000 → (celsius - tget 25 s.dev.lp.trackTemp channel).natAbs < 2 →
    exec (.dqTracking channel celsius) s = .next (s)) ∧
  (∀ (s : State) (sub : Nat), s.dev.on = true → sub < 256 → chanUp s.dev (sub / 2) = true →
  tget 0 s.dev.lp.patrolTick sub + 2000 ≤ s.dev.now →
  isBankOp s.dev (granuleNo (patrolAddr sub (patrolFind s.dev sub (s.dev.obj.runs.length + 49) (tget 0 s.dev.lp.patrolAt sub)))) = false →
  patrolWaits s.dev sub (patrolAddr sub (patrolFind s.dev sub (s.dev.obj.runs.length + 49) (tget 0 s.dev.lp.patrolAt sub))) = false →
    exec (.patrolRead sub) s = .next (s.withDev (
      let pos := patrolFind s.dev sub (s.dev.obj.runs.length + 49) (tget 0 s.dev.lp.patrolAt sub)
      let d := s.dev.onLp fun x => { x with patrolTick := tput 0 x.patrolTick sub s.dev.now, patrolAt := tput 0 x.patrolAt sub ((pos + 1) % subBursts), sweeps := if pos + 1 = subBursts ∨ pos < tget 0 x.patrolAt sub then tmod 0 x.sweeps sub (· + 1) else x.sweeps }
      burstRead (count (count d (sub / 2 / 8) (0x0C40 + sub / 2 % 8) 1) (sub / 2 / 8) (0x0C00 + sub / 2 % 8) 1) (patrolAddr sub pos / 32) .patrol))) ∧
  ∀ (s : State) (sub : Nat), s.dev.on = true → s.dev.now < tget 0 s.dev.lp.patrolTick sub + 2000 →
    exec (.patrolRead sub) s = .next (s)

/-- Scrubbing the match entries (R248, R250, R538). (1) MATCH_SCRUB before the match is ready changes nothing. (2)
MATCH_SCRUB of an entry whose copies are both bad makes the entry invalid and writes the event of kind 4. (3)
MATCH_SCRUB every 10 ticks compares the next entry with its copy; where they agree it only goes on. (4)
SELF_REFRESH_EXIT of an initialised die makes every channel ready but those that failed before or now. -/
def Obligations.MatchMaintenance : Prop :=
  (∀ (s : State) (die : Nat), s.dev.on = true → s.dev.mat.ready = false →
    exec (.matchScrub die) s = .next (s)) ∧
  (∀ (s : State) (die : Nat) (k : Chip), s.dev.on = true → s.dev.ready die = true → s.dev.mat.ready = true → 28 ≤ die →
  die ≤ 29 → tget 0 s.dev.mat.scrubAt die + 10 ≤ s.dev.now →
  (readCopy (s.chip.onDev fun d => (count d die 0x2420 1).onMat fun m => { m with scrubNext := tput 0 m.scrubNext die ((tget 0 s.dev.mat.scrubNext die + 1) % dieEntries), scrubAt := tput 0 m.scrubAt die d.now }) (matIndex die (tget 0 s.dev.mat.scrubNext die)) = (none, k)) →
    exec (.matchScrub die) s = .next (s.withChip 
      (k.onDev fun d => mismatch (if (tfind d.mat.entries (matIndex die (tget 0 s.dev.mat.scrubNext die))).isSome then putEntry d (matIndex die (tget 0 s.dev.mat.scrubNext die)) none else d) die (tget 0 s.dev.mat.scrubNext die) 4))) ∧
  (∀ (s : State) (die : Nat) (k : Chip) (b : Bytes), s.dev.on = true → s.dev.ready die = true →
  s.dev.mat.ready = true → 28 ≤ die → die ≤ 29 → tget 0 s.dev.mat.scrubAt die + 10 ≤ s.dev.now →
  (readCopy (s.chip.onDev fun d => (count d die 0x2420 1).onMat fun m => { m with scrubNext := tput 0 m.scrubNext die ((tget 0 s.dev.mat.scrubNext die + 1) % dieEntries), scrubAt := tput 0 m.scrubAt die d.now }) (matIndex die (tget 0 s.dev.mat.scrubNext die)) = (some b, k)) →
  tfind k.dev.mat.entries (matIndex die (tget 0 s.dev.mat.scrubNext die)) = readCopyBytes b →
    exec (.matchScrub die) s = .next (s.withChip (k))) ∧
  ∀ (s : State) (die failed : Nat), s.dev.on = true → tget false s.dev.lp.done die = true →
  tget 0 s.dev.lp.readyCh die = 0 → s.dev.ready die = true →
    exec (.selfRefreshExit die failed) s = .next (s.withDev 
      (s.dev.onLp fun x => { x with readyCh := tput 0 x.readyCh die (255 - (tget 0 s.dev.lp.failedCh die ||| (failed % 256))), failedCh := tput 0 x.failedCh die (tget 0 s.dev.lp.failedCh die ||| (failed % 256)), selfRefresh := tput false x.selfRefresh die false }))

/-- A step with a command in front is that command's effect on the state with the queue's rest. The queue is the
model's own form of the commands that reach the block (notes/assumptions/2.md). -/
def Obligations.StepRunsTheFrontCommand : Prop :=
  ∀ (c : Instr) (rest : List Instr) (s : State), step { s with pending := c :: rest } = exec c { s with pending := rest }

/-- That an empty queue lets one tick pass is the model's choice (notes/assumptions/1.md): the reference tick advances
by 1, and tier 1, the fuses, the flash and the queue stay; without power nothing happens. -/
def Obligations.IdleStepIsATick : Prop :=
  (∀ s : State, s.pending = [] → s.dev.on = true →
    Answers (step s) fun t => t.dev.now = s.dev.now + 1 ∧ SameRest s t ∧ t.dev.on = true) ∧
  (∀ s : State, s.pending = [] → s.dev.on = false → step s = .next s)

/-- R9, for power-good and for a module reset from any state: the links are DISABLED, which is electrical idle; no
controller of LPDDR6 has run its initialisation; the arrays are off; the host link is not up, neither CXL.cache nor
CXL.mem is enabled, no ring is enabled, and the associative match is off. -/
def Obligations.ResetLeavesEverythingDisabled : Prop :=
  ∀ (s : State) (d : Dev), d = State.reset.dev ∨ d = s.moduleReset.dev →
    (∀ n, (d.link n).state = .disabled) ∧
    (∀ die, tget false d.lp.done die = false ∧ tget 0 d.lp.running die = 0 ∧ tget 0 d.lp.readyCh die = 0) ∧
    (d.regs.arrays = 0 ∧ d.regs.links = 0 ∧ d.regs.memEnable = 0 ∧ d.regs.matEnable = false ∧ d.mat.ready = false) ∧
    (d.hif.link = .down ∧ d.hif.cacheEn = false ∧ d.hif.memEn = false ∧ d.hdm = false) ∧
    ∀ ring, (d.ring ring).state = .disabled

/-- The memory of State.reset and of every module reset lists nothing (that a byte of tier 1 which nothing has written
reads as 0 is the model's choice, notes/assumptions/6.md), and the fuses and the flash are kept. -/
def Obligations.ResetClearsTier1 : Prop :=
  State.reset.MemOk ∧ State.reset.mem = [] ∧ State.reset.pending = [] ∧
    ∀ s : State, s.moduleReset.mem = [] ∧ s.moduleReset.MemOk ∧ s.moduleReset.nv = s.nv ∧ s.moduleReset.pending = s.pending ∧
      s.moduleReset.dev.now = 0

/-- No command changes the queue of waiting commands: the effect of a command is on everything but the queue. -/
def Obligations.QueueKept : Prop :=
  ∀ (i : Instr) (s t : State), exec i s = .next t → t.pending = s.pending

/-- R29: without power no command has an effect, but for those of the power input and the module's connector. That a
command which the hardware cannot take leaves the state as it is, is the model's reading (notes/assumptions/2.md).
-/
def Obligations.UnpoweredModuleIsInert : Prop :=
  ∀ (i : Instr) (s : State), powerRow i = false → s.dev.on = false → exec i s = .next s

/-- Every command answers a next state in every state, but for the four that name an address: they fault where tier 1
has no such address, and no command is ever refused. -/
def Obligations.OnlyMissingAddressesStop : Prop :=
  (∀ (i : Instr) (s : State), addressRow i = false → ∃ t, exec i s = .next t) ∧
  (∀ (i : Instr) (s : State), addressRow i = true → (∃ t, exec i s = .next t) ∨ exec i s = .fault .noSuchAddress) ∧
  ∀ (i : Instr) (s : State) (r : Refusal), exec i s ≠ .refused r

/-- Every byte of tier 1 is as it was after any command that is neither one of the stores (storeRow) nor one that can
clear the module (resetRow). -/
def Obligations.Tier1Frame : Prop :=
  ∀ (i : Instr) (s t : State), storeRow i = false → resetRow i = false → exec i s = .next t →
    t.mem = s.mem ∧ ∀ a, memByte t.mem a = memByte s.mem a

/-- The fuses and the flash are as they were after any command that is not one of boot, firmware, SPDM or PLDM
(flashRow); a mailbox write of BAR0 can be such a command. -/
def Obligations.FlashFrame : Prop :=
  ∀ (i : Instr) (s t : State), flashRow i = false → exec i s = .next t → t.nv = s.nv

/-- From every state whose tier-1 memory is in canonical form (addresses rising, no byte listed that reads as its
reset value), any step that answers a next state keeps that form: equal contents of tier 1 are equal data. The form
is the model's own. -/
def Obligations.MemoryStaysCanonical : Prop :=
  ∀ s t : State, s.MemOk → step s = .next t → t.MemOk

/-- Whatever the step: the unique device secret and the two key digests stay, a revoked key stays revoked, the fused
security version never falls, and the FRU EEPROM stays as it was. -/
def Obligations.FusesOnlyBlow : Prop :=
  ∀ s t : State, step s = .next t → FusesKept s.nv t.nv

/-- PARTIAL_BURST_WRITE of one of the node's engines, where the channel is in service, no host cache holds a line, no
row operation runs and no earlier store waits there, and the bursts hold no error: each byte of the store reads as
it was written, and every other byte of tier 1 reads as before. -/
def Obligations.EngineStore : Prop :=
  ∀ (s : State) (addr : Nat) (data : Bytes), s.MemOk → s.dev.on = true → addr + data.length ≤ 3298534883328 →
    addrReady s.dev addr = true → filteredLines s.dev addr data.length = [] → writeWaits s.dev addr data.length = false → s.dev.lp.errors = [] →
    Answers (exec (.partialBurstWrite addr data false) s) fun t =>
      (∀ a, addr ≤ a → a < addr + data.length → memByte t.mem a = data.getD (a - addr) 0) ∧
      (∀ a, a < addr ∨ addr + data.length ≤ a → memByte t.mem a = memByte s.mem a) ∧
      t.MemOk ∧ t.nv = s.nv ∧ t.pending = s.pending

/-- PARTIAL_BURST_WRITE of one of the node's engines, where none of its bursts is blocked by an uncorrectable error,
writes no byte yet if the host may cache one of its lines, if a row operation runs on its subarray, or if an earlier
store of the same run still waits: it joins the end of the waiting stores with those lines. -/
def Obligations.EngineStoreWaits : Prop :=
  ∀ (s : State) (addr : Nat) (data : Bytes), s.dev.on = true → addr + data.length ≤ 3298534883328 →
    addrReady s.dev addr = true → writeBlocked s.dev addr data.length = [] →
    filteredLines s.dev addr data.length ≠ [] ∨ writeWaits s.dev addr data.length = true →
    Answers (exec (.partialBurstWrite addr data false) s) fun t =>
      SameRest s t ∧ t.dev.hif.waiting =
        s.dev.hif.waiting ++ [{ addr := addr, data := data, lines := filteredLines s.dev addr data.length }]

/-- HOST_HDM_READ of a line in a subarray under a row operation, with no store of the node waiting and room in the
snoop filter, delivers nothing yet: the read joins the waiting reads, and no byte of tier 1 changes. -/
def Obligations.HostReadWaits : Prop :=
  ∀ (s : State) (addr : Nat), s.dev.on = true → s.dev.hdm = true → s.dev.hif.cohFailed = false → addr < 3298534883328 →
    addrReady s.dev (addr / 64 * 64) = true → s.dev.hif.waiting = [] →
    (tget [] s.dev.hif.filter (addrDie (addr / 64 * 64))).length < 16384 → rangeBusy s.dev (addr / 64 * 64) 64 = true →
    Answers (exec (.hostHdmRead addr) s) fun t =>
      SameRest s t ∧ t.dev.hif.hostReads = s.dev.hif.hostReads ++ [(addr / 64 * 64, none)] ∧ t.dev.hif.pin = s.dev.hif.pin

/-- A read of the setup part of BAR0, which no row of the command table names, is a function of the block as it stands
(notes/assumptions/110.md). Of a register that is served: (1) each field reads its current value; (2) every other
bit is reserved and reads 0; (3) GLB_ID reads the device's identity with STEPPING 0x02; (4) a write-only register
(SEC_MBOX_CMD) and an offset of no register read 0; (5) LNK_ESCAPE_WAIT reads back a value in its range that
REGISTER_WRITE wrote. -/
def Obligations.RegisterReads : Prop :=
  (∀ (d : Dev) (offset : Nat), regServed d offset = true → offset % 8 = 0 →
    (∀ f ∈ regFields d offset, regRead d offset / 2 ^ f.lo % 2 ^ f.width = f.value % 2 ^ f.width) ∧
    ∀ bit, (regRead d offset).testBit bit = true → ∃ f ∈ regFields d offset, f.lo ≤ bit ∧ bit < f.lo + f.width) ∧
  (∀ d : Dev, regRead d 0 = 0x000230721F8A0001 ∧ regRead d 0x7010 = 0) ∧
  (∀ (d : Dev) (offset : Nat), 0x9000 ≤ offset → offset < 0x10000 ∨ 0x11040 ≤ offset → regRead d offset = 0) ∧
  ∀ (s : State) (v : BitVec 64), s.dev.on = true → s.dev.bar = true → s.dev.regs.lock = false →
    regServed s.dev 0x3018 = true → 10 ≤ bitsOf v.toNat 0 14 → bitsOf v.toNat 0 14 ≤ 10000 →
    Answers (exec (.registerWrite 0x3018 v 8) s) fun t => regRead t.dev 0x3018 = bitsOf v.toNat 0 14

/-- R11: REGISTER_WRITE of another size than 8 bytes, or at an offset that is not a multiple of 8, logs the write as
an event with its offset and size and changes nothing else; in particular no register. -/
def Obligations.MisplacedRegisterWrite : Prop :=
  ∀ (s : State) (offset size : Nat) (value : BitVec 64), s.dev.on = true → s.dev.bar = true → offset < 0x80000 →
    size ≠ 8 ∨ offset % 8 ≠ 0 →
    exec (.registerWrite offset value size) s =
      .next (s.withDev (logEv s.dev 0x0101 30 (toLe 4 offset ++ toLe 1 size))) ∧
    (logEv s.dev 0x0101 30 (toLe 4 offset ++ toLe 1 size)).regs = s.dev.regs

/-- R227, over every 160-bit VALUE, CARE, key and mask: a valid entry matches exactly when for every bit M[i] is 1, or
CARE[i] is 0, or VALUE[i] equals K[i]. Only valid entries stand in the table of a die. -/
def Obligations.EntryMatches : Prop :=
  ∀ (v c k m : BitVec 160) (action prio : Nat),
    entryMatches { value := v.toNat, care := c.toNat, action := action, prio := prio } k.toNat m.toNat = true ↔
      ∀ i : Fin 160, m.getLsbD i = true ∨ c.getLsbD i = false ∨ v.getLsbD i = k.getLsbD i

/-- R230, for every table whatever its order: the entry a search answers, with its ACTION, is one of the named
partition that matches, and none that matches there has a lower index; a search that misses has no matching entry in
the partition. -/
def Obligations.LowestEntryWins : Prop :=
  ∀ (d : Dev) (die part key mask : Nat),
    (∀ i e, matSearch d die part key mask = some (i, e) →
      (i, e) ∈ dieTab d die ∧ (partRange d part).1 ≤ i ∧ i < (partRange d part).2 ∧ entryMatches e key mask = true ∧
      ∀ j f, (j, f) ∈ dieTab d die → (partRange d part).1 ≤ j → j < (partRange d part).2 → entryMatches f key mask = true →
        i ≤ j) ∧
    (matSearch d die part key mask = none →
      ∀ j f, (j, f) ∈ dieTab d die → (partRange d part).1 ≤ j → j < (partRange d part).2 → entryMatches f key mask = false)

/-- R81, for every context and every row: a node of level k + 1 is the merge of its two children, left first; and a
node under which every page's partial of every row is the empty one has the empty partial. -/
def Obligations.TreeNodes : Prop :=
  ∀ (c : Ctx) (rows dim k i : Nat),
    nodeRows c rows dim (k + 1) i =
      List.zipWith mergePartial (nodeRows c rows dim k (2 * i)) (nodeRows c rows dim k (2 * i + 1)) ∧
    ((∀ p ∈ c.partials, p.1 / 16 / 2 ^ k = i → ∀ r < rows, p.2.getD r (emptyPartial dim) = emptyPartial dim) →
      nodeRows c rows dim k i = List.replicate rows (emptyPartial dim))

/-- R70, for a message and for a local command: a request that passes the checks before it (Table 04-5), on a slot
with none running, and whose SCORE_SCALE is negative, or zero or subnormal (exponent field 0), or infinite or NaN
(exponent field 255), is refused with FIELD_INVALID. -/
def Obligations.ScaleRefused : Prop :=
  ∀ s : State, s.dev.on = true →
    (∀ (msg : Nat) (m : Inb), s.dev.msg msg 0x23 = some m → m.stale = false →
      firstFail (requestChecks1 (s.dev.take msg) (msgBody m.bytes) (senderOf m)) = none →
      s.dev.request (aqSlot (msgBody m.bytes) % 65536) = none →
      (2 ^ 31 ≤ fld (msgBody m.bytes) 0x28 4 ∨ fld (msgBody m.bytes) 0x28 4 / 2 ^ 23 % 256 = 0 ∨
        fld (msgBody m.bytes) 0x28 4 / 2 ^ 23 % 256 = 255) →
      exec (.attnRequest msg) s = .next (s.withDev (campionDies.foldl giveWithheld <|
        refuseRequest ((s.dev.take msg).onSlot (aqSlot (msgBody m.bytes) % 65536) fun x =>
          { x with leaseAt := max x.leaseAt m.at_, guardAt := none }) (msgBody m.bytes) (senderOf m).tenant (backOf m) 0x11 m.at_))) ∧
    ∀ (ring index : Nat) (c : Cmd), s.dev.cmdReady ring index 0x1D = some c → fld c.desc 0x10 1 = 1 → fld c.buf 0 1 = 0x23 →
      firstFail (requestChecks1 (s.dev.onCmd ring index fun x => { x with phase := .running }) c.buf (localSender s.dev c)) = none →
      s.dev.request (aqSlot c.buf % 65536) = none →
      (2 ^ 31 ≤ fld c.buf 0x28 4 ∨ fld c.buf 0x28 4 / 2 ^ 23 % 256 = 0 ∨ fld c.buf 0x28 4 / 2 ^ 23 % 256 = 255) →
      exec (.localRequest ring index) s = .next (s.withDev (
        refuseRequest ((s.dev.onCmd ring index fun x => { x with phase := .running }).onSlot (aqSlot c.buf % 65536) fun x =>
          { x with leaseAt := max x.leaseAt s.dev.now, guardAt := none }) c.buf (localSender s.dev c).tenant
          { conn := goneConn, cmd := some (ring, index) } 0x11 s.dev.now))

/-- R33: an object's geometry is accepted only with a raw page of at most 262,144 bytes, and OBJ_CREATE of a record
whose other geometry codes are good, whose earlier checks pass, and whose raw page is larger ends FIELD_INVALID. -/
def Obligations.PageSizeLimit : Prop :=
  (∀ fmt t hkv dim layers : Nat, geomCheck fmt t hkv dim layers = none → Geom.raw ⟨fmt, t, hkv, dim⟩ ≤ 262144) ∧
  ∀ (s : State) (ring index : Nat) (c : Cmd), s.dev.on = true → s.dev.cmdReady ring index 0x10 = some c → recordLenOk c = true →
    firstFail ((createChecks s.dev c).take 5) = none → (readWhole c.buf).format < 8 → (readWhole c.buf).tCode ≤ 3 →
    1 ≤ (readWhole c.buf).hkv → (readWhole c.buf).hkv ≤ 16 → (readWhole c.buf).dCode ≤ 5 → 1 ≤ (readWhole c.buf).layers →
    (readWhole c.buf).layers ≤ 256 →
    262144 < Geom.raw ⟨(readWhole c.buf).format, (readWhole c.buf).tCode, (readWhole c.buf).hkv, (readWhole c.buf).dCode⟩ →
    exec (.objCreate ring index) s = .next (s.withDev (cmdFailState s.dev ring index 0x11))

/-- R288 and Table 11-3, over every value each field can hold: a control body is 16 bytes with MSG_TYPE, STATUS,
TENANT, SRC_GEN and REQUEST_ID at their offsets, little-endian, and 4 reserved bytes of 0. -/
def Obligations.ControlBody : Prop :=
  ∀ (type status : BitVec 8) (tenant : BitVec 16) (gen request : BitVec 32),
    (ctrlBody type.toNat status.toNat tenant.toNat gen.toNat request.toNat).length = 16 ∧
    fld (ctrlBody type.toNat status.toNat tenant.toNat gen.toNat request.toNat) 0 1 = type.toNat ∧
    fld (ctrlBody type.toNat status.toNat tenant.toNat gen.toNat request.toNat) 1 1 = status.toNat ∧
    fld (ctrlBody type.toNat status.toNat tenant.toNat gen.toNat request.toNat) 2 2 = tenant.toNat ∧
    fld (ctrlBody type.toNat status.toNat tenant.toNat gen.toNat request.toNat) 4 4 = gen.toNat ∧
    fld (ctrlBody type.toNat status.toNat tenant.toNat gen.toNat request.toNat) 8 4 = request.toNat ∧
    fld (ctrlBody type.toNat status.toNat tenant.toNat gen.toNat request.toNat) 12 4 = 0

/-- R443 and Table 16-3, over every value each field can hold: a completion entry is 32 bytes with COMMAND_ID and
OPCODE of the descriptor, CMD_HEAD, STATUS, FAIL_OFFSET, FAIL_INDEX, RESULT and the phase bit at their offsets,
little-endian, and 7 reserved bytes of 0. When the entry is written, the ring statements say. -/
def Obligations.CompletionEntryLayout : Prop :=
  ∀ (c : Cmd) (head failIndex : BitVec 32) (status : BitVec 8) (failOffset : BitVec 16) (result : BitVec 64) (phase : BitVec 1),
    let b := completionBytes { c with status := status.toNat, failOffset := failOffset.toNat, failIndex := failIndex.toNat, result := result.toNat } head.toNat phase.toNat
    b.length = 32 ∧ fld b 0 4 = fld c.desc 4 4 ∧ fld b 4 4 = head.toNat ∧ fld b 8 1 = status.toNat ∧ fld b 9 1 = fld c.desc 0 1 ∧
    fld b 0xA 2 = failOffset.toNat ∧ fld b 0xC 4 = failIndex.toNat ∧ fld b 0x10 8 = result.toNat ∧ fld b 0x18 7 = 0 ∧
    fld b 0x1F 1 = phase.toNat

/-- R208: after ROW_OP_COMPLETE of any job but a scrub, with no store or host read waiting, tier 1 is what it was with
the destination row stored, and what is stored is computed from the sources as they were, whether or not the
destination is among them; for ROW_XOR it is the bitwise exclusive-or of the old rows. Where the host may cache a
line of the destination, the row waits to be stored, with that same content. (A scrub is a ROW_FILL of 0 and has no
source.) -/
def Obligations.RowResults : Prop :=
  ∀ (s : State) (slice bank id : Nat) (o : RowOp) (j : Job), s.dev.on = true → s.dev.ready (dieOfSlice slice) = true →
    tfind s.dev.row.running (16 * slice + bank) = some (id, o) → s.dev.job id = some j → (∀ f n, j.use ≠ .scrub f n) →
    s.dev.hif.waiting = [] → s.dev.hif.hostReads = [] →
    (o.op = 5 → rowResult s.chip o = List.zipWith (· ^^^ ·) (unitBytes s.chip o.a) (unitBytes s.chip o.b)) ∧
    Answers (exec (.rowOpComplete slice bank) s) fun t =>
      t.nv = s.nv ∧ t.pending = s.pending ∧
      (filteredLines s.dev (8192 * o.dst) (rowResult s.chip o).length = [] →
        t.mem = (storeNow s.chip (8192 * o.dst) (rowResult s.chip o)).mem) ∧
      (filteredLines s.dev (8192 * o.dst) (rowResult s.chip o).length ≠ [] →
        t.mem = s.mem ∧ ∃ w ∈ t.dev.hif.waiting, w.addr = 8192 * o.dst ∧ w.data = rowResult s.chip o)
end

