-- ==== Sys2Proof/Laws/State.lean ====
section
/-! SUPPORT. What each update of a group of the state does to each field: one lemma per field per update, true by
definition. -/

namespace Sys2Proof.Machine

/-! Updates of `power`. -/

@[simp] theorem Dev.onPower_now (d : Dev) (f : Power → Power) : (d.onPower f).now = d.now := rfl
@[simp] theorem Dev.onPower_draws (d : Dev) (f : Power → Power) : (d.onPower f).draws = d.draws := rfl
@[simp] theorem Dev.onPower_bootDraw (d : Dev) (f : Power → Power) : (d.onPower f).bootDraw = d.bootDraw := rfl
@[simp] theorem Dev.onPower_power (d : Dev) (f : Power → Power) : (d.onPower f).power = f d.power := rfl
@[simp] theorem Dev.onPower_dies (d : Dev) (f : Power → Power) : (d.onPower f).dies = d.dies := rfl
@[simp] theorem Dev.onPower_boot (d : Dev) (f : Power → Power) : (d.onPower f).boot = d.boot := rfl
@[simp] theorem Dev.onPower_sec (d : Dev) (f : Power → Power) : (d.onPower f).sec = d.sec := rfl
@[simp] theorem Dev.onPower_evt (d : Dev) (f : Power → Power) : (d.onPower f).evt = d.evt := rfl
@[simp] theorem Dev.onPower_regs (d : Dev) (f : Power → Power) : (d.onPower f).regs = d.regs := rfl
@[simp] theorem Dev.onPower_hif (d : Dev) (f : Power → Power) : (d.onPower f).hif = d.hif := rfl
@[simp] theorem Dev.onPower_fab (d : Dev) (f : Power → Power) : (d.onPower f).fab = d.fab := rfl
@[simp] theorem Dev.onPower_tr (d : Dev) (f : Power → Power) : (d.onPower f).tr = d.tr := rfl
@[simp] theorem Dev.onPower_rma (d : Dev) (f : Power → Power) : (d.onPower f).rma = d.rma := rfl
@[simp] theorem Dev.onPower_obj (d : Dev) (f : Power → Power) : (d.onPower f).obj = d.obj := rfl
@[simp] theorem Dev.onPower_attn (d : Dev) (f : Power → Power) : (d.onPower f).attn = d.attn := rfl
@[simp] theorem Dev.onPower_mbr (d : Dev) (f : Power → Power) : (d.onPower f).mbr = d.mbr := rfl
@[simp] theorem Dev.onPower_lp (d : Dev) (f : Power → Power) : (d.onPower f).lp = d.lp := rfl
@[simp] theorem Dev.onPower_row (d : Dev) (f : Power → Power) : (d.onPower f).row = d.row := rfl
@[simp] theorem Dev.onPower_mat (d : Dev) (f : Power → Power) : (d.onPower f).mat = d.mat := rfl
@[simp] theorem Dev.onPower_cnt (d : Dev) (f : Power → Power) : (d.onPower f).cnt = d.cnt := rfl

/-! Updates of `dies`. -/

@[simp] theorem Dev.onDies_now (d : Dev) (f : Dies → Dies) : (d.onDies f).now = d.now := rfl
@[simp] theorem Dev.onDies_draws (d : Dev) (f : Dies → Dies) : (d.onDies f).draws = d.draws := rfl
@[simp] theorem Dev.onDies_bootDraw (d : Dev) (f : Dies → Dies) : (d.onDies f).bootDraw = d.bootDraw := rfl
@[simp] theorem Dev.onDies_power (d : Dev) (f : Dies → Dies) : (d.onDies f).power = d.power := rfl
@[simp] theorem Dev.onDies_dies (d : Dev) (f : Dies → Dies) : (d.onDies f).dies = f d.dies := rfl
@[simp] theorem Dev.onDies_boot (d : Dev) (f : Dies → Dies) : (d.onDies f).boot = d.boot := rfl
@[simp] theorem Dev.onDies_sec (d : Dev) (f : Dies → Dies) : (d.onDies f).sec = d.sec := rfl
@[simp] theorem Dev.onDies_evt (d : Dev) (f : Dies → Dies) : (d.onDies f).evt = d.evt := rfl
@[simp] theorem Dev.onDies_regs (d : Dev) (f : Dies → Dies) : (d.onDies f).regs = d.regs := rfl
@[simp] theorem Dev.onDies_hif (d : Dev) (f : Dies → Dies) : (d.onDies f).hif = d.hif := rfl
@[simp] theorem Dev.onDies_fab (d : Dev) (f : Dies → Dies) : (d.onDies f).fab = d.fab := rfl
@[simp] theorem Dev.onDies_tr (d : Dev) (f : Dies → Dies) : (d.onDies f).tr = d.tr := rfl
@[simp] theorem Dev.onDies_rma (d : Dev) (f : Dies → Dies) : (d.onDies f).rma = d.rma := rfl
@[simp] theorem Dev.onDies_obj (d : Dev) (f : Dies → Dies) : (d.onDies f).obj = d.obj := rfl
@[simp] theorem Dev.onDies_attn (d : Dev) (f : Dies → Dies) : (d.onDies f).attn = d.attn := rfl
@[simp] theorem Dev.onDies_mbr (d : Dev) (f : Dies → Dies) : (d.onDies f).mbr = d.mbr := rfl
@[simp] theorem Dev.onDies_lp (d : Dev) (f : Dies → Dies) : (d.onDies f).lp = d.lp := rfl
@[simp] theorem Dev.onDies_row (d : Dev) (f : Dies → Dies) : (d.onDies f).row = d.row := rfl
@[simp] theorem Dev.onDies_mat (d : Dev) (f : Dies → Dies) : (d.onDies f).mat = d.mat := rfl
@[simp] theorem Dev.onDies_cnt (d : Dev) (f : Dies → Dies) : (d.onDies f).cnt = d.cnt := rfl
@[simp] theorem Dev.onDies_on (d : Dev) (f : Dies → Dies) : (d.onDies f).on = d.on := rfl

/-! Updates of `boot`. -/

@[simp] theorem Dev.onBoot_now (d : Dev) (f : Boot → Boot) : (d.onBoot f).now = d.now := rfl
@[simp] theorem Dev.onBoot_draws (d : Dev) (f : Boot → Boot) : (d.onBoot f).draws = d.draws := rfl
@[simp] theorem Dev.onBoot_bootDraw (d : Dev) (f : Boot → Boot) : (d.onBoot f).bootDraw = d.bootDraw := rfl
@[simp] theorem Dev.onBoot_power (d : Dev) (f : Boot → Boot) : (d.onBoot f).power = d.power := rfl
@[simp] theorem Dev.onBoot_dies (d : Dev) (f : Boot → Boot) : (d.onBoot f).dies = d.dies := rfl
@[simp] theorem Dev.onBoot_boot (d : Dev) (f : Boot → Boot) : (d.onBoot f).boot = f d.boot := rfl
@[simp] theorem Dev.onBoot_sec (d : Dev) (f : Boot → Boot) : (d.onBoot f).sec = d.sec := rfl
@[simp] theorem Dev.onBoot_evt (d : Dev) (f : Boot → Boot) : (d.onBoot f).evt = d.evt := rfl
@[simp] theorem Dev.onBoot_regs (d : Dev) (f : Boot → Boot) : (d.onBoot f).regs = d.regs := rfl
@[simp] theorem Dev.onBoot_hif (d : Dev) (f : Boot → Boot) : (d.onBoot f).hif = d.hif := rfl
@[simp] theorem Dev.onBoot_fab (d : Dev) (f : Boot → Boot) : (d.onBoot f).fab = d.fab := rfl
@[simp] theorem Dev.onBoot_tr (d : Dev) (f : Boot → Boot) : (d.onBoot f).tr = d.tr := rfl
@[simp] theorem Dev.onBoot_rma (d : Dev) (f : Boot → Boot) : (d.onBoot f).rma = d.rma := rfl
@[simp] theorem Dev.onBoot_obj (d : Dev) (f : Boot → Boot) : (d.onBoot f).obj = d.obj := rfl
@[simp] theorem Dev.onBoot_attn (d : Dev) (f : Boot → Boot) : (d.onBoot f).attn = d.attn := rfl
@[simp] theorem Dev.onBoot_mbr (d : Dev) (f : Boot → Boot) : (d.onBoot f).mbr = d.mbr := rfl
@[simp] theorem Dev.onBoot_lp (d : Dev) (f : Boot → Boot) : (d.onBoot f).lp = d.lp := rfl
@[simp] theorem Dev.onBoot_row (d : Dev) (f : Boot → Boot) : (d.onBoot f).row = d.row := rfl
@[simp] theorem Dev.onBoot_mat (d : Dev) (f : Boot → Boot) : (d.onBoot f).mat = d.mat := rfl
@[simp] theorem Dev.onBoot_cnt (d : Dev) (f : Boot → Boot) : (d.onBoot f).cnt = d.cnt := rfl
@[simp] theorem Dev.onBoot_on (d : Dev) (f : Boot → Boot) : (d.onBoot f).on = d.on := rfl

/-! Updates of `sec`. -/

@[simp] theorem Dev.onSec_now (d : Dev) (f : Security → Security) : (d.onSec f).now = d.now := rfl
@[simp] theorem Dev.onSec_draws (d : Dev) (f : Security → Security) : (d.onSec f).draws = d.draws := rfl
@[simp] theorem Dev.onSec_bootDraw (d : Dev) (f : Security → Security) : (d.onSec f).bootDraw = d.bootDraw := rfl
@[simp] theorem Dev.onSec_power (d : Dev) (f : Security → Security) : (d.onSec f).power = d.power := rfl
@[simp] theorem Dev.onSec_dies (d : Dev) (f : Security → Security) : (d.onSec f).dies = d.dies := rfl
@[simp] theorem Dev.onSec_boot (d : Dev) (f : Security → Security) : (d.onSec f).boot = d.boot := rfl
@[simp] theorem Dev.onSec_sec (d : Dev) (f : Security → Security) : (d.onSec f).sec = f d.sec := rfl
@[simp] theorem Dev.onSec_evt (d : Dev) (f : Security → Security) : (d.onSec f).evt = d.evt := rfl
@[simp] theorem Dev.onSec_regs (d : Dev) (f : Security → Security) : (d.onSec f).regs = d.regs := rfl
@[simp] theorem Dev.onSec_hif (d : Dev) (f : Security → Security) : (d.onSec f).hif = d.hif := rfl
@[simp] theorem Dev.onSec_fab (d : Dev) (f : Security → Security) : (d.onSec f).fab = d.fab := rfl
@[simp] theorem Dev.onSec_tr (d : Dev) (f : Security → Security) : (d.onSec f).tr = d.tr := rfl
@[simp] theorem Dev.onSec_rma (d : Dev) (f : Security → Security) : (d.onSec f).rma = d.rma := rfl
@[simp] theorem Dev.onSec_obj (d : Dev) (f : Security → Security) : (d.onSec f).obj = d.obj := rfl
@[simp] theorem Dev.onSec_attn (d : Dev) (f : Security → Security) : (d.onSec f).attn = d.attn := rfl
@[simp] theorem Dev.onSec_mbr (d : Dev) (f : Security → Security) : (d.onSec f).mbr = d.mbr := rfl
@[simp] theorem Dev.onSec_lp (d : Dev) (f : Security → Security) : (d.onSec f).lp = d.lp := rfl
@[simp] theorem Dev.onSec_row (d : Dev) (f : Security → Security) : (d.onSec f).row = d.row := rfl
@[simp] theorem Dev.onSec_mat (d : Dev) (f : Security → Security) : (d.onSec f).mat = d.mat := rfl
@[simp] theorem Dev.onSec_cnt (d : Dev) (f : Security → Security) : (d.onSec f).cnt = d.cnt := rfl
@[simp] theorem Dev.onSec_on (d : Dev) (f : Security → Security) : (d.onSec f).on = d.on := rfl

/-! Updates of `evt`. -/

@[simp] theorem Dev.onEvt_now (d : Dev) (f : Events → Events) : (d.onEvt f).now = d.now := rfl
@[simp] theorem Dev.onEvt_draws (d : Dev) (f : Events → Events) : (d.onEvt f).draws = d.draws := rfl
@[simp] theorem Dev.onEvt_bootDraw (d : Dev) (f : Events → Events) : (d.onEvt f).bootDraw = d.bootDraw := rfl
@[simp] theorem Dev.onEvt_power (d : Dev) (f : Events → Events) : (d.onEvt f).power = d.power := rfl
@[simp] theorem Dev.onEvt_dies (d : Dev) (f : Events → Events) : (d.onEvt f).dies = d.dies := rfl
@[simp] theorem Dev.onEvt_boot (d : Dev) (f : Events → Events) : (d.onEvt f).boot = d.boot := rfl
@[simp] theorem Dev.onEvt_sec (d : Dev) (f : Events → Events) : (d.onEvt f).sec = d.sec := rfl
@[simp] theorem Dev.onEvt_evt (d : Dev) (f : Events → Events) : (d.onEvt f).evt = f d.evt := rfl
@[simp] theorem Dev.onEvt_regs (d : Dev) (f : Events → Events) : (d.onEvt f).regs = d.regs := rfl
@[simp] theorem Dev.onEvt_hif (d : Dev) (f : Events → Events) : (d.onEvt f).hif = d.hif := rfl
@[simp] theorem Dev.onEvt_fab (d : Dev) (f : Events → Events) : (d.onEvt f).fab = d.fab := rfl
@[simp] theorem Dev.onEvt_tr (d : Dev) (f : Events → Events) : (d.onEvt f).tr = d.tr := rfl
@[simp] theorem Dev.onEvt_rma (d : Dev) (f : Events → Events) : (d.onEvt f).rma = d.rma := rfl
@[simp] theorem Dev.onEvt_obj (d : Dev) (f : Events → Events) : (d.onEvt f).obj = d.obj := rfl
@[simp] theorem Dev.onEvt_attn (d : Dev) (f : Events → Events) : (d.onEvt f).attn = d.attn := rfl
@[simp] theorem Dev.onEvt_mbr (d : Dev) (f : Events → Events) : (d.onEvt f).mbr = d.mbr := rfl
@[simp] theorem Dev.onEvt_lp (d : Dev) (f : Events → Events) : (d.onEvt f).lp = d.lp := rfl
@[simp] theorem Dev.onEvt_row (d : Dev) (f : Events → Events) : (d.onEvt f).row = d.row := rfl
@[simp] theorem Dev.onEvt_mat (d : Dev) (f : Events → Events) : (d.onEvt f).mat = d.mat := rfl
@[simp] theorem Dev.onEvt_cnt (d : Dev) (f : Events → Events) : (d.onEvt f).cnt = d.cnt := rfl
@[simp] theorem Dev.onEvt_on (d : Dev) (f : Events → Events) : (d.onEvt f).on = d.on := rfl

/-! Updates of `regs`. -/

@[simp] theorem Dev.onRegs_now (d : Dev) (f : Regs → Regs) : (d.onRegs f).now = d.now := rfl
@[simp] theorem Dev.onRegs_draws (d : Dev) (f : Regs → Regs) : (d.onRegs f).draws = d.draws := rfl
@[simp] theorem Dev.onRegs_bootDraw (d : Dev) (f : Regs → Regs) : (d.onRegs f).bootDraw = d.bootDraw := rfl
@[simp] theorem Dev.onRegs_power (d : Dev) (f : Regs → Regs) : (d.onRegs f).power = d.power := rfl
@[simp] theorem Dev.onRegs_dies (d : Dev) (f : Regs → Regs) : (d.onRegs f).dies = d.dies := rfl
@[simp] theorem Dev.onRegs_boot (d : Dev) (f : Regs → Regs) : (d.onRegs f).boot = d.boot := rfl
@[simp] theorem Dev.onRegs_sec (d : Dev) (f : Regs → Regs) : (d.onRegs f).sec = d.sec := rfl
@[simp] theorem Dev.onRegs_evt (d : Dev) (f : Regs → Regs) : (d.onRegs f).evt = d.evt := rfl
@[simp] theorem Dev.onRegs_regs (d : Dev) (f : Regs → Regs) : (d.onRegs f).regs = f d.regs := rfl
@[simp] theorem Dev.onRegs_hif (d : Dev) (f : Regs → Regs) : (d.onRegs f).hif = d.hif := rfl
@[simp] theorem Dev.onRegs_fab (d : Dev) (f : Regs → Regs) : (d.onRegs f).fab = d.fab := rfl
@[simp] theorem Dev.onRegs_tr (d : Dev) (f : Regs → Regs) : (d.onRegs f).tr = d.tr := rfl
@[simp] theorem Dev.onRegs_rma (d : Dev) (f : Regs → Regs) : (d.onRegs f).rma = d.rma := rfl
@[simp] theorem Dev.onRegs_obj (d : Dev) (f : Regs → Regs) : (d.onRegs f).obj = d.obj := rfl
@[simp] theorem Dev.onRegs_attn (d : Dev) (f : Regs → Regs) : (d.onRegs f).attn = d.attn := rfl
@[simp] theorem Dev.onRegs_mbr (d : Dev) (f : Regs → Regs) : (d.onRegs f).mbr = d.mbr := rfl
@[simp] theorem Dev.onRegs_lp (d : Dev) (f : Regs → Regs) : (d.onRegs f).lp = d.lp := rfl
@[simp] theorem Dev.onRegs_row (d : Dev) (f : Regs → Regs) : (d.onRegs f).row = d.row := rfl
@[simp] theorem Dev.onRegs_mat (d : Dev) (f : Regs → Regs) : (d.onRegs f).mat = d.mat := rfl
@[simp] theorem Dev.onRegs_cnt (d : Dev) (f : Regs → Regs) : (d.onRegs f).cnt = d.cnt := rfl
@[simp] theorem Dev.onRegs_on (d : Dev) (f : Regs → Regs) : (d.onRegs f).on = d.on := rfl

/-! Updates of `hif`. -/

@[simp] theorem Dev.onHif_now (d : Dev) (f : Hif → Hif) : (d.onHif f).now = d.now := rfl
@[simp] theorem Dev.onHif_draws (d : Dev) (f : Hif → Hif) : (d.onHif f).draws = d.draws := rfl
@[simp] theorem Dev.onHif_bootDraw (d : Dev) (f : Hif → Hif) : (d.onHif f).bootDraw = d.bootDraw := rfl
@[simp] theorem Dev.onHif_power (d : Dev) (f : Hif → Hif) : (d.onHif f).power = d.power := rfl
@[simp] theorem Dev.onHif_dies (d : Dev) (f : Hif → Hif) : (d.onHif f).dies = d.dies := rfl
@[simp] theorem Dev.onHif_boot (d : Dev) (f : Hif → Hif) : (d.onHif f).boot = d.boot := rfl
@[simp] theorem Dev.onHif_sec (d : Dev) (f : Hif → Hif) : (d.onHif f).sec = d.sec := rfl
@[simp] theorem Dev.onHif_evt (d : Dev) (f : Hif → Hif) : (d.onHif f).evt = d.evt := rfl
@[simp] theorem Dev.onHif_regs (d : Dev) (f : Hif → Hif) : (d.onHif f).regs = d.regs := rfl
@[simp] theorem Dev.onHif_hif (d : Dev) (f : Hif → Hif) : (d.onHif f).hif = f d.hif := rfl
@[simp] theorem Dev.onHif_fab (d : Dev) (f : Hif → Hif) : (d.onHif f).fab = d.fab := rfl
@[simp] theorem Dev.onHif_tr (d : Dev) (f : Hif → Hif) : (d.onHif f).tr = d.tr := rfl
@[simp] theorem Dev.onHif_rma (d : Dev) (f : Hif → Hif) : (d.onHif f).rma = d.rma := rfl
@[simp] theorem Dev.onHif_obj (d : Dev) (f : Hif → Hif) : (d.onHif f).obj = d.obj := rfl
@[simp] theorem Dev.onHif_attn (d : Dev) (f : Hif → Hif) : (d.onHif f).attn = d.attn := rfl
@[simp] theorem Dev.onHif_mbr (d : Dev) (f : Hif → Hif) : (d.onHif f).mbr = d.mbr := rfl
@[simp] theorem Dev.onHif_lp (d : Dev) (f : Hif → Hif) : (d.onHif f).lp = d.lp := rfl
@[simp] theorem Dev.onHif_row (d : Dev) (f : Hif → Hif) : (d.onHif f).row = d.row := rfl
@[simp] theorem Dev.onHif_mat (d : Dev) (f : Hif → Hif) : (d.onHif f).mat = d.mat := rfl
@[simp] theorem Dev.onHif_cnt (d : Dev) (f : Hif → Hif) : (d.onHif f).cnt = d.cnt := rfl
@[simp] theorem Dev.onHif_on (d : Dev) (f : Hif → Hif) : (d.onHif f).on = d.on := rfl

/-! Updates of `fab`. -/

@[simp] theorem Dev.onFab_now (d : Dev) (f : Fabric → Fabric) : (d.onFab f).now = d.now := rfl
@[simp] theorem Dev.onFab_draws (d : Dev) (f : Fabric → Fabric) : (d.onFab f).draws = d.draws := rfl
@[simp] theorem Dev.onFab_bootDraw (d : Dev) (f : Fabric → Fabric) : (d.onFab f).bootDraw = d.bootDraw := rfl
@[simp] theorem Dev.onFab_power (d : Dev) (f : Fabric → Fabric) : (d.onFab f).power = d.power := rfl
@[simp] theorem Dev.onFab_dies (d : Dev) (f : Fabric → Fabric) : (d.onFab f).dies = d.dies := rfl
@[simp] theorem Dev.onFab_boot (d : Dev) (f : Fabric → Fabric) : (d.onFab f).boot = d.boot := rfl
@[simp] theorem Dev.onFab_sec (d : Dev) (f : Fabric → Fabric) : (d.onFab f).sec = d.sec := rfl
@[simp] theorem Dev.onFab_evt (d : Dev) (f : Fabric → Fabric) : (d.onFab f).evt = d.evt := rfl
@[simp] theorem Dev.onFab_regs (d : Dev) (f : Fabric → Fabric) : (d.onFab f).regs = d.regs := rfl
@[simp] theorem Dev.onFab_hif (d : Dev) (f : Fabric → Fabric) : (d.onFab f).hif = d.hif := rfl
@[simp] theorem Dev.onFab_fab (d : Dev) (f : Fabric → Fabric) : (d.onFab f).fab = f d.fab := rfl
@[simp] theorem Dev.onFab_tr (d : Dev) (f : Fabric → Fabric) : (d.onFab f).tr = d.tr := rfl
@[simp] theorem Dev.onFab_rma (d : Dev) (f : Fabric → Fabric) : (d.onFab f).rma = d.rma := rfl
@[simp] theorem Dev.onFab_obj (d : Dev) (f : Fabric → Fabric) : (d.onFab f).obj = d.obj := rfl
@[simp] theorem Dev.onFab_attn (d : Dev) (f : Fabric → Fabric) : (d.onFab f).attn = d.attn := rfl
@[simp] theorem Dev.onFab_mbr (d : Dev) (f : Fabric → Fabric) : (d.onFab f).mbr = d.mbr := rfl
@[simp] theorem Dev.onFab_lp (d : Dev) (f : Fabric → Fabric) : (d.onFab f).lp = d.lp := rfl
@[simp] theorem Dev.onFab_row (d : Dev) (f : Fabric → Fabric) : (d.onFab f).row = d.row := rfl
@[simp] theorem Dev.onFab_mat (d : Dev) (f : Fabric → Fabric) : (d.onFab f).mat = d.mat := rfl
@[simp] theorem Dev.onFab_cnt (d : Dev) (f : Fabric → Fabric) : (d.onFab f).cnt = d.cnt := rfl
@[simp] theorem Dev.onFab_on (d : Dev) (f : Fabric → Fabric) : (d.onFab f).on = d.on := rfl

/-! Updates of `tr`. -/

@[simp] theorem Dev.onTr_now (d : Dev) (f : Transport → Transport) : (d.onTr f).now = d.now := rfl
@[simp] theorem Dev.onTr_draws (d : Dev) (f : Transport → Transport) : (d.onTr f).draws = d.draws := rfl
@[simp] theorem Dev.onTr_bootDraw (d : Dev) (f : Transport → Transport) : (d.onTr f).bootDraw = d.bootDraw := rfl
@[simp] theorem Dev.onTr_power (d : Dev) (f : Transport → Transport) : (d.onTr f).power = d.power := rfl
@[simp] theorem Dev.onTr_dies (d : Dev) (f : Transport → Transport) : (d.onTr f).dies = d.dies := rfl
@[simp] theorem Dev.onTr_boot (d : Dev) (f : Transport → Transport) : (d.onTr f).boot = d.boot := rfl
@[simp] theorem Dev.onTr_sec (d : Dev) (f : Transport → Transport) : (d.onTr f).sec = d.sec := rfl
@[simp] theorem Dev.onTr_evt (d : Dev) (f : Transport → Transport) : (d.onTr f).evt = d.evt := rfl
@[simp] theorem Dev.onTr_regs (d : Dev) (f : Transport → Transport) : (d.onTr f).regs = d.regs := rfl
@[simp] theorem Dev.onTr_hif (d : Dev) (f : Transport → Transport) : (d.onTr f).hif = d.hif := rfl
@[simp] theorem Dev.onTr_fab (d : Dev) (f : Transport → Transport) : (d.onTr f).fab = d.fab := rfl
@[simp] theorem Dev.onTr_tr (d : Dev) (f : Transport → Transport) : (d.onTr f).tr = f d.tr := rfl
@[simp] theorem Dev.onTr_rma (d : Dev) (f : Transport → Transport) : (d.onTr f).rma = d.rma := rfl
@[simp] theorem Dev.onTr_obj (d : Dev) (f : Transport → Transport) : (d.onTr f).obj = d.obj := rfl
@[simp] theorem Dev.onTr_attn (d : Dev) (f : Transport → Transport) : (d.onTr f).attn = d.attn := rfl
@[simp] theorem Dev.onTr_mbr (d : Dev) (f : Transport → Transport) : (d.onTr f).mbr = d.mbr := rfl
@[simp] theorem Dev.onTr_lp (d : Dev) (f : Transport → Transport) : (d.onTr f).lp = d.lp := rfl
@[simp] theorem Dev.onTr_row (d : Dev) (f : Transport → Transport) : (d.onTr f).row = d.row := rfl
@[simp] theorem Dev.onTr_mat (d : Dev) (f : Transport → Transport) : (d.onTr f).mat = d.mat := rfl
@[simp] theorem Dev.onTr_cnt (d : Dev) (f : Transport → Transport) : (d.onTr f).cnt = d.cnt := rfl
@[simp] theorem Dev.onTr_on (d : Dev) (f : Transport → Transport) : (d.onTr f).on = d.on := rfl

/-! Updates of `rma`. -/

@[simp] theorem Dev.onRma_now (d : Dev) (f : Rma → Rma) : (d.onRma f).now = d.now := rfl
@[simp] theorem Dev.onRma_draws (d : Dev) (f : Rma → Rma) : (d.onRma f).draws = d.draws := rfl
@[simp] theorem Dev.onRma_bootDraw (d : Dev) (f : Rma → Rma) : (d.onRma f).bootDraw = d.bootDraw := rfl
@[simp] theorem Dev.onRma_power (d : Dev) (f : Rma → Rma) : (d.onRma f).power = d.power := rfl
@[simp] theorem Dev.onRma_dies (d : Dev) (f : Rma → Rma) : (d.onRma f).dies = d.dies := rfl
@[simp] theorem Dev.onRma_boot (d : Dev) (f : Rma → Rma) : (d.onRma f).boot = d.boot := rfl
@[simp] theorem Dev.onRma_sec (d : Dev) (f : Rma → Rma) : (d.onRma f).sec = d.sec := rfl
@[simp] theorem Dev.onRma_evt (d : Dev) (f : Rma → Rma) : (d.onRma f).evt = d.evt := rfl
@[simp] theorem Dev.onRma_regs (d : Dev) (f : Rma → Rma) : (d.onRma f).regs = d.regs := rfl
@[simp] theorem Dev.onRma_hif (d : Dev) (f : Rma → Rma) : (d.onRma f).hif = d.hif := rfl
@[simp] theorem Dev.onRma_fab (d : Dev) (f : Rma → Rma) : (d.onRma f).fab = d.fab := rfl
@[simp] theorem Dev.onRma_tr (d : Dev) (f : Rma → Rma) : (d.onRma f).tr = d.tr := rfl
@[simp] theorem Dev.onRma_rma (d : Dev) (f : Rma → Rma) : (d.onRma f).rma = f d.rma := rfl
@[simp] theorem Dev.onRma_obj (d : Dev) (f : Rma → Rma) : (d.onRma f).obj = d.obj := rfl
@[simp] theorem Dev.onRma_attn (d : Dev) (f : Rma → Rma) : (d.onRma f).attn = d.attn := rfl
@[simp] theorem Dev.onRma_mbr (d : Dev) (f : Rma → Rma) : (d.onRma f).mbr = d.mbr := rfl
@[simp] theorem Dev.onRma_lp (d : Dev) (f : Rma → Rma) : (d.onRma f).lp = d.lp := rfl
@[simp] theorem Dev.onRma_row (d : Dev) (f : Rma → Rma) : (d.onRma f).row = d.row := rfl
@[simp] theorem Dev.onRma_mat (d : Dev) (f : Rma → Rma) : (d.onRma f).mat = d.mat := rfl
@[simp] theorem Dev.onRma_cnt (d : Dev) (f : Rma → Rma) : (d.onRma f).cnt = d.cnt := rfl
@[simp] theorem Dev.onRma_on (d : Dev) (f : Rma → Rma) : (d.onRma f).on = d.on := rfl

/-! Updates of `obj`. -/

@[simp] theorem Dev.onObj_now (d : Dev) (f : Objects → Objects) : (d.onObj f).now = d.now := rfl
@[simp] theorem Dev.onObj_draws (d : Dev) (f : Objects → Objects) : (d.onObj f).draws = d.draws := rfl
@[simp] theorem Dev.onObj_bootDraw (d : Dev) (f : Objects → Objects) : (d.onObj f).bootDraw = d.bootDraw := rfl
@[simp] theorem Dev.onObj_power (d : Dev) (f : Objects → Objects) : (d.onObj f).power = d.power := rfl
@[simp] theorem Dev.onObj_dies (d : Dev) (f : Objects → Objects) : (d.onObj f).dies = d.dies := rfl
@[simp] theorem Dev.onObj_boot (d : Dev) (f : Objects → Objects) : (d.onObj f).boot = d.boot := rfl
@[simp] theorem Dev.onObj_sec (d : Dev) (f : Objects → Objects) : (d.onObj f).sec = d.sec := rfl
@[simp] theorem Dev.onObj_evt (d : Dev) (f : Objects → Objects) : (d.onObj f).evt = d.evt := rfl
@[simp] theorem Dev.onObj_regs (d : Dev) (f : Objects → Objects) : (d.onObj f).regs = d.regs := rfl
@[simp] theorem Dev.onObj_hif (d : Dev) (f : Objects → Objects) : (d.onObj f).hif = d.hif := rfl
@[simp] theorem Dev.onObj_fab (d : Dev) (f : Objects → Objects) : (d.onObj f).fab = d.fab := rfl
@[simp] theorem Dev.onObj_tr (d : Dev) (f : Objects → Objects) : (d.onObj f).tr = d.tr := rfl
@[simp] theorem Dev.onObj_rma (d : Dev) (f : Objects → Objects) : (d.onObj f).rma = d.rma := rfl
@[simp] theorem Dev.onObj_obj (d : Dev) (f : Objects → Objects) : (d.onObj f).obj = f d.obj := rfl
@[simp] theorem Dev.onObj_attn (d : Dev) (f : Objects → Objects) : (d.onObj f).attn = d.attn := rfl
@[simp] theorem Dev.onObj_mbr (d : Dev) (f : Objects → Objects) : (d.onObj f).mbr = d.mbr := rfl
@[simp] theorem Dev.onObj_lp (d : Dev) (f : Objects → Objects) : (d.onObj f).lp = d.lp := rfl
@[simp] theorem Dev.onObj_row (d : Dev) (f : Objects → Objects) : (d.onObj f).row = d.row := rfl
@[simp] theorem Dev.onObj_mat (d : Dev) (f : Objects → Objects) : (d.onObj f).mat = d.mat := rfl
@[simp] theorem Dev.onObj_cnt (d : Dev) (f : Objects → Objects) : (d.onObj f).cnt = d.cnt := rfl
@[simp] theorem Dev.onObj_on (d : Dev) (f : Objects → Objects) : (d.onObj f).on = d.on := rfl

/-! Updates of `attn`. -/

@[simp] theorem Dev.onAttn_now (d : Dev) (f : Attn → Attn) : (d.onAttn f).now = d.now := rfl
@[simp] theorem Dev.onAttn_draws (d : Dev) (f : Attn → Attn) : (d.onAttn f).draws = d.draws := rfl
@[simp] theorem Dev.onAttn_bootDraw (d : Dev) (f : Attn → Attn) : (d.onAttn f).bootDraw = d.bootDraw := rfl
@[simp] theorem Dev.onAttn_power (d : Dev) (f : Attn → Attn) : (d.onAttn f).power = d.power := rfl
@[simp] theorem Dev.onAttn_dies (d : Dev) (f : Attn → Attn) : (d.onAttn f).dies = d.dies := rfl
@[simp] theorem Dev.onAttn_boot (d : Dev) (f : Attn → Attn) : (d.onAttn f).boot = d.boot := rfl
@[simp] theorem Dev.onAttn_sec (d : Dev) (f : Attn → Attn) : (d.onAttn f).sec = d.sec := rfl
@[simp] theorem Dev.onAttn_evt (d : Dev) (f : Attn → Attn) : (d.onAttn f).evt = d.evt := rfl
@[simp] theorem Dev.onAttn_regs (d : Dev) (f : Attn → Attn) : (d.onAttn f).regs = d.regs := rfl
@[simp] theorem Dev.onAttn_hif (d : Dev) (f : Attn → Attn) : (d.onAttn f).hif = d.hif := rfl
@[simp] theorem Dev.onAttn_fab (d : Dev) (f : Attn → Attn) : (d.onAttn f).fab = d.fab := rfl
@[simp] theorem Dev.onAttn_tr (d : Dev) (f : Attn → Attn) : (d.onAttn f).tr = d.tr := rfl
@[simp] theorem Dev.onAttn_rma (d : Dev) (f : Attn → Attn) : (d.onAttn f).rma = d.rma := rfl
@[simp] theorem Dev.onAttn_obj (d : Dev) (f : Attn → Attn) : (d.onAttn f).obj = d.obj := rfl
@[simp] theorem Dev.onAttn_attn (d : Dev) (f : Attn → Attn) : (d.onAttn f).attn = f d.attn := rfl
@[simp] theorem Dev.onAttn_mbr (d : Dev) (f : Attn → Attn) : (d.onAttn f).mbr = d.mbr := rfl
@[simp] theorem Dev.onAttn_lp (d : Dev) (f : Attn → Attn) : (d.onAttn f).lp = d.lp := rfl
@[simp] theorem Dev.onAttn_row (d : Dev) (f : Attn → Attn) : (d.onAttn f).row = d.row := rfl
@[simp] theorem Dev.onAttn_mat (d : Dev) (f : Attn → Attn) : (d.onAttn f).mat = d.mat := rfl
@[simp] theorem Dev.onAttn_cnt (d : Dev) (f : Attn → Attn) : (d.onAttn f).cnt = d.cnt := rfl
@[simp] theorem Dev.onAttn_on (d : Dev) (f : Attn → Attn) : (d.onAttn f).on = d.on := rfl

/-! Updates of `mbr`. -/

@[simp] theorem Dev.onMbr_now (d : Dev) (f : Members → Members) : (d.onMbr f).now = d.now := rfl
@[simp] theorem Dev.onMbr_draws (d : Dev) (f : Members → Members) : (d.onMbr f).draws = d.draws := rfl
@[simp] theorem Dev.onMbr_bootDraw (d : Dev) (f : Members → Members) : (d.onMbr f).bootDraw = d.bootDraw := rfl
@[simp] theorem Dev.onMbr_power (d : Dev) (f : Members → Members) : (d.onMbr f).power = d.power := rfl
@[simp] theorem Dev.onMbr_dies (d : Dev) (f : Members → Members) : (d.onMbr f).dies = d.dies := rfl
@[simp] theorem Dev.onMbr_boot (d : Dev) (f : Members → Members) : (d.onMbr f).boot = d.boot := rfl
@[simp] theorem Dev.onMbr_sec (d : Dev) (f : Members → Members) : (d.onMbr f).sec = d.sec := rfl
@[simp] theorem Dev.onMbr_evt (d : Dev) (f : Members → Members) : (d.onMbr f).evt = d.evt := rfl
@[simp] theorem Dev.onMbr_regs (d : Dev) (f : Members → Members) : (d.onMbr f).regs = d.regs := rfl
@[simp] theorem Dev.onMbr_hif (d : Dev) (f : Members → Members) : (d.onMbr f).hif = d.hif := rfl
@[simp] theorem Dev.onMbr_fab (d : Dev) (f : Members → Members) : (d.onMbr f).fab = d.fab := rfl
@[simp] theorem Dev.onMbr_tr (d : Dev) (f : Members → Members) : (d.onMbr f).tr = d.tr := rfl
@[simp] theorem Dev.onMbr_rma (d : Dev) (f : Members → Members) : (d.onMbr f).rma = d.rma := rfl
@[simp] theorem Dev.onMbr_obj (d : Dev) (f : Members → Members) : (d.onMbr f).obj = d.obj := rfl
@[simp] theorem Dev.onMbr_attn (d : Dev) (f : Members → Members) : (d.onMbr f).attn = d.attn := rfl
@[simp] theorem Dev.onMbr_mbr (d : Dev) (f : Members → Members) : (d.onMbr f).mbr = f d.mbr := rfl
@[simp] theorem Dev.onMbr_lp (d : Dev) (f : Members → Members) : (d.onMbr f).lp = d.lp := rfl
@[simp] theorem Dev.onMbr_row (d : Dev) (f : Members → Members) : (d.onMbr f).row = d.row := rfl
@[simp] theorem Dev.onMbr_mat (d : Dev) (f : Members → Members) : (d.onMbr f).mat = d.mat := rfl
@[simp] theorem Dev.onMbr_cnt (d : Dev) (f : Members → Members) : (d.onMbr f).cnt = d.cnt := rfl
@[simp] theorem Dev.onMbr_on (d : Dev) (f : Members → Members) : (d.onMbr f).on = d.on := rfl

/-! Updates of `lp`. -/

@[simp] theorem Dev.onLp_now (d : Dev) (f : Lpddr → Lpddr) : (d.onLp f).now = d.now := rfl
@[simp] theorem Dev.onLp_draws (d : Dev) (f : Lpddr → Lpddr) : (d.onLp f).draws = d.draws := rfl
@[simp] theorem Dev.onLp_bootDraw (d : Dev) (f : Lpddr → Lpddr) : (d.onLp f).bootDraw = d.bootDraw := rfl
@[simp] theorem Dev.onLp_power (d : Dev) (f : Lpddr → Lpddr) : (d.onLp f).power = d.power := rfl
@[simp] theorem Dev.onLp_dies (d : Dev) (f : Lpddr → Lpddr) : (d.onLp f).dies = d.dies := rfl
@[simp] theorem Dev.onLp_boot (d : Dev) (f : Lpddr → Lpddr) : (d.onLp f).boot = d.boot := rfl
@[simp] theorem Dev.onLp_sec (d : Dev) (f : Lpddr → Lpddr) : (d.onLp f).sec = d.sec := rfl
@[simp] theorem Dev.onLp_evt (d : Dev) (f : Lpddr → Lpddr) : (d.onLp f).evt = d.evt := rfl
@[simp] theorem Dev.onLp_regs (d : Dev) (f : Lpddr → Lpddr) : (d.onLp f).regs = d.regs := rfl
@[simp] theorem Dev.onLp_hif (d : Dev) (f : Lpddr → Lpddr) : (d.onLp f).hif = d.hif := rfl
@[simp] theorem Dev.onLp_fab (d : Dev) (f : Lpddr → Lpddr) : (d.onLp f).fab = d.fab := rfl
@[simp] theorem Dev.onLp_tr (d : Dev) (f : Lpddr → Lpddr) : (d.onLp f).tr = d.tr := rfl
@[simp] theorem Dev.onLp_rma (d : Dev) (f : Lpddr → Lpddr) : (d.onLp f).rma = d.rma := rfl
@[simp] theorem Dev.onLp_obj (d : Dev) (f : Lpddr → Lpddr) : (d.onLp f).obj = d.obj := rfl
@[simp] theorem Dev.onLp_attn (d : Dev) (f : Lpddr → Lpddr) : (d.onLp f).attn = d.attn := rfl
@[simp] theorem Dev.onLp_mbr (d : Dev) (f : Lpddr → Lpddr) : (d.onLp f).mbr = d.mbr := rfl
@[simp] theorem Dev.onLp_lp (d : Dev) (f : Lpddr → Lpddr) : (d.onLp f).lp = f d.lp := rfl
@[simp] theorem Dev.onLp_row (d : Dev) (f : Lpddr → Lpddr) : (d.onLp f).row = d.row := rfl
@[simp] theorem Dev.onLp_mat (d : Dev) (f : Lpddr → Lpddr) : (d.onLp f).mat = d.mat := rfl
@[simp] theorem Dev.onLp_cnt (d : Dev) (f : Lpddr → Lpddr) : (d.onLp f).cnt = d.cnt := rfl
@[simp] theorem Dev.onLp_on (d : Dev) (f : Lpddr → Lpddr) : (d.onLp f).on = d.on := rfl

/-! Updates of `row`. -/

@[simp] theorem Dev.onRow_now (d : Dev) (f : RowOps → RowOps) : (d.onRow f).now = d.now := rfl
@[simp] theorem Dev.onRow_draws (d : Dev) (f : RowOps → RowOps) : (d.onRow f).draws = d.draws := rfl
@[simp] theorem Dev.onRow_bootDraw (d : Dev) (f : RowOps → RowOps) : (d.onRow f).bootDraw = d.bootDraw := rfl
@[simp] theorem Dev.onRow_power (d : Dev) (f : RowOps → RowOps) : (d.onRow f).power = d.power := rfl
@[simp] theorem Dev.onRow_dies (d : Dev) (f : RowOps → RowOps) : (d.onRow f).dies = d.dies := rfl
@[simp] theorem Dev.onRow_boot (d : Dev) (f : RowOps → RowOps) : (d.onRow f).boot = d.boot := rfl
@[simp] theorem Dev.onRow_sec (d : Dev) (f : RowOps → RowOps) : (d.onRow f).sec = d.sec := rfl
@[simp] theorem Dev.onRow_evt (d : Dev) (f : RowOps → RowOps) : (d.onRow f).evt = d.evt := rfl
@[simp] theorem Dev.onRow_regs (d : Dev) (f : RowOps → RowOps) : (d.onRow f).regs = d.regs := rfl
@[simp] theorem Dev.onRow_hif (d : Dev) (f : RowOps → RowOps) : (d.onRow f).hif = d.hif := rfl
@[simp] theorem Dev.onRow_fab (d : Dev) (f : RowOps → RowOps) : (d.onRow f).fab = d.fab := rfl
@[simp] theorem Dev.onRow_tr (d : Dev) (f : RowOps → RowOps) : (d.onRow f).tr = d.tr := rfl
@[simp] theorem Dev.onRow_rma (d : Dev) (f : RowOps → RowOps) : (d.onRow f).rma = d.rma := rfl
@[simp] theorem Dev.onRow_obj (d : Dev) (f : RowOps → RowOps) : (d.onRow f).obj = d.obj := rfl
@[simp] theorem Dev.onRow_attn (d : Dev) (f : RowOps → RowOps) : (d.onRow f).attn = d.attn := rfl
@[simp] theorem Dev.onRow_mbr (d : Dev) (f : RowOps → RowOps) : (d.onRow f).mbr = d.mbr := rfl
@[simp] theorem Dev.onRow_lp (d : Dev) (f : RowOps → RowOps) : (d.onRow f).lp = d.lp := rfl
@[simp] theorem Dev.onRow_row (d : Dev) (f : RowOps → RowOps) : (d.onRow f).row = f d.row := rfl
@[simp] theorem Dev.onRow_mat (d : Dev) (f : RowOps → RowOps) : (d.onRow f).mat = d.mat := rfl
@[simp] theorem Dev.onRow_cnt (d : Dev) (f : RowOps → RowOps) : (d.onRow f).cnt = d.cnt := rfl
@[simp] theorem Dev.onRow_on (d : Dev) (f : RowOps → RowOps) : (d.onRow f).on = d.on := rfl

/-! Updates of `mat`. -/

@[simp] theorem Dev.onMat_now (d : Dev) (f : Match → Match) : (d.onMat f).now = d.now := rfl
@[simp] theorem Dev.onMat_draws (d : Dev) (f : Match → Match) : (d.onMat f).draws = d.draws := rfl
@[simp] theorem Dev.onMat_bootDraw (d : Dev) (f : Match → Match) : (d.onMat f).bootDraw = d.bootDraw := rfl
@[simp] theorem Dev.onMat_power (d : Dev) (f : Match → Match) : (d.onMat f).power = d.power := rfl
@[simp] theorem Dev.onMat_dies (d : Dev) (f : Match → Match) : (d.onMat f).dies = d.dies := rfl
@[simp] theorem Dev.onMat_boot (d : Dev) (f : Match → Match) : (d.onMat f).boot = d.boot := rfl
@[simp] theorem Dev.onMat_sec (d : Dev) (f : Match → Match) : (d.onMat f).sec = d.sec := rfl
@[simp] theorem Dev.onMat_evt (d : Dev) (f : Match → Match) : (d.onMat f).evt = d.evt := rfl
@[simp] theorem Dev.onMat_regs (d : Dev) (f : Match → Match) : (d.onMat f).regs = d.regs := rfl
@[simp] theorem Dev.onMat_hif (d : Dev) (f : Match → Match) : (d.onMat f).hif = d.hif := rfl
@[simp] theorem Dev.onMat_fab (d : Dev) (f : Match → Match) : (d.onMat f).fab = d.fab := rfl
@[simp] theorem Dev.onMat_tr (d : Dev) (f : Match → Match) : (d.onMat f).tr = d.tr := rfl
@[simp] theorem Dev.onMat_rma (d : Dev) (f : Match → Match) : (d.onMat f).rma = d.rma := rfl
@[simp] theorem Dev.onMat_obj (d : Dev) (f : Match → Match) : (d.onMat f).obj = d.obj := rfl
@[simp] theorem Dev.onMat_attn (d : Dev) (f : Match → Match) : (d.onMat f).attn = d.attn := rfl
@[simp] theorem Dev.onMat_mbr (d : Dev) (f : Match → Match) : (d.onMat f).mbr = d.mbr := rfl
@[simp] theorem Dev.onMat_lp (d : Dev) (f : Match → Match) : (d.onMat f).lp = d.lp := rfl
@[simp] theorem Dev.onMat_row (d : Dev) (f : Match → Match) : (d.onMat f).row = d.row := rfl
@[simp] theorem Dev.onMat_mat (d : Dev) (f : Match → Match) : (d.onMat f).mat = f d.mat := rfl
@[simp] theorem Dev.onMat_cnt (d : Dev) (f : Match → Match) : (d.onMat f).cnt = d.cnt := rfl
@[simp] theorem Dev.onMat_on (d : Dev) (f : Match → Match) : (d.onMat f).on = d.on := rfl

/-! Updates of `cnt`. -/

@[simp] theorem Dev.onCnt_now (d : Dev) (f : Counters → Counters) : (d.onCnt f).now = d.now := rfl
@[simp] theorem Dev.onCnt_draws (d : Dev) (f : Counters → Counters) : (d.onCnt f).draws = d.draws := rfl
@[simp] theorem Dev.onCnt_bootDraw (d : Dev) (f : Counters → Counters) : (d.onCnt f).bootDraw = d.bootDraw := rfl
@[simp] theorem Dev.onCnt_power (d : Dev) (f : Counters → Counters) : (d.onCnt f).power = d.power := rfl
@[simp] theorem Dev.onCnt_dies (d : Dev) (f : Counters → Counters) : (d.onCnt f).dies = d.dies := rfl
@[simp] theorem Dev.onCnt_boot (d : Dev) (f : Counters → Counters) : (d.onCnt f).boot = d.boot := rfl
@[simp] theorem Dev.onCnt_sec (d : Dev) (f : Counters → Counters) : (d.onCnt f).sec = d.sec := rfl
@[simp] theorem Dev.onCnt_evt (d : Dev) (f : Counters → Counters) : (d.onCnt f).evt = d.evt := rfl
@[simp] theorem Dev.onCnt_regs (d : Dev) (f : Counters → Counters) : (d.onCnt f).regs = d.regs := rfl
@[simp] theorem Dev.onCnt_hif (d : Dev) (f : Counters → Counters) : (d.onCnt f).hif = d.hif := rfl
@[simp] theorem Dev.onCnt_fab (d : Dev) (f : Counters → Counters) : (d.onCnt f).fab = d.fab := rfl
@[simp] theorem Dev.onCnt_tr (d : Dev) (f : Counters → Counters) : (d.onCnt f).tr = d.tr := rfl
@[simp] theorem Dev.onCnt_rma (d : Dev) (f : Counters → Counters) : (d.onCnt f).rma = d.rma := rfl
@[simp] theorem Dev.onCnt_obj (d : Dev) (f : Counters → Counters) : (d.onCnt f).obj = d.obj := rfl
@[simp] theorem Dev.onCnt_attn (d : Dev) (f : Counters → Counters) : (d.onCnt f).attn = d.attn := rfl
@[simp] theorem Dev.onCnt_mbr (d : Dev) (f : Counters → Counters) : (d.onCnt f).mbr = d.mbr := rfl
@[simp] theorem Dev.onCnt_lp (d : Dev) (f : Counters → Counters) : (d.onCnt f).lp = d.lp := rfl
@[simp] theorem Dev.onCnt_row (d : Dev) (f : Counters → Counters) : (d.onCnt f).row = d.row := rfl
@[simp] theorem Dev.onCnt_mat (d : Dev) (f : Counters → Counters) : (d.onCnt f).mat = d.mat := rfl
@[simp] theorem Dev.onCnt_cnt (d : Dev) (f : Counters → Counters) : (d.onCnt f).cnt = f d.cnt := rfl
@[simp] theorem Dev.onCnt_on (d : Dev) (f : Counters → Counters) : (d.onCnt f).on = d.on := rfl

/-! Updates of the chip and of the nonvolatile root. -/

@[simp] theorem Chip.onDev_dev (k : Chip) (f : Dev → Dev) : (k.onDev f).dev = f k.dev := rfl
@[simp] theorem Chip.onDev_mem (k : Chip) (f : Dev → Dev) : (k.onDev f).mem = k.mem := rfl
@[simp] theorem Root.onDev_dev (r : Root) (f : Dev → Dev) : (r.onDev f).dev = f r.dev := rfl
@[simp] theorem Root.onDev_nv (r : Root) (f : Dev → Dev) : (r.onDev f).nv = r.nv := rfl

/-! Conditional effects. -/

@[simp] theorem Dev.when_true (d : Dev) (f : Dev → Dev) : d.when true f = f d := rfl
@[simp] theorem Dev.when_false (d : Dev) (f : Dev → Dev) : d.when false f = d := rfl
@[simp] theorem Chip.when_true (k : Chip) (f : Chip → Chip) : k.when true f = f k := rfl
@[simp] theorem Chip.when_false (k : Chip) (f : Chip → Chip) : k.when false f = k := rfl

/-! A draw of a free value advances the draw counter alone. -/

@[simp] theorem Dev.draw_now (d : Dev) : d.draw.2.now = d.now := rfl
@[simp] theorem Dev.draw_draws (d : Dev) : d.draw.2.draws = d.draws + 1 := rfl
@[simp] theorem Dev.draw_bootDraw (d : Dev) : d.draw.2.bootDraw = d.bootDraw := rfl
@[simp] theorem Dev.draw_power (d : Dev) : d.draw.2.power = d.power := rfl
@[simp] theorem Dev.draw_dies (d : Dev) : d.draw.2.dies = d.dies := rfl
@[simp] theorem Dev.draw_boot (d : Dev) : d.draw.2.boot = d.boot := rfl
@[simp] theorem Dev.draw_sec (d : Dev) : d.draw.2.sec = d.sec := rfl
@[simp] theorem Dev.draw_evt (d : Dev) : d.draw.2.evt = d.evt := rfl
@[simp] theorem Dev.draw_regs (d : Dev) : d.draw.2.regs = d.regs := rfl
@[simp] theorem Dev.draw_hif (d : Dev) : d.draw.2.hif = d.hif := rfl
@[simp] theorem Dev.draw_fab (d : Dev) : d.draw.2.fab = d.fab := rfl
@[simp] theorem Dev.draw_tr (d : Dev) : d.draw.2.tr = d.tr := rfl
@[simp] theorem Dev.draw_rma (d : Dev) : d.draw.2.rma = d.rma := rfl
@[simp] theorem Dev.draw_obj (d : Dev) : d.draw.2.obj = d.obj := rfl
@[simp] theorem Dev.draw_attn (d : Dev) : d.draw.2.attn = d.attn := rfl
@[simp] theorem Dev.draw_mbr (d : Dev) : d.draw.2.mbr = d.mbr := rfl
@[simp] theorem Dev.draw_lp (d : Dev) : d.draw.2.lp = d.lp := rfl
@[simp] theorem Dev.draw_row (d : Dev) : d.draw.2.row = d.row := rfl
@[simp] theorem Dev.draw_mat (d : Dev) : d.draw.2.mat = d.mat := rfl
@[simp] theorem Dev.draw_cnt (d : Dev) : d.draw.2.cnt = d.cnt := rfl
@[simp] theorem Dev.draw_fst (d : Dev) : d.draw.1 = d.draws := rfl

/-! What a command of each kind does to the state, with power and without. -/

theorem State.act_on {s : State} (h : s.dev.on = true) (f : Dev → Dev) : s.act f = .next { s with dev := f s.dev } := by
  simp [State.act, h]

theorem State.act_off {s : State} (h : s.dev.on = false) (f : Dev → Dev) : s.act f = .next s := by
  simp [State.act, h]

theorem State.actMem_on {s : State} (h : s.dev.on = true) (f : Chip → Chip) :
    s.actMem f = .next { s with dev := (f ⟨s.dev, s.mem⟩).dev, mem := (f ⟨s.dev, s.mem⟩).mem } := by
  simp [State.actMem, h]

theorem State.actMem_off {s : State} (h : s.dev.on = false) (f : Chip → Chip) : s.actMem f = .next s := by
  simp [State.actMem, h]

theorem State.actNv_on {s : State} (h : s.dev.on = true) (f : Root → Root) :
    s.actNv f = .next { s with nv := (f ⟨s.nv, s.dev⟩).nv, dev := (f ⟨s.nv, s.dev⟩).dev } := by
  simp [State.actNv, h]

theorem State.actNv_off {s : State} (h : s.dev.on = false) (f : Root → Root) : s.actNv f = .next s := by
  simp [State.actNv, h]

theorem State.actRead_on {s : State} (h : s.dev.on = true) (f : Chip → Dev) :
    s.actRead f = .next { s with dev := f ⟨s.dev, s.mem⟩ } := by
  simp [State.actRead, h]

theorem State.actRead_off {s : State} (h : s.dev.on = false) (f : Chip → Dev) : s.actRead f = .next s := by
  simp [State.actRead, h]

/-- A command that changes only the device answers a state with the memory, the fuses and the queue it had. -/
theorem State.act_frame {s t : State} {f : Dev → Dev} (h : s.act f = .next t) :
    t.mem = s.mem ∧ t.nv = s.nv ∧ t.pending = s.pending := by
  unfold State.act at h; injection h with h; subst h; split <;> simp

/-- The same for a command that reads tier 1. -/
theorem State.actRead_frame {s t : State} {f : Chip → Dev} (h : s.actRead f = .next t) :
    t.mem = s.mem ∧ t.nv = s.nv ∧ t.pending = s.pending := by
  unfold State.actRead at h; injection h with h; subst h; split <;> simp

/-- A command that may write tier 1 keeps the fuses, the flash and the queue. -/
theorem State.actMem_frame {s t : State} {f : Chip → Chip} (h : s.actMem f = .next t) :
    t.nv = s.nv ∧ t.pending = s.pending := by
  unfold State.actMem at h; injection h with h; subst h; split <;> simp

/-- A command that may write fuses or flash keeps tier 1 and the queue. -/
theorem State.actNv_frame {s t : State} {f : Root → Root} (h : s.actNv f = .next t) :
    t.mem = s.mem ∧ t.pending = s.pending := by
  unfold State.actNv at h; injection h with h; subst h; split <;> simp

/-- A command that may write tier 1 keeps the canonical form when its operation does. -/
theorem State.actMem_memOk {s t : State} {f : Chip → Chip} (h : s.actMem f = .next t) (hs : Memory.wf s.mem = true)
    (hf : ∀ k : Chip, Memory.wf k.mem = true → Memory.wf (f k).mem = true) : Memory.wf t.mem = true := by
  unfold State.actMem at h; injection h with h; subst h; split
  · exact hf ⟨s.dev, s.mem⟩ hs
  · exact hs

end Sys2Proof.Machine
end

