-- ==== Sys2Proof/Laws/Tab.lean ====
section
/-! SUPPORT. The laws of sparse tables and of tier-1 bytes: what a read after a write gives, and that every write keeps
the canonical form. -/

namespace Sys2Proof

theorem tabove_of_le {α : Type} {t : Tab α} {a b : Nat} (h : tabove b t = true) (hab : a ≤ b) : tabove a t = true := by
  unfold tabove at *
  rw [List.all_eq_true] at *
  intro p hp
  have := h p hp
  simp at *; omega

theorem tfind_above {α : Type} {t : Tab α} {k b : Nat} (h : tabove b t = true) (hk : k ≤ b) : tfind t k = none := by
  cases t with
  | nil => rfl
  | cons p t =>
    have h1 : b < p.1 := by simp [tabove] at h; exact h.1
    have h2 : ¬ k = p.1 := by omega
    have h3 : k < p.1 := by omega
    simp [tfind, h2, h3]

@[simp] theorem tfind_tins_same {α : Type} (t : Tab α) (k : Nat) (v : α) : tfind (tins t k v) k = some v := by
  induction t with
  | nil => simp [tins, tfind]
  | cons p t ih =>
    unfold tins
    split
    · simp [tfind]
    · split
      · simp [tfind]
      · rename_i h1 h2; simp [tfind, h1, h2, ih]

theorem tfind_tins_other {α : Type} (t : Tab α) {k j : Nat} (v : α) (h : j ≠ k) : tfind (tins t k v) j = tfind t j := by
  induction t with
  | nil => simp [tins, tfind, h]
  | cons p t ih =>
    unfold tins
    split
    · rename_i h1; simp [tfind, ← h1, h]
    · split
      · rename_i h1 h2
        by_cases hj : j < k
        · have h3 : ¬ j = p.1 := by omega
          have h4 : j < p.1 := by omega
          simp [tfind, h, hj, h3, h4]
        · simp [tfind, h, hj]
      · simp [tfind, ih]

theorem tfind_tdel_same {α : Type} {t : Tab α} (ht : tsorted t = true) (k : Nat) : tfind (tdel t k) k = none := by
  induction t with
  | nil => rfl
  | cons p t ih =>
    simp [tsorted] at ht
    unfold tdel
    split
    · rename_i h1; exact tfind_above ht.1 (by omega)
    · split
      · rename_i h1 h2; simp [tfind, h1, h2]
      · rename_i h1 h2; simp [tfind, h1, h2, ih ht.2]

theorem tfind_tdel_other {α : Type} {t : Tab α} (ht : tsorted t = true) {k j : Nat} (h : j ≠ k) :
    tfind (tdel t k) j = tfind t j := by
  induction t with
  | nil => rfl
  | cons p t ih =>
    simp [tsorted] at ht
    unfold tdel
    split
    · rename_i h1
      have h3 : ¬ j = p.1 := by omega
      by_cases h4 : j < p.1
      · simp [tfind, h3, h4]; exact tfind_above ht.1 (by omega)
      · simp [tfind, h3, h4]
    · split
      · rfl
      · simp [tfind, ih ht.2]

theorem tabove_tins {α : Type} {t : Tab α} {b k : Nat} {v : α} (h : tabove b t = true) (hk : b < k) :
    tabove b (tins t k v) = true := by
  induction t with
  | nil => simp [tins, tabove, hk]
  | cons p t ih =>
    simp only [tabove, List.all_cons, Bool.and_eq_true, decide_eq_true_eq] at h ih
    unfold tins
    split
    · simp only [tabove, List.all_cons, Bool.and_eq_true, decide_eq_true_eq]; exact ⟨hk, h.2⟩
    · split
      · simp only [tabove, List.all_cons, Bool.and_eq_true, decide_eq_true_eq]; exact ⟨hk, h⟩
      · simp only [tabove, List.all_cons, Bool.and_eq_true, decide_eq_true_eq]; exact ⟨h.1, ih h.2⟩

theorem tsorted_tins {α : Type} {t : Tab α} (ht : tsorted t = true) (k : Nat) (v : α) : tsorted (tins t k v) = true := by
  induction t with
  | nil => simp [tins, tsorted, tabove]
  | cons p t ih =>
    simp [tsorted] at ht
    unfold tins
    split
    · rename_i h1; subst h1; simp [tsorted, ht]
    · split
      · rename_i h1 h2
        have h3 : tabove k t = true := tabove_of_le ht.1 (by omega)
        have h4 : tabove k (p :: t) = true := by
          rw [tabove, List.all_cons, Bool.and_eq_true]; exact ⟨by simpa using h2, h3⟩
        simp only [tsorted, h4, ht.1, ht.2, Bool.and_self]
      · rename_i h1 h2
        simp [tsorted, ih ht.2]
        exact tabove_tins ht.1 (by omega)

theorem tdel_sub {α : Type} (t : Tab α) (k : Nat) : ∀ p ∈ tdel t k, p ∈ t := by
  induction t with
  | nil => intro p hp; exact hp
  | cons q t ih =>
    intro p hp
    unfold tdel at hp
    split at hp
    · exact List.mem_cons_of_mem _ hp
    · split at hp
      · exact hp
      · rcases List.mem_cons.mp hp with h | h
        · simp [h]
        · exact List.mem_cons_of_mem _ (ih p h)

theorem tsorted_tdel {α : Type} {t : Tab α} (ht : tsorted t = true) (k : Nat) : tsorted (tdel t k) = true := by
  induction t with
  | nil => rfl
  | cons p t ih =>
    have ht0 := ht
    simp [tsorted] at ht
    unfold tdel
    split
    · exact ht.2
    · split
      · exact ht0
      · simp [tsorted, ih ht.2]
        have h := ht.1
        unfold tabove at *
        rw [List.all_eq_true] at *
        exact fun q hq => h q (tdel_sub t k q hq)

theorem tins_mem {α : Type} (t : Tab α) (k : Nat) (v : α) : ∀ p ∈ tins t k v, p = (k, v) ∨ p ∈ t := by
  induction t with
  | nil => intro p hp; simp [tins] at hp; exact Or.inl hp
  | cons q t ih =>
    intro p hp
    unfold tins at hp
    split at hp
    · rcases List.mem_cons.mp hp with h | h
      · exact Or.inl h
      · exact Or.inr (List.mem_cons_of_mem _ h)
    · split at hp
      · rcases List.mem_cons.mp hp with h | h
        · exact Or.inl h
        · exact Or.inr h
      · rcases List.mem_cons.mp hp with h | h
        · right; simp [h]
        · rcases ih p h with h | h
          · exact Or.inl h
          · exact Or.inr (List.mem_cons_of_mem _ h)

/-- A write of a table keeps its canonical form. -/
theorem tcanon_tput {α : Type} [DecidableEq α] {d : α} {t : Tab α} (h : tcanon d t = true) (k : Nat) (v : α) :
    tcanon d (tput d t k v) = true := by
  simp only [tcanon, Bool.and_eq_true, List.all_eq_true, decide_eq_true_eq] at *
  unfold tput
  split
  · exact ⟨tsorted_tdel h.1 k, fun p hp => h.2 p (tdel_sub t k p hp)⟩
  · rename_i hv
    refine ⟨tsorted_tins h.1 k v, fun p hp => ?_⟩
    rcases tins_mem t k v p hp with h1 | h1
    · rw [h1]; exact hv
    · exact h.2 p h1

/-- A read at the place written gives the value written. -/
theorem tget_tput_same {α : Type} [DecidableEq α] {d : α} {t : Tab α} (h : tsorted t = true) (k : Nat) (v : α) :
    tget d (tput d t k v) k = v := by
  unfold tput tget
  split
  · rename_i hv; rw [tfind_tdel_same h, hv]; rfl
  · rw [tfind_tins_same]; rfl

/-- The same for a value that is not the table's default, in any table. -/
theorem tget_tput_new {α : Type} [DecidableEq α] {d : α} {t : Tab α} {k : Nat} {v : α} (h : v ≠ d) :
    tget d (tput d t k v) k = v := by
  unfold tput tget
  rw [if_neg h, tfind_tins_same]; rfl

/-- A read at any other place gives what it gave. -/
theorem tget_tput_other {α : Type} [DecidableEq α] {d : α} {t : Tab α} (h : tsorted t = true) {k j : Nat} (v : α)
    (hj : j ≠ k) : tget d (tput d t k v) j = tget d t j := by
  unfold tput tget
  split
  · rw [tfind_tdel_other h hj]
  · rw [tfind_tins_other t v hj]

theorem tsorted_filter {α : Type} {t : Tab α} (h : tsorted t = true) (f : Nat × α → Bool) : tsorted (t.filter f) = true := by
  induction t with
  | nil => rfl
  | cons p t ih =>
    simp [tsorted] at h
    rw [List.filter_cons]
    split
    · simp [tsorted, ih h.2]
      have h1 := h.1
      unfold tabove at *
      rw [List.all_eq_true] at *
      exact fun q hq => h1 q (List.mem_of_mem_filter hq)
    · exact ih h.2

theorem tcanon_filter {α : Type} [DecidableEq α] {d : α} {t : Tab α} (h : tcanon d t = true) (f : Nat × α → Bool) :
    tcanon d (t.filter f) = true := by
  simp only [tcanon, Bool.and_eq_true, List.all_eq_true, decide_eq_true_eq] at *
  exact ⟨tsorted_filter h.1 f, fun p hp => h.2 p (List.mem_of_mem_filter hp)⟩

namespace Machine

theorem memPut_wf {m : Memory} (h : Memory.wf m = true) (a : Nat) (b : Byte) : Memory.wf (memPut m a b) = true :=
  tcanon_tput h a b

theorem memWrite_wf {m : Memory} (h : Memory.wf m = true) (a : Nat) (b : Bytes) : Memory.wf (memWrite m a b) = true := by
  induction b generalizing m a with
  | nil => exact h
  | cons x b ih => exact ih (memPut_wf h a x) (a + 1)

theorem wf_sorted {m : Memory} (h : Memory.wf m = true) : tsorted m = true := by
  simp only [Memory.wf, tcanon, Bool.and_eq_true] at h; exact h.1

theorem memByte_memPut_same {m : Memory} (h : Memory.wf m = true) (a : Nat) (b : Byte) : memByte (memPut m a b) a = b :=
  tget_tput_same (wf_sorted h) a b

theorem memByte_memPut_other {m : Memory} (h : Memory.wf m = true) {a c : Nat} (b : Byte) (hc : c ≠ a) :
    memByte (memPut m a b) c = memByte m c := tget_tput_other (wf_sorted h) b hc

/-- A write of bytes leaves every byte outside them as it was. -/
theorem memByte_memWrite_other {m : Memory} (h : Memory.wf m = true) (a : Nat) (b : Bytes) {c : Nat}
    (hc : c < a ∨ a + b.length ≤ c) : memByte (memWrite m a b) c = memByte m c := by
  induction b generalizing m a with
  | nil => rfl
  | cons x b ih =>
    simp only [List.length_cons] at hc
    rw [memWrite, ih (memPut_wf h a x) (a + 1) (by omega), memByte_memPut_other h x (by omega)]

/-- A write of bytes gives each of them its value. -/
theorem memByte_memWrite_inside {m : Memory} (h : Memory.wf m = true) (a : Nat) (b : Bytes) (i : Nat)
    (hi : i < b.length) : memByte (memWrite m a b) (a + i) = b.getD i 0 := by
  induction b generalizing m a i with
  | nil => simp at hi
  | cons x b ih =>
    cases i with
    | zero =>
      rw [memWrite, memByte_memWrite_other (memPut_wf h a x) (a + 1) b (by omega)]
      simpa using memByte_memPut_same h a x
    | succ i =>
      simp only [List.length_cons] at hi
      have e : a + (i + 1) = a + 1 + i := by omega
      rw [memWrite, e, ih (memPut_wf h a x) (a + 1) i (by omega)]
      simp

end Machine

end Sys2Proof
end

