-- ==== Sys2Proof/Laws/Commands.lean ====
section
/-! SUPPORT. What the operations on a ring's command do: the command changes, and it alone. -/

namespace Sys2Proof.Machine

theorem find_modWhere {l : List Cmd} {i : Nat} {c : Cmd} {f : Cmd → Cmd} (h : l.find? (fun x => x.index == i) = some c)
    (hf : ∀ x, (f x).index = x.index) :
    (modWhere (fun x : Cmd => x.index == i) f l).find? (fun x => x.index == i) = some (f c) := by
  induction l with
  | nil => simp at h
  | cons x l ih =>
    rw [List.find?_cons] at h
    unfold modWhere
    rw [List.map_cons, List.find?_cons]
    by_cases hx : x.index = i
    · have h1 : (x.index == i) = true := by simp [hx]
      rw [h1] at h
      injection h with h
      have h2 : ((if (x.index == i) = true then f x else x).index == i) = true := by rw [h1]; simp [hf, hx]
      simp only [h1, if_true] at h2 ⊢
      rw [h2, h]
    · have h1 : (x.index == i) = false := by simp [hx]
      rw [h1] at h
      simp only [h1]
      have := ih h
      unfold modWhere at this
      simpa [h1] using this

/-- A ring with a command in it is not the table's default. -/
theorem ring_ne_default {r : Ring} {i : Nat} {c : Cmd} (h : r.cmds.find? (fun x => x.index == i) = some c) : r ≠ {} := by
  intro e; rw [e] at h; cases h

/-- What a change of a command leaves at its index. -/
theorem cmd_onCmd {d : Dev} {ring index : Nat} {c : Cmd} {f : Cmd → Cmd} (h : d.cmd ring index = some c)
    (hf : ∀ x, (f x).index = x.index) : (d.onCmd ring index f).cmd ring index = some (f c) := by
  have h1 := find_modWhere (f := f) h hf
  show (tget ({} : Ring) (tput {} d.hif.rings ring _) ring).cmds.find? _ = _
  rw [tget_tput_new (ring_ne_default h1)]
  exact h1

theorem cmd_cmdDone {d : Dev} {ring index : Nat} {c : Cmd} (h : d.cmd ring index = some c) (status result : Nat) :
    (cmdDone d ring index status result).cmd ring index =
      some { c with phase := .done, status := status, result := result } := cmd_onCmd h fun _ => rfl

theorem cmd_cmdFail {d : Dev} {ring index : Nat} {c : Cmd} (h : d.cmd ring index = some c) (status off : Nat) :
    (cmdFail d ring index status off).cmd ring index =
      some { c with phase := .done, status := status, failOffset := off, result := 0 } := cmd_onCmd h fun _ => rfl

/-- A command that is ready stands at its index. -/
theorem cmd_of_ready {d : Dev} {ring index op : Nat} {c : Cmd} (h : d.cmdReady ring index op = some c) :
    d.cmd ring index = some c := by
  unfold Dev.cmdReady at h
  split at h
  · split at h
    · injection h with h; subst h; assumption
    · cases h
  · cases h

/-- A command whose checks all pass acts. -/
theorem cmdChecks_pass {d : Dev} {ring index op : Nat} {c : Cmd} {checks : Cmd → List (Bool × (Nat × Nat))}
    {f : Dev → Cmd → Dev} (h : d.cmdReady ring index op = some c) (hc : firstFail (checks c) = none) :
    cmdChecks d ring index op checks f = f d c := by
  unfold cmdChecks; rw [h]; simp only [hc]

/-- A command fails at the first check that does not pass. -/
theorem cmdChecks_fail {d : Dev} {ring index op st off : Nat} {c : Cmd} {checks : Cmd → List (Bool × (Nat × Nat))}
    {f : Dev → Cmd → Dev} (h : d.cmdReady ring index op = some c) (hc : firstFail (checks c) = some (st, off)) :
    cmdChecks d ring index op checks f = cmdFail d ring index st off := by
  unfold cmdChecks; rw [h]; simp only [hc]

/-- Every change of a command leaves everything but the rings as it was. -/
theorem onCmd_frame (d : Dev) (ring index : Nat) (f : Cmd → Cmd) :
    d.onCmd ring index f = { d with hif := { d.hif with rings := (d.onCmd ring index f).hif.rings } } := rfl

end Sys2Proof.Machine
end

