-- ==== Sys2Proof/Laws/Exec.lean ====
section
/-! SUPPORT. exec on each constructor is the call of its own meaning. -/

namespace Sys2Proof.Machine

theorem exec_inputPowerOn (cv : Nat) (s : State) : exec (.inputPowerOn cv) s = execInputPowerOn cv s := rfl
theorem exec_inputPowerOff (cv : Nat) (gap : Nat) (s : State) : exec (.inputPowerOff cv gap) s = execInputPowerOff cv gap s := rfl
theorem exec_overvoltageRecover (cv : Nat) (s : State) : exec (.overvoltageRecover cv) s = execOvervoltageRecover cv s := rfl
theorem exec_inputOvercurrent (held : Nat) (deciamps : Nat) (s : State) : exec (.inputOvercurrent held deciamps) s = execInputOvercurrent held deciamps s := rfl
theorem exec_softStartDone (s : State) : exec .softStartDone s = execSoftStartDone s := rfl
theorem exec_presenceDetect (s : State) : exec .presenceDetect s = execPresenceDetect s := rfl
theorem exec_surpriseRemoval (s : State) : exec .surpriseRemoval s = execSurpriseRemoval s := rfl
theorem exec_romBoot (s : State) : exec .romBoot s = execRomBoot s := rfl
theorem exec_recoveryImageAccept (image : Bytes) (s : State) : exec (.recoveryImageAccept image) s = execRecoveryImageAccept image s := rfl
theorem exec_dieGroupRelease (s : State) : exec .dieGroupRelease s = execDieGroupRelease s := rfl
theorem exec_dieReadyTimeout (die : Nat) (s : State) : exec (.dieReadyTimeout die) s = execDieReadyTimeout die s := rfl
theorem exec_bootConfirm (s : State) : exec .bootConfirm s = execBootConfirm s := rfl
theorem exec_selfHealWatchdog (s : State) : exec .selfHealWatchdog s = execSelfHealWatchdog s := rfl
theorem exec_dieLost (die : Nat) (s : State) : exec (.dieLost die) s = execDieLost die s := rfl
theorem exec_selfRefreshTimeout (die : Nat) (s : State) : exec (.selfRefreshTimeout die) s = execSelfRefreshTimeout die s := rfl
theorem exec_dieResetRelease (die : Nat) (s : State) : exec (.dieResetRelease die) s = execDieResetRelease die s := rfl
theorem exec_dieReportReady (die : Nat) (s : State) : exec (.dieReportReady die) s = execDieReportReady die s := rfl
theorem exec_thermalTrip (die : Nat) (s : State) : exec (.thermalTrip die) s = execThermalTrip die s := rfl
theorem exec_sensorRead (temps : List Int) (s : State) : exec (.sensorRead temps) s = execSensorRead temps s := rfl
theorem exec_powerCapPeriod (watts : Nat) (s : State) : exec (.powerCapPeriod watts) s = execPowerCapPeriod watts s := rfl
theorem exec_replicaLoopCount (die : Nat) (count : Nat) (s : State) : exec (.replicaLoopCount die count) s = execReplicaLoopCount die count s := rfl
theorem exec_healthScoreUpdate (s : State) : exec .healthScoreUpdate s = execHealthScoreUpdate s := rfl
theorem exec_managementBeatLoss (die : Nat) (s : State) : exec (.managementBeatLoss die) s = execManagementBeatLoss die s := rfl
theorem exec_registerWrite (offset : Nat) (value : BitVec 64) (size : Nat) (s : State) : exec (.registerWrite offset value size) s = execRegisterWrite offset value size s := rfl
theorem exec_glbEnableArrays (value : BitVec 64) (s : State) : exec (.glbEnableArrays value) s = execGlbEnableArrays value s := rfl
theorem exec_glbSetupLock (value : BitVec 64) (s : State) : exec (.glbSetupLock value) s = execGlbSetupLock value s := rfl
theorem exec_hifConnSpillValid (value : BitVec 64) (s : State) : exec (.hifConnSpillValid value) s = execHifConnSpillValid value s := rfl
theorem exec_ringEnable (ring : Nat) (s : State) : exec (.ringEnable ring) s = execRingEnable ring s := rfl
theorem exec_ringDisable (ring : Nat) (s : State) : exec (.ringDisable ring) s = execRingDisable ring s := rfl
theorem exec_ringDrained (ring : Nat) (s : State) : exec (.ringDrained ring) s = execRingDrained ring s := rfl
theorem exec_hifIrqWrite (ring : Nat) (value : BitVec 64) (s : State) : exec (.hifIrqWrite ring value) s = execHifIrqWrite ring value s := rfl
theorem exec_memEnable (value : BitVec 64) (s : State) : exec (.memEnable value) s = execMemEnable value s := rfl
theorem exec_memEnableComplete (die : Nat) (failed : Nat) (s : State) : exec (.memEnableComplete die failed) s = execMemEnableComplete die failed s := rfl
theorem exec_lnkEnableSet (value : BitVec 64) (s : State) : exec (.lnkEnableSet value) s = execLnkEnableSet value s := rfl
theorem exec_lnkEnableClear (value : BitVec 64) (s : State) : exec (.lnkEnableClear value) s = execLnkEnableClear value s := rfl
theorem exec_lnkEscapeWaitWrite (value : BitVec 64) (s : State) : exec (.lnkEscapeWaitWrite value) s = execLnkEscapeWaitWrite value s := rfl
theorem exec_lnkCcTargetWrite (value : BitVec 64) (s : State) : exec (.lnkCcTargetWrite value) s = execLnkCcTargetWrite value s := rfl
theorem exec_matEnable (value : BitVec 64) (s : State) : exec (.matEnable value) s = execMatEnable value s := rfl
theorem exec_pwrCapWrite (value : BitVec 64) (s : State) : exec (.pwrCapWrite value) s = execPwrCapWrite value s := rfl
theorem exec_pwrVmaxWrite (value : BitVec 64) (s : State) : exec (.pwrVmaxWrite value) s = execPwrVmaxWrite value s := rfl
theorem exec_fwStage (length : Nat) (s : State) : exec (.fwStage length) s = execFwStage length s := rfl
theorem exec_fwActivate (s : State) : exec .fwActivate s = execFwActivate s := rfl
theorem exec_svnCommit (s : State) : exec .svnCommit s = execSvnCommit s := rfl
theorem exec_restart (s : State) : exec .restart s = execRestart s := rfl
theorem exec_cntCompatSelWrite (slot : Nat) (value : BitVec 64) (s : State) : exec (.cntCompatSelWrite slot value) s = execCntCompatSelWrite slot value s := rfl
theorem exec_cntCompatClear (value : BitVec 64) (s : State) : exec (.cntCompatClear value) s = execCntCompatClear value s := rfl
theorem exec_cntCompatUpdate (s : State) : exec .cntCompatUpdate s = execCntCompatUpdate s := rfl
theorem exec_perstAssert (s : State) : exec .perstAssert s = execPerstAssert s := rfl
theorem exec_hostLinkDown (s : State) : exec .hostLinkDown s = execHostLinkDown s := rfl
theorem exec_hostLinkUp (gts : Nat) (width : Nat) (s : State) : exec (.hostLinkUp gts width) s = execHostLinkUp gts width s := rfl
theorem exec_hostLinkAbsentTimeout (s : State) : exec .hostLinkAbsentTimeout s = execHostLinkAbsentTimeout s := rfl
theorem exec_nodeDrain (s : State) : exec .nodeDrain s = execNodeDrain s := rfl
theorem exec_hdmDecoderCommit (base : Nat) (size : Nat) (ways : Nat) (s : State) : exec (.hdmDecoderCommit base size ways) s = execHdmDecoderCommit base size ways s := rfl
theorem exec_dvsecEnable (cache : Bool) (mem : Bool) (s : State) : exec (.dvsecEnable cache mem) s = execDvsecEnable cache mem s := rfl
theorem exec_hostHdmRead (addr : Nat) (s : State) : exec (.hostHdmRead addr) s = execHostHdmRead addr s := rfl
theorem exec_hostHdmWrite (addr : Nat) (data : Bytes) (keep : Bool) (s : State) : exec (.hostHdmWrite addr data keep) s = execHostHdmWrite addr data keep s := rfl
theorem exec_hostBirsp (line : Nat) (s : State) : exec (.hostBirsp line) s = execHostBirsp line s := rfl
theorem exec_backInvalidateTimeout (line : Nat) (s : State) : exec (.backInvalidateTimeout line) s = execBackInvalidateTimeout line s := rfl
theorem exec_cxlIoReadComplete (id : Nat) (ok : Bool) (data : Bytes) (s : State) : exec (.cxlIoReadComplete id ok data) s = execCxlIoReadComplete id ok data s := rfl
theorem exec_cxlIoReadTimeout (id : Nat) (s : State) : exec (.cxlIoReadTimeout id) s = execCxlIoReadTimeout id s := rfl
theorem exec_uioReadComplete (id : Nat) (ok : Bool) (data : Bytes) (s : State) : exec (.uioReadComplete id ok data) s = execUioReadComplete id ok data s := rfl
theorem exec_tier2ReadTimeout (id : Nat) (s : State) : exec (.tier2ReadTimeout id) s = execTier2ReadTimeout id s := rfl
theorem exec_uioWriteComplete (move : Nat) (ok : Bool) (s : State) : exec (.uioWriteComplete move ok) s = execUioWriteComplete move ok s := rfl
theorem exec_tier2PathChange (up : Bool) (s : State) : exec (.tier2PathChange up) s = execTier2PathChange up s := rfl
theorem exec_mailboxCommand (opcode : Nat) (payload : Bytes) (s : State) : exec (.mailboxCommand opcode payload) s = execMailboxCommand opcode payload s := rfl
theorem exec_spdmGetVersion (mctp : Bool) (s : State) : exec (.spdmGetVersion mctp) s = execSpdmGetVersion mctp s := rfl
theorem exec_spdmGetCapabilities (mctp : Bool) (s : State) : exec (.spdmGetCapabilities mctp) s = execSpdmGetCapabilities mctp s := rfl
theorem exec_spdmNegotiateAlgorithms (mctp : Bool) (asym : Nat) (hash : Nat) (meas : Nat) (s : State) : exec (.spdmNegotiateAlgorithms mctp asym hash meas) s = execSpdmNegotiateAlgorithms mctp asym hash meas s := rfl
theorem exec_spdmGetDigests (mctp : Bool) (s : State) : exec (.spdmGetDigests mctp) s = execSpdmGetDigests mctp s := rfl
theorem exec_spdmGetCertificate (mctp : Bool) (slot : Nat) (offset : Nat) (length : Nat) (s : State) : exec (.spdmGetCertificate mctp slot offset length) s = execSpdmGetCertificate mctp slot offset length s := rfl
theorem exec_spdmChallenge (mctp : Bool) (slot : Nat) (nonce : Bytes) (s : State) : exec (.spdmChallenge mctp slot nonce) s = execSpdmChallenge mctp slot nonce s := rfl
theorem exec_spdmGetMeasurements (mctp : Bool) (index : Nat) (signed : Bool) (nonce : Bytes) (s : State) : exec (.spdmGetMeasurements mctp index signed nonce) s = execSpdmGetMeasurements mctp index signed nonce s := rfl
theorem exec_spdmUnsupported (mctp : Bool) (code : Nat) (s : State) : exec (.spdmUnsupported mctp code) s = execSpdmUnsupported mctp code s := rfl
theorem exec_i3cEntdaa (addr : Nat) (s : State) : exec (.i3cEntdaa addr) s = execI3cEntdaa addr s := rfl
theorem exec_mctpSetEndpointId (eid : Nat) (s : State) : exec (.mctpSetEndpointId eid) s = execMctpSetEndpointId eid s := rfl
theorem exec_pldmSetEventReceiver (eid : Nat) (s : State) : exec (.pldmSetEventReceiver eid) s = execPldmSetEventReceiver eid s := rfl
theorem exec_pldmSensorUpdate (sensor : Nat) (value : Nat) (s : State) : exec (.pldmSensorUpdate sensor value) s = execPldmSensorUpdate sensor value s := rfl
theorem exec_pldmRequestUpdate (s : State) : exec .pldmRequestUpdate s = execPldmRequestUpdate s := rfl
theorem exec_pldmFirmwareData (offset : Nat) (data : Bytes) (s : State) : exec (.pldmFirmwareData offset data) s = execPldmFirmwareData offset data s := rfl
theorem exec_pldmVerifyComplete (s : State) : exec .pldmVerifyComplete s = execPldmVerifyComplete s := rfl
theorem exec_pldmActivateFirmware (s : State) : exec .pldmActivateFirmware s = execPldmActivateFirmware s := rfl
theorem exec_doorbellSnoop (ring : Nat) (s : State) : exec (.doorbellSnoop ring) s = execDoorbellSnoop ring s := rfl
theorem exec_doorbellRead (ring : Nat) (record : Bytes) (s : State) : exec (.doorbellRead ring record) s = execDoorbellRead ring record s := rfl
theorem exec_descriptorFetch (s : State) : exec .descriptorFetch s = execDescriptorFetch s := rfl
theorem exec_commandStart (ring : Nat) (s : State) : exec (.commandStart ring) s = execCommandStart ring s := rfl
theorem exec_completionWrite (ring : Nat) (index : Nat) (s : State) : exec (.completionWrite ring index) s = execCompletionWrite ring index s := rfl
theorem exec_interruptDelayExpiry (ring : Nat) (s : State) : exec (.interruptDelayExpiry ring) s = execInterruptDelayExpiry ring s := rfl
theorem exec_eventRecordWrite (s : State) : exec .eventRecordWrite s = execEventRecordWrite s := rfl
theorem exec_countedEventFlush (code : Nat) (die : Nat) (s : State) : exec (.countedEventFlush code die) s = execCountedEventFlush code die s := rfl
theorem exec_granuleConfig (ring : Nat) (index : Nat) (s : State) : exec (.granuleConfig ring index) s = execGranuleConfig ring index s := rfl
theorem exec_granuleKindChangeDone (slice : Nat) (s : State) : exec (.granuleKindChangeDone slice) s = execGranuleKindChangeDone slice s := rfl
theorem exec_tier2Extents (ring : Nat) (index : Nat) (s : State) : exec (.tier2Extents ring index) s = execTier2Extents ring index s := rfl
theorem exec_compositionBind (ring : Nat) (index : Nat) (s : State) : exec (.compositionBind ring index) s = execCompositionBind ring index s := rfl
theorem exec_compositionRestartDone (comp : Nat) (s : State) : exec (.compositionRestartDone comp) s = execCompositionRestartDone comp s := rfl
theorem exec_compositionFence (ring : Nat) (index : Nat) (s : State) : exec (.compositionFence ring index) s = execCompositionFence ring index s := rfl
theorem exec_fdSetupDomain (ring : Nat) (index : Nat) (s : State) : exec (.fdSetupDomain ring index) s = execFdSetupDomain ring index s := rfl
theorem exec_fdSetupWitnessSet (ring : Nat) (index : Nat) (s : State) : exec (.fdSetupWitnessSet ring index) s = execFdSetupWitnessSet ring index s := rfl
theorem exec_membershipEnter (ring : Nat) (index : Nat) (s : State) : exec (.membershipEnter ring index) s = execMembershipEnter ring index s := rfl
theorem exec_membershipExpel (ring : Nat) (index : Nat) (s : State) : exec (.membershipExpel ring index) s = execMembershipExpel ring index s := rfl
theorem exec_enterTimeout (s : State) : exec .enterTimeout s = execEnterTimeout s := rfl
theorem exec_managedRemoval (ring : Nat) (index : Nat) (s : State) : exec (.managedRemoval ring index) s = execManagedRemoval ring index s := rfl
theorem exec_drainStepBound (s : State) : exec .drainStepBound s = execDrainStepBound s := rfl
theorem exec_drainComplete (s : State) : exec .drainComplete s = execDrainComplete s := rfl
theorem exec_routeTable (ring : Nat) (index : Nat) (s : State) : exec (.routeTable ring index) s = execRouteTable ring index s := rfl
theorem exec_schedConfig (ring : Nat) (index : Nat) (s : State) : exec (.schedConfig ring index) s = execSchedConfig ring index s := rfl
theorem exec_maskProfile (ring : Nat) (index : Nat) (s : State) : exec (.maskProfile ring index) s = execMaskProfile ring index s := rfl
theorem exec_tableEdit (ring : Nat) (index : Nat) (s : State) : exec (.tableEdit ring index) s = execTableEdit ring index s := rfl
theorem exec_holeRepair (die : Nat) (partition : Nat) (s : State) : exec (.holeRepair die partition) s = execHoleRepair die partition s := rfl
theorem exec_prefixLookup (ring : Nat) (index : Nat) (s : State) : exec (.prefixLookup ring index) s = execPrefixLookup ring index s := rfl
theorem exec_prefixCopyScan (die : Nat) (s : State) : exec (.prefixCopyScan die) s = execPrefixCopyScan die s := rfl
theorem exec_cntConfig (ring : Nat) (index : Nat) (s : State) : exec (.cntConfig ring index) s = execCntConfig ring index s := rfl
theorem exec_cntSnapshot (ring : Nat) (index : Nat) (s : State) : exec (.cntSnapshot ring index) s = execCntSnapshot ring index s := rfl
theorem exec_cntFreeze (ring : Nat) (index : Nat) (s : State) : exec (.cntFreeze ring index) s = execCntFreeze ring index s := rfl
theorem exec_cntUnfreeze (ring : Nat) (index : Nat) (s : State) : exec (.cntUnfreeze ring index) s = execCntUnfreeze ring index s := rfl
theorem exec_snapshotCapture (die : Nat) (s : State) : exec (.snapshotCapture die) s = execSnapshotCapture die s := rfl
theorem exec_derivedWindowEnd (unit : Nat) (s : State) : exec (.derivedWindowEnd unit) s = execDerivedWindowEnd unit s := rfl
theorem exec_queueSample (queue : Nat) (s : State) : exec (.queueSample queue) s = execQueueSample queue s := rfl
theorem exec_objCreate (ring : Nat) (index : Nat) (s : State) : exec (.objCreate ring index) s = execObjCreate ring index s := rfl
theorem exec_objRecord (ring : Nat) (index : Nat) (s : State) : exec (.objRecord ring index) s = execObjRecord ring index s := rfl
theorem exec_recordNodeTimeout (object : Nat) (node : Nat) (s : State) : exec (.recordNodeTimeout object node) s = execRecordNodeTimeout object node s := rfl
theorem exec_objDelete (ring : Nat) (index : Nat) (s : State) : exec (.objDelete ring index) s = execObjDelete ring index s := rfl
theorem exec_objFork (ring : Nat) (index : Nat) (s : State) : exec (.objFork ring index) s = execObjFork ring index s := rfl
theorem exec_forkPageReady (ring : Nat) (index : Nat) (s : State) : exec (.forkPageReady ring index) s = execForkPageReady ring index s := rfl
theorem exec_forkCopyDone (ring : Nat) (index : Nat) (key : Nat) (s : State) : exec (.forkCopyDone ring index key) s = execForkCopyDone ring index key s := rfl
theorem exec_place (ring : Nat) (index : Nat) (s : State) : exec (.place ring index) s = execPlace ring index s := rfl
theorem exec_sealFlush (ring : Nat) (index : Nat) (s : State) : exec (.sealFlush ring index) s = execSealFlush ring index s := rfl
theorem exec_shadowStart (ring : Nat) (index : Nat) (s : State) : exec (.shadowStart ring index) s = execShadowStart ring index s := rfl
theorem exec_loadOpen (ring : Nat) (index : Nat) (s : State) : exec (.loadOpen ring index) s = execLoadOpen ring index s := rfl
theorem exec_loadCloseCommit (ring : Nat) (index : Nat) (s : State) : exec (.loadCloseCommit ring index) s = execLoadCloseCommit ring index s := rfl
theorem exec_loadCloseDiscard (ring : Nat) (index : Nat) (s : State) : exec (.loadCloseDiscard ring index) s = execLoadCloseDiscard ring index s := rfl
theorem exec_pageInspect (ring : Nat) (index : Nat) (s : State) : exec (.pageInspect ring index) s = execPageInspect ring index s := rfl
theorem exec_objInspect (ring : Nat) (index : Nat) (s : State) : exec (.objInspect ring index) s = execObjInspect ring index s := rfl
theorem exec_bankopJob (ring : Nat) (index : Nat) (s : State) : exec (.bankopJob ring index) s = execBankopJob ring index s := rfl
theorem exec_localReserve (ring : Nat) (index : Nat) (s : State) : exec (.localReserve ring index) s = execLocalReserve ring index s := rfl
theorem exec_localRequest (ring : Nat) (index : Nat) (s : State) : exec (.localRequest ring index) s = execLocalRequest ring index s := rfl
theorem exec_localRelease (ring : Nat) (index : Nat) (s : State) : exec (.localRelease ring index) s = execLocalRelease ring index s := rfl
theorem exec_mdomCreate (ring : Nat) (index : Nat) (s : State) : exec (.mdomCreate ring index) s = execMdomCreate ring index s := rfl
theorem exec_mdomRekey (ring : Nat) (index : Nat) (s : State) : exec (.mdomRekey ring index) s = execMdomRekey ring index s := rfl
theorem exec_mdomDelete (ring : Nat) (index : Nat) (s : State) : exec (.mdomDelete ring index) s = execMdomDelete ring index s := rfl
theorem exec_regCreate (ring : Nat) (index : Nat) (s : State) : exec (.regCreate ring index) s = execRegCreate ring index s := rfl
theorem exec_regRevoke (ring : Nat) (index : Nat) (s : State) : exec (.regRevoke ring index) s = execRegRevoke ring index s := rfl
theorem exec_registrationDrained (reg : Nat) (s : State) : exec (.registrationDrained reg) s = execRegistrationDrained reg s := rfl
theorem exec_trigArm (ring : Nat) (index : Nat) (s : State) : exec (.trigArm ring index) s = execTrigArm ring index s := rfl
theorem exec_trigDisarm (ring : Nat) (index : Nat) (s : State) : exec (.trigDisarm ring index) s = execTrigDisarm ring index s := rfl
theorem exec_workPost (ring : Nat) (index : Nat) (s : State) : exec (.workPost ring index) s = execWorkPost ring index s := rfl
theorem exec_connClose (ring : Nat) (index : Nat) (s : State) : exec (.connClose ring index) s = execConnClose ring index s := rfl
theorem exec_linkSignalDetected (link : Nat) (s : State) : exec (.linkSignalDetected link) s = execLinkSignalDetected link s := rfl
theorem exec_linkNoSignalEvent (link : Nat) (s : State) : exec (.linkNoSignalEvent link) s = execLinkNoSignalEvent link s := rfl
theorem exec_linkEqualiseDone (link : Nat) (s : State) : exec (.linkEqualiseDone link) s = execLinkEqualiseDone link s := rfl
theorem exec_linkAlignLock (link : Nat) (s : State) : exec (.linkAlignLock link) s = execLinkAlignLock link s := rfl
theorem exec_identifyReceived (link : Nat) (payload : Bytes) (s : State) : exec (.identifyReceived link payload) s = execIdentifyReceived link payload s := rfl
theorem exec_identifySend (link : Nat) (s : State) : exec (.identifySend link) s = execIdentifySend link s := rfl
theorem exec_linkTrainingTimeout (link : Nat) (s : State) : exec (.linkTrainingTimeout link) s = execLinkTrainingTimeout link s := rfl
theorem exec_linkRetrain (link : Nat) (trigger : Nat) (s : State) : exec (.linkRetrain link trigger) s = execLinkRetrain link trigger s := rfl
theorem exec_retrainRequest (link : Nat) (s : State) : exec (.retrainRequest link) s = execRetrainRequest link s := rfl
theorem exec_linkLossOfSignal (link : Nat) (s : State) : exec (.linkLossOfSignal link) s = execLinkLossOfSignal link s := rfl
theorem exec_cablePresent (connector : Nat) (type : Nat) (length : Nat) (power : Nat) (s : State) : exec (.cablePresent connector type length power) s = execCablePresent connector type length power s := rfl
theorem exec_heartbeatAdvance (link : Nat) (s : State) : exec (.heartbeatAdvance link) s = execHeartbeatAdvance link s := rfl
theorem exec_heartbeatCheck (link : Nat) (s : State) : exec (.heartbeatCheck link) s = execHeartbeatCheck link s := rfl
theorem exec_flitReceive (link : Nat) (flit : Bytes) (bad : Bool) (s : State) : exec (.flitReceive link flit bad) s = execFlitReceive link flit bad s := rfl
theorem exec_nakResendTimeout (link : Nat) (s : State) : exec (.nakResendTimeout link) s = execNakResendTimeout link s := rfl
theorem exec_flitSlot (link : Nat) (s : State) : exec (.flitSlot link) s = execFlitSlot link s := rfl
theorem exec_hostPortSchedule (s : State) : exec .hostPortSchedule s = execHostPortSchedule s := rfl
theorem exec_messageHeadRoute (head : Nat) (s : State) : exec (.messageHeadRoute head) s = execMessageHeadRoute head s := rfl
theorem exec_headReevaluate (head : Nat) (s : State) : exec (.headReevaluate head) s = execHeadReevaluate head s := rfl
theorem exec_escapeWaitExpiry (head : Nat) (s : State) : exec (.escapeWaitExpiry head) s = execEscapeWaitExpiry head s := rfl
theorem exec_abortFlit (link : Nat) (vc : Nat) (s : State) : exec (.abortFlit link vc) s = execAbortFlit link vc s := rfl
theorem exec_messageReceive (link : Nat) (vc : Nat) (s : State) : exec (.messageReceive link vc) s = execMessageReceive link vc s := rfl
theorem exec_messageClassify (die : Nat) (s : State) : exec (.messageClassify die) s = execMessageClassify die s := rfl
theorem exec_connect (msg : Nat) (s : State) : exec (.connect msg) s = execConnect msg s := rfl
theorem exec_connectReply (msg : Nat) (s : State) : exec (.connectReply msg) s = execConnectReply msg s := rfl
theorem exec_connectResend (conn : Nat) (s : State) : exec (.connectResend conn) s = execConnectResend conn s := rfl
theorem exec_close (msg : Nat) (s : State) : exec (.close msg) s = execClose msg s := rfl
theorem exec_closeReply (msg : Nat) (s : State) : exec (.closeReply msg) s = execCloseReply msg s := rfl
theorem exec_connectionIdleClose (conn : Nat) (s : State) : exec (.connectionIdleClose conn) s = execConnectionIdleClose conn s := rfl
theorem exec_quarantineExpiry (conn : Nat) (s : State) : exec (.quarantineExpiry conn) s = execQuarantineExpiry conn s := rfl
theorem exec_transportAck (msg : Nat) (s : State) : exec (.transportAck msg) s = execTransportAck msg s := rfl
theorem exec_transportNak (msg : Nat) (s : State) : exec (.transportNak msg) s = execTransportNak msg s := rfl
theorem exec_notReadyRetry (conn : Nat) (seq : Nat) (s : State) : exec (.notReadyRetry conn seq) s = execNotReadyRetry conn seq s := rfl
theorem exec_ackDelayExpiry (conn : Nat) (s : State) : exec (.ackDelayExpiry conn) s = execAckDelayExpiry conn s := rfl
theorem exec_gapTimeout (conn : Nat) (s : State) : exec (.gapTimeout conn) s = execGapTimeout conn s := rfl
theorem exec_rtoExpiry (conn : Nat) (s : State) : exec (.rtoExpiry conn) s = execRtoExpiry conn s := rfl
theorem exec_contactLost (conn : Nat) (s : State) : exec (.contactLost conn) s = execContactLost conn s := rfl
theorem exec_contextFetchDone (conn : Nat) (crcOk : Bool) (s : State) : exec (.contextFetchDone conn crcOk) s = execContextFetchDone conn crcOk s := rfl
theorem exec_attnReserve (msg : Nat) (s : State) : exec (.attnReserve msg) s = execAttnReserve msg s := rfl
theorem exec_attnRelease (msg : Nat) (s : State) : exec (.attnRelease msg) s = execAttnRelease msg s := rfl
theorem exec_attnReserveReply (msg : Nat) (s : State) : exec (.attnReserveReply msg) s = execAttnReserveReply msg s := rfl
theorem exec_slotLeaseExpiry (slot : Nat) (s : State) : exec (.slotLeaseExpiry slot) s = execSlotLeaseExpiry slot s := rfl
theorem exec_slotGuardExpiry (slot : Nat) (s : State) : exec (.slotGuardExpiry slot) s = execSlotGuardExpiry slot s := rfl
theorem exec_attnRequest (msg : Nat) (s : State) : exec (.attnRequest msg) s = execAttnRequest msg s := rfl
theorem exec_pageResolve (slot : Nat) (die : Nat) (head : Nat) (s : State) : exec (.pageResolve slot die head) s = execPageResolve slot die head s := rfl
theorem exec_pageReadIssue (die : Nat) (copy : Nat) (s : State) : exec (.pageReadIssue die copy) s = execPageReadIssue die copy s := rfl
theorem exec_pageStaged (die : Nat) (copy : Nat) (s : State) : exec (.pageStaged die copy) s = execPageStaged die copy s := rfl
theorem exec_pageReadFail (die : Nat) (copy : Nat) (cause : Nat) (s : State) : exec (.pageReadFail die copy cause) s = execPageReadFail die copy cause s := rfl
theorem exec_arrayPassEnd (die : Nat) (copy : Nat) (slot : Nat) (head : Nat) (s : State) : exec (.arrayPassEnd die copy slot head) s = execArrayPassEnd die copy slot head s := rfl
theorem exec_treeNodeEmit (slot : Nat) (part : Nat) (s : State) : exec (.treeNodeEmit slot part) s = execTreeNodeEmit slot part s := rfl
theorem exec_partHandoff (slot : Nat) (part : Nat) (s : State) : exec (.partHandoff slot part) s = execPartHandoff slot part s := rfl
theorem exec_requestDeadline (slot : Nat) (s : State) : exec (.requestDeadline slot) s = execRequestDeadline slot s := rfl
theorem exec_requestError (slot : Nat) (die : Nat) (status : Nat) (s : State) : exec (.requestError slot die status) s = execRequestError slot die status s := rfl
theorem exec_attnPartial (msg : Nat) (s : State) : exec (.attnPartial msg) s = execAttnPartial msg s := rfl
theorem exec_append (msg : Nat) (s : State) : exec (.append msg) s = execAppend msg s := rfl
theorem exec_appendMirrorCopy (msg : Nat) (s : State) : exec (.appendMirrorCopy msg) s = execAppendMirrorCopy msg s := rfl
theorem exec_appendAck (msg : Nat) (s : State) : exec (.appendAck msg) s = execAppendAck msg s := rfl
theorem exec_mirrorCopyResend (ack : Nat) (s : State) : exec (.mirrorCopyResend ack) s = execMirrorCopyResend ack s := rfl
theorem exec_appendDeadline (held : Nat) (s : State) : exec (.appendDeadline held) s = execAppendDeadline held s := rfl
theorem exec_heldAppendRelease (held : Nat) (s : State) : exec (.heldAppendRelease held) s = execHeldAppendRelease held s := rfl
theorem exec_sealComplete (die : Nat) (s : State) : exec (.sealComplete die) s = execSealComplete die s := rfl
theorem exec_rmaWrite (msg : Nat) (s : State) : exec (.rmaWrite msg) s = execRmaWrite msg s := rfl
theorem exec_rmaRead (msg : Nat) (s : State) : exec (.rmaRead msg) s = execRmaRead msg s := rfl
theorem exec_rmaResp (msg : Nat) (s : State) : exec (.rmaResp msg) s = execRmaResp msg s := rfl
theorem exec_workRequestComplete (work : Nat) (status : Nat) (s : State) : exec (.workRequestComplete work status) s = execWorkRequestComplete work status s := rfl
theorem exec_statusReportSend (s : State) : exec .statusReportSend s = execStatusReportSend s := rfl
theorem exec_statusReport (msg : Nat) (s : State) : exec (.statusReport msg) s = execStatusReport msg s := rfl
theorem exec_suspectSend (node : Nat) (s : State) : exec (.suspectSend node) s = execSuspectSend node s := rfl
theorem exec_suspect (msg : Nat) (s : State) : exec (.suspect msg) s = execSuspect msg s := rfl
theorem exec_suspectLapse (domain : Nat) (subject : Nat) (reporter : Nat) (s : State) : exec (.suspectLapse domain subject reporter) s = execSuspectLapse domain subject reporter s := rfl
theorem exec_reportSilenceTimeout (domain : Nat) (subject : Nat) (s : State) : exec (.reportSilenceTimeout domain subject) s = execReportSilenceTimeout domain subject s := rfl
theorem exec_proposeDelayExpiry (domain : Nat) (s : State) : exec (.proposeDelayExpiry domain) s = execProposeDelayExpiry domain s := rfl
theorem exec_propose (msg : Nat) (s : State) : exec (.propose msg) s = execPropose msg s := rfl
theorem exec_vote (msg : Nat) (s : State) : exec (.vote msg) s = execVote msg s := rfl
theorem exec_proposalAbandon (domain : Nat) (s : State) : exec (.proposalAbandon domain) s = execProposalAbandon domain s := rfl
theorem exec_grantLeaseExpiry (domain : Nat) (s : State) : exec (.grantLeaseExpiry domain) s = execGrantLeaseExpiry domain s := rfl
theorem exec_memberUpdate (msg : Nat) (s : State) : exec (.memberUpdate msg) s = execMemberUpdate msg s := rfl
theorem exec_memberPull (msg : Nat) (s : State) : exec (.memberPull msg) s = execMemberPull msg s := rfl
theorem exec_join (msg : Nat) (s : State) : exec (.join msg) s = execJoin msg s := rfl
theorem exec_joinSend (s : State) : exec .joinSend s = execJoinSend s := rfl
theorem exec_frozenDomainEvent (domain : Nat) (s : State) : exec (.frozenDomainEvent domain) s = execFrozenDomainEvent domain s := rfl
theorem exec_lastReplicaSuspectEvent (domain : Nat) (subject : Nat) (s : State) : exec (.lastReplicaSuspectEvent domain subject) s = execLastReplicaSuspectEvent domain subject s := rfl
theorem exec_stragglerGossipSend (comp : Nat) (s : State) : exec (.stragglerGossipSend comp) s = execStragglerGossipSend comp s := rfl
theorem exec_stragglerGossip (msg : Nat) (s : State) : exec (.stragglerGossip msg) s = execStragglerGossip msg s := rfl
theorem exec_homeQuery (msg : Nat) (s : State) : exec (.homeQuery msg) s = execHomeQuery msg s := rfl
theorem exec_homeReply (msg : Nat) (s : State) : exec (.homeReply msg) s = execHomeReply msg s := rfl
theorem exec_shardUpdate (msg : Nat) (s : State) : exec (.shardUpdate msg) s = execShardUpdate msg s := rfl
theorem exec_shardAck (msg : Nat) (s : State) : exec (.shardAck msg) s = execShardAck msg s := rfl
theorem exec_homeRecordChange (object : Nat) (s : State) : exec (.homeRecordChange object) s = execHomeRecordChange object s := rfl
theorem exec_shardWithdraw (msg : Nat) (s : State) : exec (.shardWithdraw msg) s = execShardWithdraw msg s := rfl
theorem exec_tailOffer (msg : Nat) (s : State) : exec (.tailOffer msg) s = execTailOffer msg s := rfl
theorem exec_tailAccept (msg : Nat) (s : State) : exec (.tailAccept msg) s = execTailAccept msg s := rfl
theorem exec_handoverTimeout (object : Nat) (shard : Nat) (s : State) : exec (.handoverTimeout object shard) s = execHandoverTimeout object shard s := rfl
theorem exec_pageFetch (msg : Nat) (s : State) : exec (.pageFetch msg) s = execPageFetch msg s := rfl
theorem exec_pageImage (msg : Nat) (s : State) : exec (.pageImage msg) s = execPageImage msg s := rfl
theorem exec_shadowCompare (object : Nat) (shard : Nat) (request : Nat) (s : State) : exec (.shadowCompare object shard request) s = execShadowCompare object shard request s := rfl
theorem exec_shadowDigest (msg : Nat) (s : State) : exec (.shadowDigest msg) s = execShadowDigest msg s := rfl
theorem exec_shadowReady (msg : Nat) (s : State) : exec (.shadowReady msg) s = execShadowReady msg s := rfl
theorem exec_recoveryAttempt (key : Nat) (s : State) : exec (.recoveryAttempt key) s = execRecoveryAttempt key s := rfl
theorem exec_pageFetchTimeout (key : Nat) (s : State) : exec (.pageFetchTimeout key) s = execPageFetchTimeout key s := rfl
theorem exec_recoveryRetry (key : Nat) (s : State) : exec (.recoveryRetry key) s = execRecoveryRetry key s := rfl
theorem exec_migrationMove (die : Nat) (s : State) : exec (.migrationMove die) s = execMigrationMove die s := rfl
theorem exec_migrationComplete (move : Nat) (s : State) : exec (.migrationComplete move) s = execMigrationComplete move s := rfl
theorem exec_tier2WriteRetry (key : Nat) (s : State) : exec (.tier2WriteRetry key) s = execTier2WriteRetry key s := rfl
theorem exec_placementShortfall (move : Nat) (s : State) : exec (.placementShortfall move) s = execPlacementShortfall move s := rfl
theorem exec_prefetchReadIssue (die : Nat) (s : State) : exec (.prefetchReadIssue die) s = execPrefetchReadIssue die s := rfl
theorem exec_prefetchCopyArrive (copy : Nat) (s : State) : exec (.prefetchCopyArrive copy) s = execPrefetchCopyArrive copy s := rfl
theorem exec_freedRunScrub (frame : Nat) (s : State) : exec (.freedRunScrub frame) s = execFreedRunScrub frame s := rfl
theorem exec_runReferenceDrop (frame : Nat) (s : State) : exec (.runReferenceDrop frame) s = execRunReferenceDrop frame s := rfl
theorem exec_rowOpStart (slice : Nat) (s : State) : exec (.rowOpStart slice) s = execRowOpStart slice s := rfl
theorem exec_rowOpComplete (slice : Nat) (bank : Nat) (s : State) : exec (.rowOpComplete slice bank) s = execRowOpComplete slice bank s := rfl
theorem exec_bankopJobComplete (job : Nat) (s : State) : exec (.bankopJobComplete job) s = execBankopJobComplete job s := rfl
theorem exec_memoryReadComplete (burst : Nat) (error : Bytes) (reader : Reader) (s : State) : exec (.memoryReadComplete burst error reader) s = execMemoryReadComplete burst error reader s := rfl
theorem exec_partialBurstWrite (addr : Nat) (data : Bytes) (host : Bool) (s : State) : exec (.partialBurstWrite addr data host) s = execPartialBurstWrite addr data host s := rfl
theorem exec_refreshDue (bank : Nat) (s : State) : exec (.refreshDue bank) s = execRefreshDue bank s := rfl
theorem exec_refreshManagementRequest (bank : Nat) (s : State) : exec (.refreshManagementRequest bank) s = execRefreshManagementRequest bank s := rfl
theorem exec_deviceTempRead (device : Nat) (celsius : Int) (s : State) : exec (.deviceTempRead device celsius) s = execDeviceTempRead device celsius s := rfl
theorem exec_impedanceRecal (channel : Nat) (s : State) : exec (.impedanceRecal channel) s = execImpedanceRecal channel s := rfl
theorem exec_dqTracking (channel : Nat) (celsius : Int) (s : State) : exec (.dqTracking channel celsius) s = execDqTracking channel celsius s := rfl
theorem exec_patrolRead (sub : Nat) (s : State) : exec (.patrolRead sub) s = execPatrolRead sub s := rfl
theorem exec_matchScrub (die : Nat) (s : State) : exec (.matchScrub die) s = execMatchScrub die s := rfl
theorem exec_selfRefreshExit (die : Nat) (failed : Nat) (s : State) : exec (.selfRefreshExit die failed) s = execSelfRefreshExit die failed s := rfl
theorem exec_matchEnableDone (s : State) : exec .matchEnableDone s = execMatchEnableDone s := rfl
theorem exec_shadowComparisonDeadline (object : Nat) (shard : Nat) (request : Nat) (s : State) : exec (.shadowComparisonDeadline object shard request) s = execShadowComparisonDeadline object shard request s := rfl

end Sys2Proof.Machine
end

