-- ==== Sys2Proof/Laws/Memory.lean ====
section
/-! SUPPORT. Every operation that writes tier 1 keeps the canonical form of memory. -/

namespace Sys2Proof.Machine

/-- Tier-1 memory of a chip is in its canonical form. -/
def Chip.MemOk (k : Chip) : Prop := Memory.wf k.mem = true

theorem onDev_memOk {k : Chip} (h : k.MemOk) (f : Dev → Dev) : (k.onDev f).MemOk := h

theorem mk_memOk {k : Chip} (h : k.MemOk) (d : Dev) : (Chip.mk d k.mem).MemOk := h

theorem memClear_wf {m : Memory} (h : Memory.wf m = true) (a n : Nat) : Memory.wf (memClear m a n) = true :=
  tcanon_filter h _

theorem foldl_wf {α : Type} {f : Memory → α → Memory} (hf : ∀ m x, Memory.wf m = true → Memory.wf (f m x) = true)
    (l : List α) {m : Memory} (h : Memory.wf m = true) : Memory.wf (l.foldl f m) = true := by
  induction l generalizing m with
  | nil => exact h
  | cons x l ih => exact ih (hf m x h)

theorem foldl_memOk {α : Type} {f : Chip → α → Chip} (hf : ∀ k x, k.MemOk → (f k x).MemOk) (l : List α) {k : Chip}
    (h : k.MemOk) : (l.foldl f k).MemOk := by
  induction l generalizing k with
  | nil => exact h
  | cons x l ih => exact ih (hf k x h)

theorem when_memOk {k : Chip} (h : k.MemOk) {c : Bool} {f : Chip → Chip} (hf : ∀ k : Chip, k.MemOk → (f k).MemOk) :
    (k.when c f).MemOk := by
  cases c
  · exact h
  · exact hf k h

theorem rmwData_wf (d : Dev) (a n : Nat) (m : Memory) (p : Nat × Bytes) (h : Memory.wf m = true) :
    Memory.wf (rmwData d a n m p) = true := by
  unfold rmwData; split
  · exact h
  · exact memWrite_wf h _ _

theorem storeNow_memOk {k : Chip} (h : k.MemOk) (a : Nat) (b : Bytes) : (storeNow k a b).MemOk :=
  memWrite_wf (foldl_wf (rmwData_wf k.dev a b.length) _ h) a b

theorem nodeWrite_memOk {k : Chip} (h : k.MemOk) (a : Nat) (b : Bytes) : (nodeWrite k a b).MemOk := by
  unfold nodeWrite; dsimp only; split
  · exact storeNow_memOk h a b
  · exact h

theorem zeroNow_memOk {k : Chip} (h : k.MemOk) (a n : Nat) : (zeroNow k a n).MemOk := memClear_wf h a n

theorem zeroRange_memOk {k : Chip} (h : k.MemOk) (a n : Nat) : (zeroRange k a n).MemOk := by
  unfold zeroRange; split
  · exact zeroNow_memOk h a n
  · exact nodeWrite_memOk h a _

theorem copyRange_wf {m : Memory} (h : Memory.wf m = true) (src dst n : Nat) : Memory.wf (copyRange m src dst n) = true :=
  foldl_wf (fun _ _ hm => memPut_wf hm _ _) _ (memClear_wf h dst n)

theorem copyStructures_memOk {k : Chip} (h : k.MemOk) (src dst n : Nat) : (copyStructures k src dst n).MemOk :=
  copyRange_wf h src dst n

theorem restoreCopies_memOk {k : Chip} (h : k.MemOk) (die : Nat) : (restoreCopies k die).MemOk := by
  unfold restoreCopies; dsimp only; split
  · split
    · exact copyStructures_memOk h _ _ _
    · split
      · exact copyStructures_memOk h _ _ _
      · exact h
  · exact h

theorem writeAll_memOk {k : Chip} (h : k.MemOk) (ws : List (Nat × Bytes)) : (writeAll k ws).MemOk := by
  induction ws generalizing k with
  | nil => exact h
  | cons w ws ih => exact ih (nodeWrite_memOk h w.1 w.2)

theorem failedCopy_memOk {k : Chip} (h : k.MemOk) (a n : Nat) : (failedCopy k a n).MemOk :=
  when_memOk h fun _ hk => onDev_memOk hk _

theorem mendCopy_memOk {k : Chip} (h : k.MemOk) (a n : Nat) (b : Bytes) : (mendCopy k a n b).MemOk :=
  when_memOk h fun _ hk => storeNow_memOk (failedCopy_memOk hk _ _) _ _

theorem readTwice_memOk {k : Chip} (h : k.MemOk) (addr : Nat → Nat) (n : Nat) : (readTwice k addr n).2.MemOk := by
  unfold readTwice; dsimp only; split
  · exact h
  · exact mendCopy_memOk h _ _ _
  · exact mendCopy_memOk h _ _ _
  · exact failedCopy_memOk (failedCopy_memOk h _ _) _ _

theorem readCopy_memOk {k : Chip} (h : k.MemOk) (slot : Nat) : (readCopy k slot).2.MemOk := readTwice_memOk h _ _

theorem readBucket_memOk {k : Chip} (h : k.MemOk) (bucket : Nat) : (readBucket k bucket).2.MemOk := readTwice_memOk h _ _

theorem writeTwice_memOk {k : Chip} (h : k.MemOk) (addr : Nat → Nat) (b : Bytes) : (writeTwice k addr b).MemOk :=
  when_memOk (when_memOk h fun _ hk => storeNow_memOk hk _ _) fun _ hk => storeNow_memOk hk _ _

theorem writeBucket_memOk {k : Chip} (h : k.MemOk) (bucket : Nat) (b : Bytes) : (writeBucket k bucket b).MemOk :=
  writeTwice_memOk h _ _

theorem writeEntry_memOk {k : Chip} (h : k.MemOk) (die index : Nat) (e : Option MEntry) : (writeEntry k die index e).MemOk :=
  onDev_memOk (writeTwice_memOk h _ _) _

theorem writeEntries_memOk {k : Chip} (h : k.MemOk) (die : Nat) (ws : List (Nat × Option MEntry)) :
    (writeEntries k die ws).MemOk := foldl_memOk (fun _ _ hk => writeEntry_memOk hk _ _ _) ws h

theorem insertEntry_memOk {k k' : Chip} (h : k.MemOk) {part : Nat} {e : MEntry} (hi : insertEntry k part e = some k') :
    k'.MemOk := by
  unfold insertEntry at hi; dsimp only at hi; split at hi
  · cases hi
  · injection hi with hi
    subst hi
    exact onDev_memOk (foldl_memOk (fun _ _ hk => writeEntries_memOk hk _ _) _ h) _

theorem teaselRefill_memOk {k : Chip} (h : k.MemOk) (die : Nat) : (teaselRefill k die).MemOk := by
  unfold teaselRefill; dsimp only; split
  · refine foldl_memOk (fun k slot hk => ?_) _ h
    have := readCopy_memOk hk slot
    split <;> rename_i he <;> rw [he] at this <;> exact this
  · exact h

theorem appendDone_memOk {k : Chip} (h : k.MemOk) (bytes : Bytes) (conn action : Nat) (me : Option HeldAppend) (status : Nat)
    (full : Bool) : (appendDone k bytes conn action me status full).MemOk := onDev_memOk h _

theorem appendWrite_memOk {k : Chip} (h : k.MemOk) (b : Bytes) (g : Geom) (key v : Nat) : (appendWrite k b g key v).1.MemOk := by
  unfold appendWrite; dsimp only; split
  · with_reducible exact mk_memOk h _
  · dsimp only; split
    · exact onDev_memOk (writeAll_memOk h _) _
    · exact writeAll_memOk h _

theorem appendRun_memOk {k : Chip} (h : k.MemOk) (b : Bytes) (o : Obj) (img : Option Bytes) (copied : Bool) :
    (appendRun k b o img copied).1.MemOk := by
  unfold appendRun; dsimp only
  repeat' split
  all_goals first
    | with_reducible exact h
    | with_reducible exact mk_memOk h _
    | with_reducible exact onDev_memOk h _
    | with_reducible exact appendWrite_memOk h _ _ _ _
    | with_reducible exact appendWrite_memOk (nodeWrite_memOk (mk_memOk h _) _ _) _ _ _ _

theorem appendRun_fst {k k' : Chip} (h : k.MemOk) {b : Bytes} {o : Obj} {img : Option Bytes} {copied : Bool} {e : ApEnd}
    (he : appendRun k b o img copied = (k', e)) : k'.MemOk := by
  have hr := appendRun_memOk h b o img copied
  rw [he] at hr
  exact hr

theorem appendHold_memOk {k : Chip} (h : k.MemOk) (bytes : Bytes) (conn action arrived why : Nat) (me : Option HeldAppend) :
    (appendHold k bytes conn action arrived why me).MemOk := by
  unfold appendHold; dsimp only
  repeat' split
  all_goals first
    | with_reducible exact appendDone_memOk h _ _ _ _ _ _
    | with_reducible exact onDev_memOk h _

theorem appendGo_memOk {k : Chip} (h : k.MemOk) (bytes : Bytes) (conn action arrived : Nat) (me : Option HeldAppend)
    (img : Option Bytes) : (appendGo k bytes conn action arrived me img).MemOk := by
  unfold appendGo; dsimp only
  split
  · exact appendDone_memOk (mk_memOk h _) _ _ _ _ _ _
  · split
    · exact appendDone_memOk h _ _ _ _ _ _
    · exact appendHold_memOk h _ _ _ _ _ _
    · split
      · exact appendDone_memOk h _ _ _ _ _ _
      · split <;> rename_i he
        · exact appendDone_memOk (appendRun_fst h he) _ _ _ _ _ _
        · exact appendHold_memOk (appendRun_fst h he) _ _ _ _ _ _
        · exact onDev_memOk (appendRun_fst h he) _

theorem appendOp_memOk {k : Chip} (h : k.MemOk) (m : Inb) : (appendOp k m).MemOk := by
  unfold appendOp; dsimp only; split
  · exact onDev_memOk h _
  · exact appendGo_memOk (onDev_memOk h _) _ _ _ _ _ _

theorem onAppend_memOk {k : Chip} (h : k.MemOk) (msg : Nat) (mirror : Bool) : (onAppend k msg mirror).MemOk := by
  unfold onAppend; split
  · split
    · exact appendOp_memOk (onDev_memOk h _) _
    · exact h
  · exact h

theorem sealOp_memOk {k : Chip} (h : k.MemOk) (die key : Nat) : (sealOp k die key).MemOk := by
  unfold sealOp; dsimp only
  repeat' split
  all_goals first
    | exact onDev_memOk h _
    | exact onDev_memOk (onDev_memOk h _) _
    | exact onDev_memOk (nodeWrite_memOk (onDev_memOk h _) _ _) _

theorem granuleDone_memOk {k : Chip} (h : k.MemOk) (slice : Nat) : (granuleDone k slice).MemOk := by
  unfold granuleDone; split
  · exact h
  · split
    · exact h
    · dsimp only
      iterate 2
        refine iteInduction (motive := Chip.MemOk) (fun _ => onDev_memOk h _) fun _ => ?_
      refine onDev_memOk ?_ _
      split
      · exact h
      · exact zeroNow_memOk h _ _

/-! Accesses of the host and the writes that wait for it. -/

theorem hostWriteNow_memOk {k : Chip} (h : k.MemOk) (a : Nat) (b : Bytes) : (hostWriteNow k a b).MemOk := by
  unfold hostWriteNow; split
  · exact onDev_memOk h _
  · split
    · exact storeNow_memOk (onDev_memOk h _) _ _
    · exact onDev_memOk h _

theorem hostWrite_memOk {k : Chip} (h : k.MemOk) (a : Nat) (b : Bytes) : (hostWrite k a b).MemOk := by
  unfold hostWrite; split
  · exact onDev_memOk h _
  · exact hostWriteNow_memOk h a b

theorem writeNow_memOk {k : Chip} (h : k.MemOk) (w : WaitWrite) : (writeNow k w).MemOk := by
  unfold writeNow; split
  · exact hostWriteNow_memOk h _ _
  · split
    · exact storeNow_memOk h _ _
    · exact onDev_memOk h _

theorem releaseFrom_memOk (ws : List WaitWrite) {k : Chip} (h : k.MemOk) : (releaseFrom k ws).MemOk := by
  induction ws generalizing k with
  | nil => exact h
  | cons w ws ih =>
    unfold releaseFrom; split
    · exact ih (writeNow_memOk h w)
    · exact ih (onDev_memOk h _)

theorem releaseWrites_memOk {k : Chip} (h : k.MemOk) : (releaseWrites k).MemOk := releaseFrom_memOk _ (onDev_memOk h _)

theorem hostReadNow_memOk {k : Chip} (h : k.MemOk) (a : Nat) : (hostReadNow k a).MemOk := onDev_memOk h _

theorem readWaits_memOk {k : Chip} (h : k.MemOk) (a : Nat) (o : Option Nat) : (readWaits k a o).MemOk := onDev_memOk h _

theorem readQueued_memOk {k : Chip} (h : k.MemOk) (a : Nat) : (readQueued k a).MemOk := by
  unfold readQueued; split
  · exact readWaits_memOk h _ _
  · exact hostReadNow_memOk h a

theorem hostRead_memOk {k : Chip} (h : k.MemOk) (a : Nat) : (hostRead k a).MemOk := by
  unfold hostRead; dsimp only
  repeat' split
  all_goals first
    | with_reducible exact h
    | with_reducible exact readWaits_memOk h _ _
    | with_reducible exact readQueued_memOk h _
    | with_reducible exact readQueued_memOk (onDev_memOk h _) _
    | with_reducible exact onDev_memOk (readWaits_memOk h _ _) _

theorem retryQueued_memOk {k : Chip} (h : k.MemOk) (a : Nat) : (retryQueued k a).MemOk := by
  unfold retryQueued; dsimp only; split
  · exact onDev_memOk (readQueued_memOk h a) _
  · exact readQueued_memOk h a

theorem retryReads_memOk {k : Chip} (h : k.MemOk) (queued : Bool) : (retryReads k queued).MemOk := by
  unfold retryReads
  refine foldl_memOk (fun k q hk => ?_) _ (onDev_memOk h _)
  cases queued
  · exact hostRead_memOk hk _
  · exact retryQueued_memOk hk _

theorem memReleased_memOk {k : Chip} (h : k.MemOk) : (memReleased k).MemOk :=
  retryReads_memOk (releaseWrites_memOk (retryReads_memOk h true)) false

theorem rowWrite_memOk {k : Chip} (h : k.MemOk) (a : Nat) (b : Bytes) : (rowWrite k a b).MemOk := by
  unfold rowWrite; dsimp only; split
  · exact storeNow_memOk h a b
  · exact onDev_memOk h _

theorem rowEffect_memOk {k : Chip} (h : k.MemOk) (j : Job) (o : RowOp) : (rowEffect k j o).MemOk := by
  unfold rowEffect; split
  · exact foldl_memOk (fun _ _ hk => rowWrite_memOk hk _ _) _ h
  · exact rowWrite_memOk h _ _

theorem rowOpDone_memOk {k : Chip} (h : k.MemOk) (slice bank : Nat) : (rowOpDone k slice bank).MemOk := by
  unfold rowOpDone; split
  · exact h
  · dsimp only; split
    · exact memReleased_memOk (onDev_memOk h _)
    · exact memReleased_memOk (onDev_memOk (rowEffect_memOk (onDev_memOk h _) _ _) _)

theorem jobLost_memOk {k : Chip} (h : k.MemOk) (j : Job) : (jobLost k j).MemOk := by
  unfold jobLost
  refine onDev_memOk (foldl_memOk (fun k p hk => ?_) _ h) _
  dsimp only
  split
  · exact rowOpDone_memOk (mk_memOk hk _) _ _
  · exact onDev_memOk (mk_memOk hk _) _

theorem yarrowLost_memOk {k : Chip} (h : k.MemOk) (die : Nat) : (yarrowLost k die).MemOk := by
  unfold yarrowLost
  exact onDev_memOk (foldl_memOk (fun _ _ hk => appendDone_memOk hk _ _ _ _ _ _) _
    (foldl_memOk (fun _ _ hk => jobLost_memOk hk _) _ (onDev_memOk (onDev_memOk h _) _))) _

theorem hubLose_memOk {k : Chip} (h : k.MemOk) (m : Inb) : (hubLose k m).MemOk := by
  unfold hubLose; dsimp only; split
  · exact onDev_memOk (onDev_memOk h _) _
  · exact appendDone_memOk (onDev_memOk h _) _ _ _ _ _ _

theorem vetchLost_memOk {k : Chip} (h : k.MemOk) : (vetchLost k).MemOk :=
  onDev_memOk (foldl_memOk (fun _ _ hk => hubLose_memOk hk _) _ h) _

theorem endWork_memOk {k : Chip} (h : k.MemOk) : (endWork k).MemOk := by
  unfold endWork
  exact onDev_memOk (foldl_memOk (fun _ _ hk => appendDone_memOk hk _ _ _ _ _ _) _ (onDev_memOk h _)) _

theorem drainAdvance_memOk {k : Chip} (h : k.MemOk) : (drainAdvance k).MemOk := by
  unfold drainAdvance
  exact when_memOk (when_memOk (when_memOk h fun _ hk => onDev_memOk hk _) fun _ hk => onDev_memOk hk _)
    fun _ hk => onDev_memOk (endWork_memOk hk) _

theorem coherenceFails_memOk {k : Chip} (h : k.MemOk) : (coherenceFails k).MemOk := by
  unfold coherenceFails
  exact onDev_memOk (releaseWrites_memOk (onDev_memOk h _)) _

theorem classEdit_memOk {k k' : Chip} (h : k.MemOk) {r : Edit} (he : classEdit k r = .applied k') : k'.MemOk := by
  unfold classEdit at he; dsimp only at he
  split at he
  · split at he
    · cases he
    · split at he
      · injection he with he; subst he; exact insertEntry_memOk h ‹_›
      · cases he
  · split at he
    · cases he
    · split at he <;> injection he with he <;> subst he <;>
        exact writeEntry_memOk (writeEntry_memOk h _ _ _) _ _ _

theorem prefixEdit_memOk {k k' : Chip} (h : k.MemOk) {r : Edit} (he : prefixEdit k r = .applied k') : k'.MemOk := by
  unfold prefixEdit at he; dsimp only at he
  split at he
  · injection he with he; subst he; exact writeEntry_memOk h _ _ _
  · have hb := readBucket_memOk h (bucketOf k.dev r.value)
    split at he
    · cases he
    · rename_i hr
      rw [hr] at hb
      dsimp only at hb he
      repeat' split at he
      all_goals first
        | cases he; done
        | (injection he with he; subst he; exact onDev_memOk (writeBucket_memOk hb _ _) _)
        | (injection he with he; subst he; exact writeBucket_memOk hb _ _)
        | (injection he with he; subst he; exact insertEntry_memOk hb ‹_›)

theorem editOne_memOk {k k' : Chip} (h : k.MemOk) {b : Bytes} (he : editOne k b = .applied k') : k'.MemOk := by
  unfold editOne at he; dsimp only at he
  split at he
  · split at he
    · exact classEdit_memOk h he
    · exact prefixEdit_memOk h he
  · cases he

theorem editRun_memOk (ring index count : Nat) (buf : Bytes) (f n : Nat) {k : Chip} (h : k.MemOk) :
    (editRun ring index count buf f n k).MemOk := by
  induction f generalizing n k with
  | zero => exact onDev_memOk h _
  | succ f ih =>
    unfold editRun
    split
    · exact onDev_memOk h _
    · split
      · exact ih _ (editOne_memOk h ‹_›)
      · exact onDev_memOk h _
      · exact onDev_memOk h _

theorem ite_snd_memOk {α : Type} {c : Prop} [Decidable c] {p q : α × Chip} (hp : p.2.MemOk) (hq : q.2.MemOk) :
    (if c then p else q).2.MemOk := by
  split <;> assumption

theorem pageConfirms_memOk {k : Chip} (h : k.MemOk) (key action : Nat) (got : Option (Nat × Option Bytes)) :
    (pageConfirms k key action got).2.MemOk := by
  unfold pageConfirms; dsimp only
  repeat' split
  all_goals first
    | with_reducible exact h
    | with_reducible exact mk_memOk h _

theorem confirmHit_memOk {k : Chip} (h : k.MemOk) (die i key : Nat) (e : MEntry) (got : Option (Nat × Option Bytes)) :
    (confirmHit k die i key e got).2.MemOk := by
  have hc := pageConfirms_memOk h key e.action got
  unfold confirmHit
  split <;> rename_i he <;> rw [he] at hc
  · exact hc
  · exact onDev_memOk (writeEntry_memOk hc _ _ _) _
  · exact hc
  · exact hc

theorem scanCopies_memOk (die key : Nat) (is : List Nat) {k : Chip} (h : k.MemOk) : (scanCopies die key is k).2.MemOk := by
  induction is generalizing k with
  | nil => exact h
  | cons i is ih =>
    unfold scanCopies
    have hr := readCopy_memOk h (matIndex die i)
    split <;> rename_i he <;> rw [he] at hr
    · exact hr
    · split
      · split
        · exact hr
        · exact ih hr
      · exact ih hr

theorem copyLookup_memOk {k : Chip} (h : k.MemOk) (die key : Nat) (got : Option (Nat × Option Bytes)) :
    (copyLookup k die key got).2.MemOk := by
  unfold copyLookup; dsimp only
  have hs := scanCopies_memOk die key ((List.range ((partRange k.dev 1).2 - (partRange k.dev 1).1)).map
    (· + (partRange k.dev 1).1)) h
  split <;> rename_i he <;> rw [he] at hs
  · exact hs
  · exact hs
  · split
    · exact hs
    · exact confirmHit_memOk hs _ _ _ _ _

theorem arrayLookup_memOk (die key : Nat) (got : Option (Nat × Option Bytes)) (f : Nat) {k : Chip} (h : k.MemOk) :
    (arrayLookup k die key got f).2.MemOk := by
  induction f generalizing k with
  | zero => exact h
  | succ f ih =>
    unfold arrayLookup; dsimp only
    have h1 : (k.onDev fun d => count d die 0x2400 1).MemOk := onDev_memOk h _
    generalize (k.onDev fun d => count d die 0x2400 1) = k1 at h1
    split
    · exact h1
    · have h2 : (k1.onDev fun d => count d die 0x2410 1).MemOk := onDev_memOk h1 _
      generalize (k1.onDev fun d => count d die 0x2410 1) = k2 at h2
      split
      · exact h2
      · rename_i i e _ _
        have h3 := readCopy_memOk h2 (matIndex die i)
        split <;> rename_i hr <;> rw [hr] at h3 <;> dsimp only at h3
        · exact h3
        · exact ite_snd_memOk (confirmHit_memOk h3 _ _ _ _ _) (ih (onDev_memOk h3 _))

theorem overflowLookup_memOk {k : Chip} (h : k.MemOk) (key : Nat) (found : Found) (got : Option (Nat × Option Bytes)) :
    (overflowLookup k key found got).2.MemOk := by
  unfold overflowLookup; dsimp only
  split
  · exact h
  · have h1 : (k.onDev fun d => count d (prefixDie key) 0x2450 1).MemOk := onDev_memOk h _
    generalize (k.onDev fun d => count d (prefixDie key) 0x2450 1) = k1 at h1
    have h2 := readBucket_memOk h1 (bucketOf k1.dev key)
    split <;> rename_i hr <;> rw [hr] at h2 <;> dsimp only at h2
    · with_reducible exact h2
    · split
      · rename_i r _
        have h3 := pageConfirms_memOk h2 key r.2 got
        split <;> rename_i hc <;> rw [hc] at h3 <;> dsimp only at h3
        · with_reducible exact h3
        · with_reducible exact h3
        · with_reducible exact h3
        · with_reducible exact onDev_memOk (writeBucket_memOk h3 _ _) _
      · split <;> with_reducible exact h2

theorem prefixAnswer_memOk {k : Chip} (h : k.MemOk) (key : Nat) (scan : Bool) (got : Option (Nat × Option Bytes)) :
    (prefixAnswer k key scan got).2.MemOk := by
  unfold prefixAnswer; dsimp only
  have h1 : (k.onDev fun d => count d (prefixDie key) 0x2440 1).MemOk := onDev_memOk h _
  generalize (k.onDev fun d => count d (prefixDie key) 0x2440 1) = k1 at h1
  have h2 : (if scan = true then copyLookup k1 (prefixDie key) key got
      else arrayLookup k1 (prefixDie key) key got (k.dev.mat.entries.length + 1)).2.MemOk :=
    ite_snd_memOk (copyLookup_memOk h1 _ _ _) (arrayLookup_memOk _ _ _ _ h1)
  generalize (if scan = true then copyLookup k1 (prefixDie key) key got
      else arrayLookup k1 (prefixDie key) key got (k.dev.mat.entries.length + 1)) = p at h2 ⊢
  exact ite_snd_memOk h (ite_snd_memOk h2 (overflowLookup_memOk h2 _ _ _))

theorem headerAsk_memOk {k : Chip} (h : k.MemOk) (ring index page : Nat) : (headerAsk k ring index page).MemOk :=
  when_memOk h fun _ hk => onDev_memOk hk _

theorem lookupRun_memOk (ring index : Nat) (c : Cmd) (count : Nat) (scan : Option Nat) (got : Option (Nat × Option Bytes))
    (f n hits : Nat) (out : Bytes) {k : Chip} (h : k.MemOk) : (lookupRun ring index c count scan got f n hits out k).MemOk := by
  induction f generalizing got n hits out k with
  | zero => exact h
  | succ f ih =>
    unfold lookupRun
    split
    · exact onDev_memOk h _
    · dsimp only
      split
      · split
        · split
          · exact ih _ _ _ _ h
          · exact headerAsk_memOk (onDev_memOk (prefixAnswer_memOk h _ _ _) _) _ _ _
        · exact ih _ _ _ _ (prefixAnswer_memOk h _ _ _)
      · exact onDev_memOk h _

theorem lookupResume_memOk {k : Chip} (h : k.MemOk) (ring index page : Nat) (header : Option Bytes) :
    (lookupResume k ring index page header).MemOk := by
  unfold lookupResume; split
  · exact lookupRun_memOk _ _ _ _ _ _ _ _ _ _ (onDev_memOk h _)
  · exact h

theorem lookupsReady_memOk {k : Chip} (h : k.MemOk) (die : Nat) : (lookupsReady k die).MemOk := by
  unfold lookupsReady
  refine foldl_memOk (fun k l hk => ?_) _ (onDev_memOk h _)
  split
  · exact hk
  · exact lookupRun_memOk _ _ _ _ _ _ _ _ _ _ hk

theorem scanServe_memOk (die : Nat) {k : Chip} (h : k.MemOk) (l : Lookup) : (scanServe die k l).MemOk := by
  unfold scanServe; split
  · exact h
  · exact lookupRun_memOk _ _ _ _ _ _ _ _ _ _ h

theorem clearArea_memOk {k : Chip} (h : k.MemOk) (slice : Nat) : (clearArea k slice).MemOk := zeroNow_memOk h _ _

theorem uioLost_memOk {k : Chip} (h : k.MemOk) (r : UioRead) : (uioLost k r).MemOk := by
  unfold uioLost; dsimp only
  have hk : (k.onDev fun d => uioOver d r).MemOk := onDev_memOk h _
  generalize (k.onDev fun d => uioOver d r) = k at hk
  repeat' split
  all_goals first
    | with_reducible exact hk
    | with_reducible exact mk_memOk hk _
    | with_reducible exact lookupResume_memOk hk _ _ _ _
    | with_reducible exact appendDone_memOk hk _ _ _ _ _ _

theorem tier2Lost_memOk {k : Chip} (h : k.MemOk) : (tier2Lost k).MemOk := by
  unfold tier2Lost; dsimp only
  refine onDev_memOk (foldl_memOk (fun _ _ hk => uioLost_memOk hk _) _ ?_) _
  split
  · exact h
  · exact onDev_memOk h _

theorem tier2Back_memOk {k : Chip} (h : k.MemOk) : (tier2Back k).MemOk := by
  unfold tier2Back; dsimp only
  refine mk_memOk ?_ _
  split
  · exact h
  · exact onDev_memOk h _

theorem withPath_memOk {k : Chip} (h : k.MemOk) (f : Dev → Dev) : (withPath k f).MemOk := by
  unfold withPath; dsimp only
  split
  · exact tier2Lost_memOk (onDev_memOk h _)
  · split
    · exact tier2Back_memOk (onDev_memOk h _)
    · exact onDev_memOk h _

theorem hostDownOp_memOk {k : Chip} (h : k.MemOk) : (hostDownOp k).MemOk := by
  unfold hostDownOp
  exact withPath_memOk (releaseWrites_memOk (onDev_memOk h _)) _

theorem dieLostOp_memOk {k : Chip} (h : k.MemOk) (die : Nat) : (dieLostOp k die).MemOk := by
  have h1 : (if die < 16 then yarrowLost k die
      else if 16 ≤ die ∧ die ≤ 23 then k.onDev fun d => campionLost d die
      else if 24 ≤ die ∧ die ≤ 27 then vetchLost k
      else if die = Config.clover then hostDownOp k
      else k).MemOk := by
    split
    · exact yarrowLost_memOk h die
    · split
      · exact onDev_memOk h _
      · split
        · exact vetchLost_memOk h
        · split
          · exact hostDownOp_memOk h
          · exact h
  unfold dieLostOp; dsimp only
  generalize (if die < 16 then yarrowLost k die
      else if 16 ≤ die ∧ die ≤ 23 then k.onDev fun d => campionLost d die
      else if 24 ≤ die ∧ die ≤ 27 then vetchLost k
      else if die = Config.clover then hostDownOp k
      else k) = k1 at h1
  split
  · exact mk_memOk (onDev_memOk h1 _) _
  · exact onDev_memOk h1 _

theorem storeImage_memOk {k k' : Chip} (h : k.MemOk) {frame : Nat} {img : Bytes} (hs : storeImage k frame img = some k') :
    k'.MemOk := by
  unfold storeImage at hs; split at hs
  · injection hs with hs; subst hs; exact nodeWrite_memOk h _ _
  · cases hs

theorem moveStart_memOk {k : Chip} (h : k.MemOk) (m : Move) : (moveStart k m).MemOk := by
  unfold moveStart; dsimp only
  generalize blockEnd k.dev 1 (keyObject m.key) (keyTenant m.key) = d
  repeat' split
  all_goals first
    | exact h
    | exact mk_memOk h _
    | exact onDev_memOk (storeImage_memOk (mk_memOk h _) ‹_›) _

theorem uioFail_memOk {k : Chip} (h : k.MemOk) (r : UioRead) : (uioFail k r).MemOk := by
  unfold uioFail; dsimp only
  have hk : (k.onDev fun d => uioOver d r).MemOk := onDev_memOk h _
  generalize (k.onDev fun d => uioOver d r) = k at hk
  repeat' split
  all_goals first
    | with_reducible exact hk
    | with_reducible exact mk_memOk hk _
    | with_reducible exact lookupResume_memOk (mk_memOk hk _) _ _ _ _
    | with_reducible exact appendDone_memOk (onDev_memOk hk _) _ _ _ _ _ _

theorem landBytes_memOk {k k' : Chip} (h : k.MemOk) {frame : Nat} {img : Bytes} (hs : landBytes k frame img = some k') :
    k'.MemOk := storeImage_memOk (onDev_memOk h _) hs

theorem uioGood_memOk {k : Chip} (h : k.MemOk) (r : UioRead) (data : Bytes) : (uioGood k r data).MemOk := by
  unfold uioGood; dsimp only
  have hk : (k.onDev fun d => uioOver d r).MemOk := onDev_memOk h _
  generalize (k.onDev fun d => uioOver d r) = k at hk
  repeat' split
  all_goals first
    | with_reducible exact hk
    | with_reducible exact mk_memOk hk _
    | with_reducible exact lookupResume_memOk hk _ _ _ _
    | with_reducible exact appendGo_memOk hk _ _ _ _ _ _
    | exact onDev_memOk (landBytes_memOk hk ‹_›) _

theorem forkCopyEnd_memOk {k : Chip} (h : k.MemOk) (f : Fork) (key : Nat) : (forkCopyEnd k f key).MemOk := by
  unfold forkCopyEnd; dsimp only
  repeat' split
  all_goals first
    | with_reducible exact onDev_memOk h _
    | with_reducible exact onDev_memOk (writeAll_memOk (onDev_memOk h _) _) _

theorem installGrowing_memOk {k : Chip} (h : k.MemOk) (key : Nat) (g : Geom) (img : Bytes) : (installGrowing k key g img).MemOk := by
  unfold installGrowing; dsimp only
  repeat' split
  all_goals first
    | exact onDev_memOk h _
    | exact mk_memOk h _
    | exact onDev_memOk (storeImage_memOk (mk_memOk h _) ‹_›) _

theorem installSealed_memOk {k : Chip} (h : k.MemOk) (key : Nat) (img : Bytes) : (installSealed k key img).MemOk := by
  unfold installSealed; dsimp only
  repeat' split
  all_goals first
    | exact onDev_memOk h _
    | exact mk_memOk h _
    | exact onDev_memOk (storeImage_memOk (mk_memOk h _) ‹_›) _

theorem recoveryImage_memOk {k : Chip} (h : k.MemOk) (key : Nat) (b : Bytes) (r : Recovery) : (recoveryImage k key b r).MemOk := by
  unfold recoveryImage; dsimp only
  repeat' split
  all_goals first
    | with_reducible exact onDev_memOk h _
    | with_reducible exact installGrowing_memOk h _ _ _
    | with_reducible exact installSealed_memOk (onDev_memOk h _) _ _

theorem shareImage_memOk {k : Chip} (h : k.MemOk) (key : Nat) (img : Bytes) : (shareImage k key img).MemOk := by
  unfold shareImage
  exact when_memOk h fun _ hk => onDev_memOk hk _

theorem shadowImage_memOk {k : Chip} (h : k.MemOk) (b : Bytes) : (shadowImage k b).MemOk := by
  unfold shadowImage; dsimp only
  repeat' split
  all_goals first
    | exact h
    | exact onDev_memOk h _
    | exact mk_memOk h _
    | exact shareImage_memOk h _ _
    | exact onDev_memOk (storeImage_memOk (mk_memOk h _) ‹_›) _

theorem scrubTier1_memOk {k : Chip} (h : k.MemOk) (f n tenant : Nat) : (scrubTier1 k f n tenant).MemOk := by
  unfold scrubTier1; dsimp only
  split
  · have h1 : (if f % 2 = 1 then zeroRange k (4096 * f) 4096 else k).MemOk := by
      split
      · exact zeroRange_memOk h _ _
      · exact h
    generalize (if f % 2 = 1 then zeroRange k (4096 * f) 4096 else k) = k1 at h1
    have h2 : (if (f + n) % 2 = 1 ∧ f ≤ 2 * ((f + n) / 2) then zeroRange k1 (4096 * (f + n - 1)) 4096 else k1).MemOk := by
      split
      · exact zeroRange_memOk h1 _ _
      · exact h1
    split
    · exact onDev_memOk h2 _
    · exact onDev_memOk h2 _
  · exact onDev_memOk (zeroRange_memOk h _ _) _

theorem rmaWriteOp_memOk {k : Chip} (h : k.MemOk) (m : Inb) : (rmaWriteOp k m).MemOk := by
  unfold rmaWriteOp; dsimp only
  repeat' split
  all_goals first
    | with_reducible exact onDev_memOk h _
    | with_reducible exact onDev_memOk (onDev_memOk h _) _
    | with_reducible exact mk_memOk (nodeWrite_memOk (onDev_memOk h _) _ _) _
    | with_reducible exact mk_memOk (onDev_memOk h _) _

theorem partOp_memOk {k : Chip} (h : k.MemOk) (m : Inb) : (partOp k m).MemOk := by
  unfold partOp; dsimp only
  have hk : (k.onDev fun d => acceptLate d m).MemOk := onDev_memOk h _
  generalize (k.onDev fun d => acceptLate d m) = k at hk
  repeat' split
  all_goals first
    | exact onDev_memOk hk _
    | exact mk_memOk hk _
    | exact mk_memOk (onDev_memOk (nodeWrite_memOk hk _ _) _) _

theorem onMsgMem_memOk {k : Chip} (h : k.MemOk) (id type : Nat) {f : Chip → Inb → Chip}
    (hf : ∀ k m, k.MemOk → (f k m).MemOk) : (onMsgMem k id type f).MemOk := by
  unfold onMsgMem; split
  · exact hf _ _ (onDev_memOk h _)
  · exact h

end Sys2Proof.Machine
end

