-- ==== Sys2Proof/Machine/HostIdentity.lean ====
section
/-! DEFINITION. What the node presents to its host apart from the setup registers: the features of Table 14-1, the
function's identity and spaces (Table 14-2), the CDAT read through DOE (R390) and the media status (R393). A read of these
changes no state, and the table of commands has no row for it: what it returns is a function of the block as it stands. -/

namespace Sys2Proof.Machine

/-- The CXL and PCIe features of Table 14-1. -/
inductive CxlFeature where
  | flit256 | latencyOptimizedFlit | flit68 | type2 | multiLogicalDevice | cxlIo | cxlCache | cxlMemHdmDb | hdmH | hdmD
  | uioRequester | uioCompleter | ide | teeSecurity | poison | viral | globalPersistentFlush | dynamicCapacity | portBasedRouting
  | cxlReset | functionLevelReset | doe | deviceMailbox | ats | pri | pasid | srIov | aspm | aer | laneMargining | nativeHotPlug
deriving DecidableEq, Repr

/-- A feature the node supports; it never enables or advertises another one (R387). -/
def CxlFeature.supported (f : CxlFeature) : Bool :=
  match f with
  | .flit256 => true | .latencyOptimizedFlit => false | .flit68 => false | .type2 => true | .multiLogicalDevice => false
  | .cxlIo => true | .cxlCache => true | .cxlMemHdmDb => true | .hdmH => false | .hdmD => false | .uioRequester => true
  | .uioCompleter => false | .ide => false | .teeSecurity => false | .poison => false | .viral => false
  | .globalPersistentFlush => false | .dynamicCapacity => false | .portBasedRouting => false | .cxlReset => false
  | .functionLevelReset => false | .doe => true | .deviceMailbox => true | .ats => false | .pri => false | .pasid => false
  | .srIov => false | .aspm => false | .aer => true | .laneMargining => true | .nativeHotPlug => true

/-- A feature is offered now: nothing without a link; the CXL protocols only at full service (R388). -/
def offered (d : Dev) (f : CxlFeature) : Bool :=
  match f with
  | .cxlCache => d.cxlUp
  | .cxlMemHdmDb => d.cxlUp
  | .uioRequester => d.cxlUp
  | _ => d.hostUp && f.supported

/-- The function's identity (Table 14-2). -/
structure Identity where
  vendor : Nat
  device : Nat
  revision : Nat
  classCode : Nat
  /-- BAR0: 64-bit, non-prefetchable -/
  bar0Bytes : Nat
  /-- the HDM range that the CXL device DVSEC reports -/
  hdmBytes : Nat
deriving DecidableEq, Repr

/-- What a read of configuration space tells of function 0; configuration space is live while the host link is up (R389). -/
def configRead (d : Dev) : Option Identity :=
  if d.bar then
    some { vendor := 0x1F8A, device := 0x3072, revision := Config.steppingCode, classCode := 0x120000, bar0Bytes := 2 ^ 20,
           hdmBytes := tier1Bytes }
  else none

/-- The spaces of BAR0 (Table 14-2). -/
inductive Bar0Space where
  | setup | msixTable | msixPending | component | device | none
deriving DecidableEq, Repr

/-- The space that an offset of BAR0 lies in. -/
def bar0Space (offset : Nat) : Bar0Space :=
  if offset < 0x80000 then .setup
  else if offset < 0x81000 then .msixTable
  else if offset < 0x81020 then .msixPending
  else if 0xC0000 ≤ offset ∧ offset < 0xD0000 then .component
  else if 0xD0000 ≤ offset ∧ offset < 0xE0000 then .device
  else .none

/-- The CDAT (R390): one memory range, latencies in ns and bandwidths in MB/s. -/
structure Cdat where
  rangeBytes : Nat
  readLatency : Nat
  writeLatency : Nat
  readBandwidth : Nat
  writeBandwidth : Nat
deriving DecidableEq, Repr

/-- What a DOE read of the CDAT returns (R390). -/
def doeCdat (d : Dev) : Option Cdat :=
  if d.bar then
    some { rangeBytes := tier1Bytes, readLatency := 400, writeLatency := 400, readBandwidth := 52000, writeBandwidth := 52000 }
  else none

/-- Media Status of the memory device status register (R393). -/
inductive MediaStatus where
  | disabled | notReady | ready
deriving DecidableEq, Repr

/-- Disabled while no bit of MEM_ENABLE is set; Ready once every die whose bit is set has finished memory enable. -/
def mediaStatus (d : Dev) : MediaStatus :=
  let dies := (List.range 16).filter fun n => bitOf d.regs.memEnable n
  if dies.isEmpty then .disabled else if dies.all fun n => tget false d.lp.done n then .ready else .notReady

end Sys2Proof.Machine
end

