-- ==== Sys2Proof/Machine/SelfTimed.lean ====
section
/-! DEFINITION. The handshake rate of the self-timed cores and what scales with it, the planning model of the draw, and what
crosses between a core and a clocked domain (spec 17, R456; spec 18, R469 to R480). How long work takes is no part of the
block's state; these definitions say what the spec gives for it. -/

namespace Sys2Proof.Machine

/-! ### Handshake rate (R469 to R471) -/

/-- The junction temperatures of the columns of Table 18-1. -/
def rateTemps : List Int := [0, 25, 70, 95, 115]

/-- The rows of Table 18-1: core voltage in mV, and the minimum rates in units of 10 M handshakes per second. -/
def rateRows : List (Nat × List Nat) :=
  [(600, [102, 105, 110, 112, 113]), (650, [135, 137, 140, 141, 141]), (700, [170, 170, 170, 169, 168]),
   (750, [209, 206, 200, 196, 193]), (800, [244, 239, 230, 224, 220]), (850, [273, 267, 255, 248, 243])]

/-- The value at `x` on the line through two points. -/
def onLine (x0 x1 x y0 y1 : Rat) : Rat := y0 + (y1 - y0) * (x - x0) / (x1 - x0)

/-- The minimum rate of a column at a voltage that lies in the table: interpolated in voltage. -/
def rateAt (mv column : Nat) : Rat :=
  let i := min ((mv - 600) / 50) 4
  let lo := rateRows.getD i (0, [])
  let hi := rateRows.getD (i + 1) (0, [])
  onLine lo.1 hi.1 mv (lo.2.getD column 0) (hi.2.getD column 0) / 100

/-- The guaranteed minimum handshake rate in G/s (R469): interpolated in voltage, then in temperature; none is guaranteed
outside the operating range. -/
def minRate (mv : Nat) (celsius : Int) : Option Rat :=
  if 600 ≤ mv ∧ mv ≤ 850 ∧ 0 ≤ celsius ∧ celsius ≤ 115 then
    let j := min ((rateTemps.filter fun t => decide (t ≤ celsius)).length - 1) 3
    some (onLine (rateTemps.getD j 0) (rateTemps.getD (j + 1) 0) celsius (rateAt mv j) (rateAt mv (j + 1)))
  else none

/-- A core rate stated at the nominal point, at handshake rate `r` (R470). -/
def coreRate (nominal r : Rat) : Rat := nominal * r / 2

/-- A bound in ticks on core work, at handshake rate `r` (R470). -/
def coreBound (ticks r : Rat) : Rat := ticks * 2 / r

/-- A die's handshake rate in G/s, from the count that it reports (R471). -/
def handshakeRate (d : Dev) (die : Nat) : Rat := tget 0 d.power.handshakes die / 10000

/-! ### The planning model of the draw (R456) -/

/-- Full-load input power in watts, at core voltage `mv` and handshake rate `r`: cores, LPDDR6, fixed blocks, conversion. -/
def plannedInput (mv : Nat) (r : Rat) : Rat :=
  let core := 148 * ((mv : Rat) / 750) ^ 2 * (r / 2)
  let memory := 37 + 96 * min 1 (r / 2)
  (core + memory + 56) * 109 / 100

/-! ### Crossings (R474 to R480) -/

/-- The clocked domains (Table 18-2). -/
inductive ClockDomain where
  | lpddr6 | link | cxl | tick | i3c
deriving DecidableEq, Repr

/-- A domain's clock in kHz. -/
def ClockDomain.kHz (c : ClockDomain) : Nat :=
  match c with
  | .lpddr6 => 1800000 | .link => 1812500 | .cxl => 1000000 | .tick => 100000 | .i3c => 100000

/-- Stages of the synchroniser of single control signals that enter a domain from a core. -/
def ClockDomain.stages (c : ClockDomain) : Nat :=
  match c with
  | .lpddr6 => 3 | .link => 3 | .cxl => 2 | .tick => 2 | .i3c => 2

/-- The classes of crossings (Table 18-3). -/
inductive Crossing where
  | controlIn | controlOut | eventStream | multiBit | dataQueue
deriving DecidableEq, Repr

/-- An event counter's value as it crosses, in Gray code (R477). -/
def gray (n : Nat) : Nat := (n % 65536) ^^^ (n % 65536 / 2)

/-- Events that a receiver counts between two samples (R477). -/
def eventsBetween (previous new : Nat) : Nat := (new + 65536 - previous % 65536) % 65536

/-- A rebased receiver takes its next sample as its baseline and counts nothing for it (R480); otherwise it counts: the new
baseline and the events. -/
def sampleStream (rebased : Bool) (previous new : Nat) : Nat × Nat := (new, if rebased then 0 else eventsBetween previous new)

/-- The value that a receiver has accepted after its samples, oldest first (R478): two consecutive equal samples are
accepted, otherwise the value accepted before stays. -/
def acceptedValue {α : Type} [DecidableEq α] (was : α) : List α → α
  | a :: b :: l => acceptedValue (if a = b then a else was) (b :: l)
  | _ => was

/-- What one side of a crossing holds at its outputs while it is in reset (R479): control signals inactive, event counters
at 0, values at their reset value. A data queue with a side in reset is empty. -/
structure CrossingOutputs (α : Type) where
  control : Bool
  events : Nat
  value : α
  queue : List (List (BitVec 8))
deriving DecidableEq, Repr

def heldOutputs {α : Type} (resetValue : α) : CrossingOutputs α := { control := false, events := 0, value := resetValue, queue := [] }

end Sys2Proof.Machine
end

