-- ==== Sys2Proof/Tests/Slice0.lean ====
section
/-! SUPPORT. Tests of the model: a witness for the hypotheses of every statement (one theorem for each statement, one
conjunct for each clause that has hypotheses), the operand checks, and the worked examples of the spec. -/

namespace Sys2Proof.Machine

open Sys2Proof

set_option Elab.async false

/-- A running node: every die ready, the host link at full service, memory initialised, the associative match ready. -/
def dB : Dev :=
  { now := 100000000,
    dies := { st := (List.range 32).map fun n => (n, .ready), step := 6 },
    boot := { mode := .firmware },
    regs := { arrays := 0xFFFF, fabricId := 5, nodeId := 0x2E11 },
    hif := { link := .full, gts := 64, width := 8, cacheEn := true, memEn := true, committed := true, base := 2 ^ 42 },
    lp := { done := (List.range 16).map fun n => (n, true), readyCh := (List.range 16).map fun n => (n, 255) },
    mbr := { domain := 17 },
    mat := { ready := true, areas := [0, 4] } }

/-- A powered state with a device. -/
def wOn (d : Dev) : State := { dev := d }

/-- A descriptor of an opcode and tenant 7, with fields given by offset, size and value. -/
def dsc (op : Nat) (fs : List (Nat × Nat × Nat)) : Bytes :=
  fs.foldl (fun b f => setAt b f.1 (toLe f.2.1 f.2.2)) (toLe 1 op ++ zeros 7 ++ toLe 2 7 ++ zeros 54)

/-- A command stands in a ring. -/
def cmdIn (d : Dev) (c : Cmd) : Dev := d.onRing 0 fun r => { r with state := .enabled, base := 0x100004, cplBase := 0x200004, cmds := [c] }

/-- A command that is ready to act. -/
def cReady (op : Nat) (fs : List (Nat × Nat × Nat)) (buf : Bytes) : Cmd :=
  { index := 0, phase := .ready, desc := dsc op fs, buf := buf }

def wReadyOn (d : Dev) (op : Nat) (fs : List (Nat × Nat × Nat)) (buf : Bytes) : State := wOn (cmdIn d (cReady op fs buf))
def wReady (op : Nat) (fs : List (Nat × Nat × Nat)) (buf : Bytes) : State := wReadyOn dB op fs buf

/-- A command whose descriptor has arrived. -/
def wCmd (op : Nat) (fs : List (Nat × Nat × Nat)) (buf : Bytes) : State :=
  wOn (cmdIn dB { index := 0, phase := .waiting, desc := dsc op fs, buf := buf })

def wDone : State := wOn (cmdIn dB { index := 0, phase := .done, desc := dsc 0x26 [] })

/-- A composition bound to slice 0 for tenant 7. -/
def dComp : Dev := { dB with mbr := { dB.mbr with compositions := [(2, { id := 9, tenant := 7, slices := [0] })] } }

def bindFields : List (Nat × Nat × Nat) := [(0x10, 1, 2), (0x14, 4, 9), (0x18, 1, 1)]

def wRestart : State :=
  wReadyOn ({ dB with mbr := { dB.mbr with compositions :=
    [(2, { id := 9, tenant := 7, slices := [0], restarting := some ([0], dsc 0x03 bindFields, 0, 0) })] } }) 0x03 bindFields []

/-- Three witnesses of domain 17 in domains of their own. -/
def fdFields : List (Nat × Nat × Nat) :=
  [(0x11, 1, 3), (0x12, 2, 17), (0x14, 2, 17), (0x16, 2, 300), (0x18, 1, 2), (0x1C, 4, 0x111), (0x20, 4, 0x112), (0x24, 4, 0x113),
   (0x30, 2, 21), (0x32, 2, 22), (0x34, 2, 23)]

def fdSetFields : List (Nat × Nat × Nat) :=
  [(0x10, 1, 1), (0x11, 1, 3), (0x12, 2, 17), (0x1C, 4, 0x111), (0x20, 4, 0x112), (0x24, 4, 0x114), (0x30, 2, 21), (0x32, 2, 22),
   (0x34, 2, 24)]

/-- A node that is a LIVE witness of domain 17. -/
def dWit : Dev :=
  { dB with mbr := { dB.mbr with
    domain := 21
    view := [(0x111, { live := true, domain := 22 }), (0x333, { live := true, domain := 17 }), (0x2E11, { live := true, domain := 21 })]
    domains := [(17, { witnesses := [(0x2E11, 21), (0x111, 22), (0x113, 23)] })] } }

def wWitness (op : Nat) (fs : List (Nat × Nat × Nat)) : State := wReadyOn dWit op fs []

def wEnter : State :=
  wReadyOn ({ dB with now := 1000000000, mbr := { dB.mbr with entering := [(0, 0, 0)], joining := true } }) 0x06 [] []

def wSnap : State := wOn { dB with cnt := { snap := some { ring := 0, index := 0, mode := 0, target := 0, mask := 0xFFFFFFFF } } }

def scanFields : List (Nat × Nat × Nat) := [(0x10, 2, 1), (0x20, 4, 16), (0x30, 4, 16)]

def wScan : State :=
  wReadyOn ({ dB with dies := { dB.dies with st := tput .inReset dB.dies.st 28 .lost }, mat := { dB.mat with lookups :=
    [{ ring := 0, index := 0, next := 0, hits := 0, out := [], scanning := true }] } }) 0x0C scanFields (zeros 16)

/-- The prefix partition's first run has no hole. -/
def wHole : State :=
  wOn { dB with mat := { dB.mat with
    repairs := [(1, [(partRange dB 1).1])]
    entries := (List.range 16).map fun i => (matIndex 28 ((partRange dB 1).1 + i), { value := i, care := 0, action := 0, prio := i }) } }

/-- A node that holds one open shard of object 5 of tenant 7, whose home it is; composition 9 serves the tenant on slice 0. -/
def oB : Obj :=
  { format := 0, tCode := 0, hkv := 2, dCode := 0, layers := 2, composition := 9, home := 0x2E11
    shards := [(0, { isOpen := true, primary := some 0x2E11, tail := some 0x2E11, state := 1 })] }

def hB : HomeRec :=
  { tenant := 7, object := 5, format := 0, tCode := 0, hkv := 2, dCode := 0, layers := 2, composition := 9, home := 0x2E11, mirror := none,
    epoch := 3, isHome := true, shards := [{ isOpen := true, primary := some 0x2E11, tail := some 0x2E11, state := 1, epoch := 1 }] }

def dObj : Dev :=
  { dComp with
    obj := { objs := [(mkObj 7 5, oB)] }
    mbr := { dComp.mbr with
      homes := [(mkObj 7 5, hB)]
      view := [(0x111, { live := true, domain := 22 }), (0x2E11, { live := true, domain := 17 })] } }

def cObjReady (op : Nat) (fs : List (Nat × Nat × Nat)) (buf : Bytes) : State := wReadyOn dObj op fs buf

/-- The record of a new object 6 of tenant 7. -/
def newRecord : Bytes :=
  recordBytes { hB with object := 6, epoch := 0, shards := [{ isOpen := true, primary := some 0x2E11 }] }

def dLoad : Dev :=
  { dObj with obj := { dObj.obj with loads := [(0, 40, false, 0)], runs := [(runKey 1 40, { count := 2, tenant := 7, use := .load 0 })] } }

def dRma : Dev :=
  { dObj with rma := { domains := [(3, { tenant := 7, key := 0x55 })]
                       regs := [(9, { domain := 3, base := 0x10000, length := 0x10000, read := true, write := true, tier1 := false, target := 0x700000 })] } }

/-- A job of one FILL of one row. -/
def fillJob : Bytes := toLe 2 1 ++ toLe 2 7 ++ zeros 12 ++ [2, 0] ++ toLe 2 1 ++ toLe 4 131072 ++ zeros 8

/-- A node with link 0 in a state of its own. -/
def dLink (l : Link) : Dev := { dB with fab := { links := [(0, l)] }, now := 20000000 }

/-- A message of the fabric. -/
def fMsg (r : MsgRoute) : FMsg :=
  { id := 4, inLink := some 0, vc := 2, chunks := [buildMsg dB 0x2E11 2 3 7 { ttype := 0 } (zeros 8)], eom := true, route := r, service := 3, subscriber := 1,
    stamp := 0, wait := 100 }

def dFab (r : MsgRoute) : Dev := { dLink { state := .active } with fab := { links := [(0, { state := .active })], msgs := [fMsg r] } }

/-- An open connection 3 of tenant 7 to node 0x111. -/
def cOpen : Conn := { state := .open_, tenant := 7, peer := 0x111, peerConn := 9, peerGen := 4 }

def dConn (c : Conn) : Dev :=
  { dObj with now := 200000000, tr := { conns := [(3, c)], cache := [(19, [3])] } }

/-- A message of the inbox with a transport type and a body, on connection 3. -/
def inb (ttype : Nat) (body : Bytes) : Inb :=
  { id := 6, bytes := buildMsg dB 0x2E11 2 3 7 { ttype := ttype, dstConn := 3 } body, vc := 2, conn := 3, action := 0, inLink := 0, at_ := 0 }

def dInb (c : Conn) (m : Inb) : Dev := { dConn c with tr := { (dConn c).tr with inbox := [m] } }

/-- An attention request of object 5 of tenant 7 over pages 0 and 1 on slot 0. -/
def reqBody : Bytes :=
  setAt (setAt (setAt (setAt (setAt (setAt (zeros 96) 0 [0x23]) 2 (toLe 2 7)) 4 (toLe 4 5)) 0xA [1, 1, 1]) 0x18 (toLe 4 1)) 0x28 [0, 0, 128, 63]

def ctxB : Ctx := { die := 0, head := 0, todo := [] }

def reqB : Request :=
  { serial := 0, body := reqBody, back := { conn := 3 }, arrived := 0, deadline := 1000, epoch := 0, composition := 2, ctxs := [ctxB]
    parts := [{ die := 0, head := 0, level := 0, index := 0 }] }

def slotB : Slot := { reserved := true, tenant := 7, object := 5, lease := 1000, requester := 0x111, holds := [{ die := 0, slice := 0, blocks := 1, credits := 1 }] }

def dSlot (x : Slot) (r : Option Request) : Dev :=
  { dConn cOpen with attn := { slots := [(0, x)], requests := match r with | some r => [(0, r)] | none => [] } }

def stagedB : Staged := { id := 2, die := 0, slice := 0, key := mkKey 7 5 0 0, valid := 16, growing := false, run := runKey 1 100 }

def dStaged (c : Staged) : Dev := { dSlot slotB none with attn := { staged := [c] } }

def appendBody (mirror : Nat) : Bytes :=
  setAt (setAt (setAt (zeros 64) 0 [0x28, BitVec.ofNat 8 mirror]) 2 (toLe 2 7)) 4 (toLe 4 5)

def heldB : HeldAppend :=
  { id := 1, bytes := (inb 0 (appendBody 0)).bytes, conn := 3, action := 0, arrived := 0, key := mkKey 7 5 0 0, die := 0, why := 0, mirror := false }

/-- A firmware node that is LIVE in domain 21 and a witness of domain 17, with one membership message. -/
def dMbr (body : Bytes) : Dev :=
  { dWit with now := 200000000, tr := { conns := [(3, cOpen)], cache := [(19, [3])], inbox := [{ inb 0 body with vc := 0 }] } }

def chg (n : Nat) : Change := { change := n, subject := 0x333, epoch := 1 }

/-- A home node with one record message on connection 3. -/
def dRec (body : Bytes) : Dev := dInb cOpen (inb 0 body)

def shadowW (c : Compared) : Shadowing := { shadow := 0x111, sample := 16, matchesWanted := 10, compared := [c] }

def dShadow (c : Compared) : Dev :=
  { dConn cOpen with mbr := { dObj.mbr with shadowings := [(mkObj 7 5 * 256, shadowW c)] } }

def moveB : Move := { id := 3, key := mkKey 7 5 0 0, priority := 1 }

def dMove (m : Move) : Dev :=
  { dConn cOpen with obj := { dObj.obj with pages := [(mkKey 7 5 0 0, { frame := 100, count := 2, tier := 1, state := .sealed, refs := 1 })], moves := [m] } }

def dRecov (r : Recovery) (st : PageState) : Dev :=
  { dConn cOpen with obj := { dObj.obj with
      pages := [(mkKey 7 5 0 0, { frame := 100, count := 2, tier := 1, state := st, refs := 1 })], recoveries := [(mkKey 7 5 0 0, r)] } }

def dRun (r : Run) : Dev := { dConn cOpen with obj := { dObj.obj with runs := [(runKey 1 100, r)] } }

/-- An object whose policy keeps it in tier 2, with a page of tier 1 to move there. -/
def dTier : Dev :=
  { dMove moveB with obj := { (dMove moveB).obj with
      objs := [(mkObj 7 5, { oB with policy := 3, groups := [(0, 0)] })], pathUp := true, extents := [(0, 40960000)] } }

/-- A sealed page of tier 2 with a queued prefetch and a prefetch area on its slice. -/
def dPrefetch : Dev :=
  { dTier with obj := { dTier.obj with
      pages := [(mkKey 7 5 0 0, { frame := 100, count := 2, tier := 2, state := .sealed, refs := 1 })], moves := []
      prefetchArea := [(0, [2])]
      prefetch := [(0, [{ tenantObject := mkObj 7 5, key := mkKey 7 5 0 0, stage := false, near := 1 }])] } }

/-- Both copies of the first match entry are uncorrectable. -/
def dBadCopies : Dev :=
  { dB with lp := { dB.lp with errors :=
      [(copyAddr dB 0 (matIndex 28 0) / 32, List.replicate 36 255), (copyAddr dB 1 (matIndex 28 0) / 32, List.replicate 36 255)] } }

/-- Generations that bring the free reset value of connection and slot generations (notes/assumptions/3.md) to 0. -/
def connFill : Nat := 2 ^ 32 - (Config.connGeneration 0).toNat % 2 ^ 32
def slotFill : Nat := 65536 - (Config.slotGeneration 0).toNat % 65536

def dReply : Dev := dInb { state := .connecting, peer := 0x2E11, gens := connFill } (inb 1 ([0x11, 0, 7] ++ zeros 13))

theorem dReply_gen : connGen dReply 3 = 0 := by
  show ((Config.connGeneration 0).toNat + connFill) % 4294967296 = 0
  unfold connFill
  omega

/-- A request of slot 0 whose SCORE_SCALE has the given bytes. -/
def scaleBody (x : Bytes) : Bytes := setAt reqBody 0x28 x ++ zeros 128

def dScale (m : Inb) : Dev := { dInb cOpen m with attn := { slots := [(0, { slotB with gens := slotFill, composition := 2 })] } }

theorem slotFill_handle {d : Dev} {k : Nat} (hk : k = 0) (hb : d.bootDraw = 0) (hg : (d.slot 0).gens = slotFill) : k = slotHandle d k := by
  subst hk
  simp only [slotHandle, slotGen, hg, hb]
  unfold slotFill
  omega

def scaleMsg (x : Bytes) : Inb := { inb 0 (scaleBody x) with action := 2 ^ 33 + 2 * 2 ^ 27 }

/-- A command with a local request whose SCORE_SCALE is infinite. -/
def scaleCmd : Cmd := cReady 0x1D [(0x10, 1, 1)] (scaleBody [0, 0, 128, 127])

/-- A record of a new object with pages of 2 MiB. -/
def bigRecord : Bytes :=
  recordBytes { hB with object := 6, epoch := 0, tCode := 3, hkv := 16, dCode := 5, shards := [{ isOpen := true, primary := some 0x2E11 }] }

/-- The checks of a request before Table 04-5's second part, from their parts. -/
theorem and_seven {a b c d e f g : Bool} (ha : a = true) (hb : b = true) (hc : c = true) (hd : d = true) (he : e = true)
    (hf : f = true) (hg : g = true) : (a && b && c && d && e && f && g) = true := by
  subst ha hb hc hd he hf hg; rfl

theorem firstFail_five {a b c e f : Bool} {x1 x2 x3 x4 x5 : Nat} (ha : a = true) (hb : b = true) (hc : c = true)
    (he : e = true) (hf : f = true) : firstFail [(a, x1), (b, x2), (c, x3), (e, x4), (f, x5)] = none := by
  subst ha hb hc he hf; rfl

theorem scale_checked {d : Dev} {b : Bytes} {w : Sender}
    (h1 : (aqTenant b == w.tenant) = true)
    (h2 : (w.clean && decide (fld b 1 1 < 8) && allZero (cut b 0xD 3) && decide (aqFirst b < 2 ^ 18) && decide (aqLast b < 2 ^ 18) &&
      decide (fld b 0x20 4 < 2 ^ 24) && decide (aqWindow b < 2 ^ 24) && bitsOf (fld b 0x40 4) 16 15 == 0 &&
      allZero (cut b 0x54 12) && aqTenant b != 0 && aqObject b != 0) = true)
    (h3 : (d.objAt (mkObj (aqTenant b) (aqObject b))).isSome = true)
    (h4 : (b.length == 96 + aqKvCount b * aqTokens b * aqGroup b *
        (match d.objAt (mkObj (aqTenant b) (aqObject b)) with | some o => o.geom.D | none => 0) * 2 &&
      decide (aqKvCount b * aqTokens b * aqGroup b *
        (match d.objAt (mkObj (aqTenant b) (aqObject b)) with | some o => o.geom.D | none => 0) * 2 ≤ 262144) &&
      aqKvCount b != 255 && aqTokens b != 255 && aqGroup b != 255) = true)
    (h5 : (decide (aqSlot b % 65536 < 6144) && (d.slot (aqSlot b % 65536)).reserved) = true)
    (h6 : aqSlot b = slotHandle d (aqSlot b % 65536))
    (h7 : ((d.slot (aqSlot b % 65536)).tenant == aqTenant b && (d.slot (aqSlot b % 65536)).object == aqObject b) = true)
    (h8 : ((match w.action with
        | none => true
        | some a => actionAdmit a && actionComposition a == (d.slot (aqSlot b % 65536)).composition) &&
      (w.action.isSome || fld b 0x40 4 == 0)) = true) :
    firstFail (requestChecks1 d b w) = none := by
  rw [Bool.and_eq_true] at h5 h7 h8
  have h6' : (aqSlot b == slotHandle d (aqSlot b % 65536)) = true := by simp [← h6]
  exact firstFail_five h1 h2 h3 h4 (and_seven h5.1 h5.2 h6' h7.1 h7.2 h8.1 h8.2)

/-- A row operation of a job of the host runs on bank 0 of slice 0. -/
def dRowRuns : Dev :=
  { dB with row := { jobs := [{ id := 4, use := .command 0 0, tenant := 7, entries := [] }], running := [(0, (4, { n := 0, op := 5, dst := 131072, a := 131072, b := 131088, pattern := 0 }))] } }

theorem test_w_PowerCommands :
    (∃ (s : State) (cv : Nat), s.dev.power.state = .off ∧ s.dev.power.latched = false ∧ s.dev.power.overvolt = false ∧
    2900 < cv ∧ cv ≤ 4200) ∧
    (∃ (_s : State) (cv gap : Nat), (cv < 2800 ∨ 4200 < cv ∨ 50 < gap)) ∧
    (∃ (s : State) (cv : Nat), s.dev.power.state = .off ∧ s.dev.power.overvolt = true ∧ s.dev.power.latched = false ∧
    2800 ≤ cv ∧ cv < 4100) ∧
    (∃ (s : State) (held deciamps : Nat), s.dev.on = true ∧ (5000 ≤ held ∨ 200 < deciamps)) ∧
    (∃ (s : State), s.dev.power.state = .softStart) :=
  ⟨⟨({ dev := { power := { state := .off } } } : State), 3600, by decide +kernel⟩,
    ⟨State.reset, 2000, 0, by decide +kernel⟩,
    ⟨({ dev := { power := { state := .off, overvolt := true } } } : State), 4000, by decide +kernel⟩,
    ⟨State.reset, 5000, 0, by decide +kernel⟩,
    ⟨({ dev := { power := { state := .softStart } } } : State), by decide +kernel⟩⟩

theorem test_w_BootCommands :
    (∃ (s : State), s.dev.on = true ∧ s.dev.boot.mode = .rom) ∧
    (∃ (s : State) (_image : Bytes), s.dev.on = true ∧ s.dev.boot.mode = .recovery) ∧
    (∃ (s : State), s.dev.on = true ∧ s.dev.firmware = true ∧ s.dev.dies.step < 6 ∧ groupDone s.dev s.dev.dies.step =
    true) ∧
    (∃ (s : State) (die : Nat), s.dev.on = true ∧ s.dev.firmware = true ∧ die < 31 ∧ tget .inReset s.dev.dies.st die =
    .released ∧ (dieGroup s.dev.dies.step).contains die = true ∧ s.dev.due s.dev.dies.stepAt (groupBound
    s.dev.dies.step) = true) ∧
    (∃ (s : State), s.dev.on = true ∧ s.dev.firmware = true ∧ s.dev.dies.step = 6 ∧ groupDone s.dev 6 = true ∧
    s.dev.boot.confirmed = false) ∧
    (∃ (s : State), s.dev.on = true ∧ s.dev.boot.watchdog = true) ∧
    (∃ (s : State) (die : Nat), s.dev.on = true ∧ tget .inReset s.dev.dies.st die = .released) :=
  ⟨⟨State.reset, by decide +kernel⟩,
    ⟨({ dev := { boot := { mode := .recovery } } } : State), [], by decide +kernel⟩,
    ⟨wOn ({ dB with dies := { dB.dies with step := 2 } }), by decide +kernel⟩,
    ⟨wOn ({ dB with now := 300000, dies := { dB.dies with step := 3, st := tput .inReset dB.dies.st 30 .released } }),
      30, by decide +kernel⟩,
    ⟨wOn dB, by decide +kernel⟩,
    ⟨wOn ({ dB with boot := { dB.boot with watchdog := true } }), by decide +kernel⟩,
    ⟨wOn ({ dB with dies := { dB.dies with st := tput .inReset dB.dies.st 4 .released } }), 4, by decide +kernel⟩⟩

theorem test_w_DieCommands :
    (∃ (s : State) (die : Nat), s.dev.on = true ∧ s.dev.firmware = true ∧ dieRuns s.dev die = true) ∧
    (∃ (s : State) (die : Nat), s.dev.on = true ∧ s.dev.firmware = true ∧ dieRuns s.dev die = true ∧ die ≠ 30) ∧
    (∃ (s : State) (die : Nat), s.dev.on = true ∧ s.dev.firmware = true ∧ s.dev.lost die = true ∧ tget 0
    s.dev.lp.entering die ≠ 0 ∧ s.dev.due (tget 0 s.dev.lp.entering die - 1) 1000 = true) ∧
    (∃ (s : State) (die : Nat), s.dev.on = true ∧ s.dev.firmware = true ∧ s.dev.lost die = true ∧ tget false
    s.dev.dies.held die = false ∧ tget false s.dev.power.tripped die = false ∧ 24 ≤ die ∧ die < 28) ∧
    (∃ (s : State) (die : Nat), s.dev.on = true ∧ die = 31) ∧
    (∃ (s : State) (die : Nat), s.dev.on = true ∧ die < 31 ∧ s.dev.firmware = true ∧ dieRuns s.dev die = true) ∧
    (∃ (s : State) (die _failed : Nat), s.dev.on = true ∧ tget false s.dev.lp.done die = true ∧ tget 0
    s.dev.lp.readyCh die = 0 ∧ s.dev.ready die = true) ∧
    (∃ (s : State) (die : Nat), s.dev.on = true ∧ s.dev.ready die = true ∧ 16 ≤ die ∧ die ≤ 23) ∧
    (∃ (s : State) (die _count : Nat), s.dev.on = true ∧ s.dev.ready die = true ∧ s.dev.due (tget 0
    s.dev.power.handshakesAt die) 1000 = true) :=
  ⟨⟨wOn dB, 3, by decide +kernel⟩,
    ⟨wOn dB, 5, by decide +kernel⟩,
    ⟨wOn ({ dB with now := 5000, lp := { dB.lp with entering := [(2, 11)] }, dies := { dB.dies with st := tput .inReset dB.dies.st 2 .lost } }),
      2, by decide +kernel⟩,
    ⟨wOn ({ dB with dies := { dB.dies with st := tput .inReset dB.dies.st 25 .lost } }), 25, by decide +kernel⟩,
    ⟨State.reset, 31, by decide +kernel⟩,
    ⟨wOn dB, 26, by decide +kernel⟩,
    ⟨wOn ({ dB with lp := { dB.lp with readyCh := [] } }), 1, 4, by decide +kernel⟩,
    ⟨wOn dB, 17, by decide +kernel⟩,
    ⟨wOn { dB with now := 1000 }, 9, 12, by decide +kernel⟩⟩

theorem test_w_PowerControl :
    (∃ (s : State) (_temps : List Int), s.dev.on = true ∧ s.dev.firmware = true ∧ s.dev.due s.dev.power.sensorAt 1000
    = true) ∧
    (∃ (s : State) (_watts : Nat), s.dev.on = true ∧ s.dev.firmware = true ∧ s.dev.due s.dev.power.periodAt 10000 =
    true) ∧
    (∃ (s : State), s.dev.on = true ∧ s.dev.firmware = true ∧ s.dev.due s.dev.mbr.scoreAt 100000000 = true) ∧
    (∃ (s : State), s.dev.on = true ∧ s.dev.firmware = true ∧ s.dev.due s.dev.mbr.scoreAt 100000000 = true) ∧
    (∃ (s : State) (_value : BitVec 64), s.dev.on = true ∧ s.dev.bar = true ∧ regServed s.dev 0x8000 = true) ∧
    (∃ (s : State) (_value : BitVec 64), s.dev.on = true ∧ s.dev.bar = true ∧ regServed s.dev 0x8008 = true) :=
  ⟨⟨wOn { dB with now := 1000 }, [40, 41], by decide +kernel⟩,
    ⟨wOn { dB with now := 10000 }, 350, by decide +kernel⟩,
    ⟨wOn { dB with now := 100000000 }, by decide +kernel⟩,
    ⟨wOn { dB with now := 100000000 }, by decide +kernel⟩,
    ⟨wOn dB, 200#64, by decide +kernel⟩,
    ⟨wOn dB, 700#64, by decide +kernel⟩⟩

theorem test_w_SetupRegisters :
    (∃ (s : State) (offset size : Nat) (_value : BitVec 64), s.dev.on = true ∧ s.dev.bar = true ∧ size = 8 ∧ offset %
    8 = 0 ∧ offset < 0x80000 ∧ offset ≠ 0x7010) ∧
    (∃ (s : State) (value : BitVec 64), s.dev.on = true ∧ s.dev.bar = true ∧ s.dev.regs.lock = false ∧ regServed s.dev
    0x10 = true ∧ keepsBits 16 s.dev.regs.arrays (value.toNat % 2 ^ 16) = true ∧ ((newBits 16 s.dev.regs.arrays
    (value.toNat % 2 ^ 16)).all (fun n => tget false s.dev.lp.done n && tget 0 s.dev.lp.readyCh n != 0) = true)) ∧
    (∃ (s : State) (value : BitVec 64), s.dev.on = true ∧ s.dev.bar = true ∧ s.dev.regs.lock = false ∧ regServed s.dev
    0x18 = true ∧ bitOf value.toNat 0 = true) ∧
    (∃ (s : State) (value : BitVec 64), s.dev.on = true ∧ s.dev.bar = true ∧ s.dev.regs.lock = false ∧ regServed s.dev
    0x1000 = true ∧ s.dev.regs.spillValid = false ∧ value.toNat / 2 ^ 21 * 2 ^ 21 ≠ 0 ∧ bitOf value.toNat 0 = true) ∧
    (∃ (s : State) (value : BitVec 64), s.dev.on = true ∧ s.dev.bar = true ∧ s.dev.regs.lock = false ∧ regServed s.dev
    0x2000 = true ∧ keepsBits 16 s.dev.regs.memEnable (value.toNat % 2 ^ 16) = true ∧ (newBits 16 s.dev.regs.memEnable
    (value.toNat % 2 ^ 16)).all s.dev.ready = true) ∧
    (∃ (s : State) (die _failed : Nat), s.dev.on = true ∧ s.dev.ready die = true ∧ tget 0 s.dev.lp.running die ≠ 0) ∧
    (∃ (s : State) (value : BitVec 64), s.dev.on = true ∧ s.dev.bar = true ∧ s.dev.boot.mode ≠ .recovery ∧ (((bitIdx
    32 (value.toNat % 2 ^ 32)).filter (fun n => !(bitOf s.dev.regs.links n))).all (linkMayEnable s.dev) = true)) ∧
    (∃ (s : State) (value : BitVec 64), s.dev.on = true ∧ s.dev.bar = true ∧ s.dev.boot.mode ≠ .recovery ∧ (((bitIdx
    32 (value.toNat % 2 ^ 32)).filter (fun n => !(bitOf s.dev.regs.links n))).isEmpty = true)) ∧
    (∃ (s : State) (value : BitVec 64), s.dev.on = true ∧ s.dev.bar = true ∧ s.dev.regs.lock = false ∧ regServed s.dev
    0x3018 = true ∧ 10 ≤ bitsOf value.toNat 0 14 ∧ bitsOf value.toNat 0 14 ≤ 10000) ∧
    (∃ (s : State) (value : BitVec 64), s.dev.on = true ∧ s.dev.bar = true ∧ s.dev.regs.lock = false ∧ regServed s.dev
    0x3020 = true ∧ bitsOf value.toNat 32 10 ≤ 1000 ∧ 100 ≤ bitsOf value.toNat 0 17 ∧ bitsOf value.toNat 0 17 ≤
    100000) ∧
    (∃ (s : State) (value : BitVec 64), s.dev.on = true ∧ s.dev.bar = true ∧ s.dev.regs.lock = false ∧ regServed s.dev
    0x5008 = true ∧ s.dev.regs.matEnable = false ∧ bitOf value.toNat 0 = true ∧ s.dev.ready 28 = true ∧ (matAreas
    s.dev).length = 2) ∧
    (∃ (s : State), s.dev.on = true ∧ s.dev.regs.matEnable = true ∧ s.dev.mat.ready = false ∧ s.dev.mat.failed = false
    ∧ 2 ≤ (matAreas s.dev).length) :=
  ⟨⟨wOn dB, 0x3018, 8, 50#64, by decide +kernel⟩,
    ⟨wOn dB, 0xFFFF#64, by decide +kernel⟩,
    ⟨wOn dB, 1#64, by decide +kernel⟩,
    ⟨wOn dB, 0x200001#64, by decide +kernel⟩,
    ⟨wOn dB, 3#64, by decide +kernel⟩,
    ⟨wOn ({ dB with lp := { dB.lp with running := [(6, 1)] } }), 6, 0, by decide +kernel⟩,
    ⟨wOn dB, 0x11#64, by decide +kernel⟩,
    ⟨wOn dB, 0#64, by decide +kernel⟩,
    ⟨wOn dB, 10000#64, by decide +kernel⟩,
    ⟨wOn dB, 0x1e00000320#64, by decide +kernel⟩,
    ⟨wOn dB, 1#64, by decide +kernel⟩,
    ⟨wOn ({ dB with regs := { dB.regs with matEnable := true }, mat := {} }), by decide +kernel⟩⟩

theorem test_w_CounterRegisters :
    (∃ (s : State) (slot : Nat) (value : BitVec 64), s.dev.on = true ∧ s.dev.bar = true ∧ slot < 8 ∧ regServed s.dev
    (0x6010 + 8 * slot) = true ∧ (bitsOf value.toNat 0 16 = 0 ∨ (eventOk (bitsOf value.toNat 16 5) (bitsOf value.toNat
    0 16) = true ∧ policerEvent (bitsOf value.toNat 0 16) = false))) ∧
    (∃ (s : State) (_value : BitVec 64), s.dev.on = true ∧ s.dev.bar = true ∧ regServed s.dev 0x6008 = true) ∧
    (∃ (s : State), s.dev.on = true ∧ s.dev.firmware = true ∧ s.dev.cnt.hold = false ∧ s.dev.cnt.clear = false ∧
    s.dev.due s.dev.cnt.updatedAt 1000 = true) ∧
    (∃ (s : State) (unit : Nat) (u : Derived), s.dev.on = true ∧ tfind s.dev.cnt.derived unit = some u ∧ frozenOn
    s.dev 31 = false ∧ s.dev.due u.startAt u.window = true) ∧
    (∃ (s : State) (queue die : Nat) (q : Depth), s.dev.on = true ∧ queueDepth s.dev queue = some (die, q) ∧
    s.dev.ready die = true ∧ (1024 ≤ (tget ({} : Sample) s.dev.fab.samples queue).enq ∨ s.dev.due (tget ({} : Sample)
    s.dev.fab.samples queue).at_ 1000 = true) ∧ (queue < 512 ∨ 640 ≤ queue)) ∧
    (∃ (s : State) (queue die : Nat) (q : Depth), s.dev.on = true ∧ queueDepth s.dev queue = some (die, q) ∧
    s.dev.ready die = true ∧ s.dev.due (tget ({} : Sample) s.dev.fab.samples queue).at_ 1000 = true ∧ 512 ≤ queue ∧
    queue < 640) :=
  ⟨⟨wOn dB, 2, 0x00010800#64, by decide +kernel⟩,
    ⟨wOn dB, 3#64, by decide +kernel⟩,
    ⟨wOn dB, by decide +kernel⟩,
    ⟨wOn ({ dB with cnt := { derived := [(3, { event := 0xF100, window := 100 })] } }), 3,
      ({ event := 0xF100, window := 100 } : Derived), by decide +kernel⟩,
    ⟨wOn dB, 0, 16, ({ entries := 0, size := 0, oldest := none } : Depth), by decide +kernel⟩,
    ⟨wOn dB, 512, 0, ({ entries := 0, size := 0, oldest := none } : Depth), by decide +kernel⟩⟩

theorem test_w_HostLinkCommands :
    (∃ (s : State), s.dev.on = true) ∧
    (∃ (s : State), s.dev.on = true ∧ tier2Up s.dev = false) ∧
    (∃ (s : State), s.dev.on = true ∧ s.dev.hif.link ≠ .down) ∧
    (∃ (s : State) (gts width : Nat), s.dev.on = true ∧ s.dev.ready 30 = true ∧ s.dev.hif.link = .down ∧ gts = 64 ∧
    (width = 8 ∨ width = 4) ∧ s.dev.obj.pathUp = false) ∧
    (∃ (s : State), s.dev.on = true ∧ s.dev.firmware = true ∧ hostAbsent s.dev = true ∧ s.dev.mbr.drain.step = 0) ∧
    (∃ (s : State), s.dev.on = true ∧ s.dev.firmware = true ∧ (s.dev.lost 30 = true ∨ hostAbsent s.dev = true)) ∧
    (∃ (s : State) (base size ways : Nat), s.dev.on = true ∧ s.dev.bar = true ∧ s.dev.hif.link = .full ∧ base %
    268435456 = 0 ∧ size = 3298534883328 ∧ ways = 1) ∧
    (∃ (s : State) (base size ways : Nat), s.dev.on = true ∧ s.dev.bar = true ∧ s.dev.hif.link = .full ∧ (base %
    268435456 ≠ 0 ∨ size ≠ 3298534883328 ∨ ways ≠ 1)) ∧
    (∃ (s : State) (_cache _mem : Bool), s.dev.on = true ∧ s.dev.bar = true ∧ s.dev.hif.link = .full) ∧
    (∃ (s : State) (addr : Nat), s.dev.on = true ∧ s.dev.hdm = true ∧ addr < 3298534883328 ∧ s.dev.hif.cohFailed =
    false ∧ addrReady s.dev (addr / 64 * 64) = true) ∧
    (∃ (s : State) (addr : Nat), s.dev.on = true ∧ s.dev.hdm = true ∧ addr < 3298534883328 ∧ s.dev.hif.cohFailed =
    true) ∧
    (∃ (s : State) (addr : Nat), s.dev.on = true ∧ s.dev.hdm = true ∧ 3298534883328 ≤ addr) ∧
    (∃ (s : State) (addr : Nat) (_data : Bytes) (keep : Bool), s.dev.on = true ∧ s.dev.hdm = true ∧ addr <
    3298534883328 ∧ s.dev.hif.cohFailed = false ∧ keep = true) ∧
    (∃ (s : State) (addr : Nat) (data : Bytes) (_keep : Bool), s.dev.on = true ∧ s.dev.hdm = true ∧ addr <
    3298534883328 ∧ s.dev.hif.cohFailed = false ∧ inLoadRun s.dev (addr / 64 * 64) (padTo 64 data).length = false ∧
    writeWaits s.dev (addr / 64 * 64) (padTo 64 data).length = false) ∧
    (∃ (s : State) (addr : Nat) (data : Bytes) (keep : Bool), s.dev.on = true ∧ s.dev.hdm = true ∧ addr <
    3298534883328 ∧ s.dev.hif.cohFailed = false ∧ keep = true ∧ writeWaits s.dev (addr / 64 * 64) (padTo 64
    data).length = true) ∧
    (∃ (s : State) (addr : Nat) (_data : Bytes) (_keep : Bool), s.dev.on = true ∧ s.dev.hdm = true ∧ 3298534883328 ≤
    addr) ∧
    (∃ (s : State) (line : Nat), s.dev.on = true ∧ s.dev.cxlUp = true ∧ ((s.dev.hif.backInv.any fun p => p.1 == line)
    = true)) ∧
    (∃ (s : State) (line : Nat), s.dev.on = true ∧ ((s.dev.hif.backInv.any fun p => p.1 == line && s.dev.due p.2
    100000) = true)) :=
  ⟨⟨wOn dB, by decide +kernel⟩,
    ⟨wOn dB, by decide +kernel⟩,
    ⟨wOn dB, by decide +kernel⟩,
    ⟨wOn ({ dB with hif := {} }), 64, 8, by decide +kernel⟩,
    ⟨wOn ({ dB with now := 3000000001, hif := { downAt := 1 } }), by decide +kernel⟩,
    ⟨wOn ({ dB with now := 3000000001, hif := { downAt := 1 } }), by decide +kernel⟩,
    ⟨wOn dB, 0x40000000000, 3298534883328, 1, by decide +kernel⟩,
    ⟨wOn dB, 0, 5, 1, by decide +kernel⟩,
    ⟨wOn dB, true, true, by decide +kernel⟩,
    ⟨wOn dB, 100, by decide +kernel⟩,
    ⟨wOn ({ dB with hif := { dB.hif with cohFailed := true } }), 0, by decide +kernel⟩,
    ⟨wOn dB, 3298534883328, by decide +kernel⟩,
    ⟨wOn dB, 64, zeros 64, true, by decide +kernel⟩,
    ⟨wOn dB, 64, zeros 64, false, by decide +kernel⟩,
    ⟨wOn ({ dB with hif := { dB.hif with waiting := [{ addr := 64, data := zeros 64, lines := [9] }] } }), 64,
      zeros 64, true, by decide +kernel⟩,
    ⟨wOn dB, 3298534883328, zeros 64, true, by decide +kernel⟩,
    ⟨wOn ({ dB with hif := { dB.hif with backInv := [(5, 9)] } }), 5, by decide +kernel⟩,
    ⟨wOn ({ dB with hif := { dB.hif with backInv := [(5, 9)] } }), 5, by decide +kernel⟩⟩

theorem test_w_HostReads :
    (∃ (s : State) (id : Nat) (_ok : Bool) (_data : Bytes) (q : IoRead), s.dev.on = true ∧ (s.dev.hif.reads.find? (fun
    r => r.id == id) = some q) ∧ s.dev.hostUp = true) ∧
    (∃ (s : State) (id ring index : Nat) (ok : Bool) (_data : Bytes) (q : IoRead) (c : Cmd), s.dev.on = true ∧
    (s.dev.hif.reads.find? (fun r => r.id == id) = some q) ∧ s.dev.hostUp = true ∧ q.purpose = .command ring index ∧
    s.dev.cmd ring index = some c ∧ c.phase = .reading ∧ ok = true ∧ s.dev.boot.mode = .firmware) ∧
    (∃ (s : State) (id : Nat) (q : IoRead), s.dev.on = true ∧ (s.dev.hif.reads.find? (fun r => r.id == id) = some q) ∧
    s.dev.due q.at_ 100000 = true) ∧
    (∃ (s : State) (id : Nat) (ok : Bool) (_data : Bytes) (r : UioRead), s.dev.on = true ∧ (s.dev.obj.uioReads.find?
    (fun r => r.id == id) = some r) ∧ ok = true) ∧
    (∃ (s : State) (id : Nat) (ok : Bool) (_data : Bytes) (r : UioRead), s.dev.on = true ∧ (s.dev.obj.uioReads.find?
    (fun r => r.id == id) = some r) ∧ ok = false) ∧
    (∃ (s : State) (id : Nat) (r : UioRead), s.dev.on = true ∧ (s.dev.obj.uioReads.find? (fun r => r.id == id) = some
    r) ∧ s.dev.due r.at_ 100000 = true) ∧
    (∃ (s : State) (move f n : Nat) (ok : Bool) (m : Move), s.dev.on = true ∧ (s.dev.obj.moves.find? (fun m => m.id ==
    move) = some m) ∧ m.dst = some (2, f, n) ∧ m.writes ≠ 0 ∧ m.arrived = false ∧ ok = true) ∧
    (∃ (s : State) (_up : Bool), s.dev.on = true) ∧
    (∃ (s : State) (_up : Bool), s.dev.on = true ∧ s.dev.cxlUp = false) :=
  ⟨⟨wOn ({ dB with hif := { dB.hif with reads := [{ id := 3, purpose := .stage, addr := 0, len := 64, at_ := 0 }] } }),
      3, false, [], ({ id := 3, purpose := .stage, addr := 0, len := 64, at_ := 0 } : IoRead), by decide +kernel⟩,
    ⟨wOn (cmdIn (dB.onHif fun h => { h with reads := [{ id := 3, purpose := .command 0 0, addr := 0, len := 2, at_ := 0 }] }) { index := 0, phase := .reading }),
      3, 0, 0, true, [1, 2], ({ id := 3, purpose := .command 0 0, addr := 0, len := 2, at_ := 0 } : IoRead),
      ({ index := 0, phase := .reading } : Cmd), by decide +kernel⟩,
    ⟨wOn ({ dB with hif := { dB.hif with reads := [{ id := 3, purpose := .stage, addr := 0, len := 64, at_ := 0 }] } }),
      3, ({ id := 3, purpose := .stage, addr := 0, len := 64, at_ := 0 } : IoRead), by decide +kernel⟩,
    ⟨wOn ({ dB with obj := { uioReads := [{ id := 2, use := .copy 0, parts := 1, at_ := 0 }] } }), 2, true, [],
      ({ id := 2, use := .copy 0, parts := 1, at_ := 0 } : UioRead), by decide +kernel⟩,
    ⟨wOn ({ dB with obj := { uioReads := [{ id := 2, use := .copy 0, parts := 1, at_ := 0 }] } }), 2, false, [],
      ({ id := 2, use := .copy 0, parts := 1, at_ := 0 } : UioRead), by decide +kernel⟩,
    ⟨wOn ({ dB with obj := { uioReads := [{ id := 2, use := .copy 0, parts := 1, at_ := 0 }] } }), 2,
      ({ id := 2, use := .copy 0, parts := 1, at_ := 0 } : UioRead), by decide +kernel⟩,
    ⟨wOn ({ dB with obj := { moves := [{ id := 1, key := 0, priority := 6, dst := some (2, 5, 1), writes := 1 }] } }),
      1, 5, 1, true, ({ id := 1, key := 0, priority := 6, dst := some (2, 5, 1), writes := 1 } : Move),
      by decide +kernel⟩,
    ⟨wOn dB, true, by decide +kernel⟩,
    ⟨wOn ({ dB with hif := {} }), true, by decide +kernel⟩⟩

theorem test_w_SidebandCommands :
    (∃ (s : State) (opcode : Nat) (_payload : Bytes), s.dev.on = true ∧ s.dev.bar = true ∧ opcode = 0x4000) ∧
    (∃ (s : State) (opcode : Nat) (_payload : Bytes), s.dev.on = true ∧ s.dev.bar = true ∧ [0x4000, 0x0400, 0x0401,
    0x0100, 0x0101, 0x0102, 0x0103].contains opcode = false) ∧
    (∃ (s : State) (mctp : Bool), s.dev.on = true ∧ s.dev.spdmUp mctp = true) ∧
    (∃ (s : State) (mctp : Bool), s.dev.on = true ∧ s.dev.spdmUp mctp = true ∧ (s.dev.spdm mctp).version = true) ∧
    (∃ (s : State) (asym hash meas : Nat) (mctp : Bool), s.dev.on = true ∧ s.dev.spdmUp mctp = true ∧ (s.dev.spdm
    mctp).capabilities = true ∧ bitOf asym 4 = true ∧ bitOf hash 0 = true ∧ bitOf meas 0 = true) ∧
    (∃ (s : State) (mctp : Bool), s.dev.on = true ∧ s.dev.spdmUp mctp = true ∧ (s.dev.spdm mctp).algorithms = true) ∧
    (∃ (s : State) (slot offset _length : Nat) (mctp : Bool), s.dev.on = true ∧ s.dev.spdmUp mctp = true ∧ (s.dev.spdm
    mctp).algorithms = true ∧ slot = 0 ∧ offset ≤ (certChain s.nv s.dev).length) ∧
    (∃ (s : State) (slot : Nat) (mctp : Bool) (_nonce : Bytes), s.dev.on = true ∧ s.dev.spdmUp mctp = true ∧
    (s.dev.spdm mctp).algorithms = true ∧ slot = 0) ∧
    (∃ (s : State) (index : Nat) (mctp signed : Bool) (_nonce : Bytes), s.dev.on = true ∧ s.dev.spdmUp mctp = true ∧
    (s.dev.spdm mctp).algorithms = true ∧ 1 ≤ index ∧ index ≤ 4 ∧ signed = false) ∧
    (∃ (s : State) (code : Nat) (mctp : Bool), s.dev.on = true ∧ s.dev.spdmUp mctp = true ∧ [0x81, 0x82, 0x83, 0x84,
    0xE0, 0xE1, 0xE3].contains code = false) ∧
    (∃ (s : State) (addr : Nat), s.dev.on = true ∧ s.dev.sideband = true ∧ addr < 128) ∧
    (∃ (s : State) (_eid : Nat), s.dev.on = true ∧ s.dev.sideband = true ∧ s.dev.sec.i3c.isSome = true) ∧
    (∃ (s : State) (_eid : Nat), s.dev.on = true ∧ s.dev.firmware = true ∧ s.dev.sec.eid.isSome = true) ∧
    (∃ (s : State) (sensor _value : Nat), s.dev.on = true ∧ s.dev.firmware = true ∧ 1 ≤ sensor ∧ sensor ≤ 9) ∧
    (∃ (s : State), s.dev.on = true ∧ s.dev.sideband = true ∧ s.dev.sec.eid.isSome = true ∧ s.dev.sec.busy = false ∧
    s.dev.sec.update = .idle) ∧
    (∃ (s : State) (offset : Nat) (data : Bytes), s.dev.on = true ∧ s.dev.sec.update = .download ∧ offset +
    data.length ≤ 12582912) ∧
    (∃ (s : State), s.dev.on = true ∧ s.dev.sec.update = .download ∧ s.dev.boot.mode ≠ .recovery) ∧
    (∃ (s : State), s.dev.on = true ∧ s.dev.firmware = true ∧ s.dev.sec.update = .verified) :=
  ⟨⟨wOn dB, 0x4000, [], by decide +kernel⟩,
    ⟨wOn dB, 0x0200, [], by decide +kernel⟩,
    ⟨wOn dB, false, by decide +kernel⟩,
    ⟨wOn ({ dB with sec := { doe := { version := true } } }), false, by decide +kernel⟩,
    ⟨wOn ({ dB with sec := { doe := { capabilities := true } } }), 0x10, 1, 1, false, by decide +kernel⟩,
    ⟨wOn ({ dB with sec := { doe := { algorithms := true } } }), false, by decide +kernel⟩,
    ⟨wOn ({ dB with sec := { doe := { algorithms := true } } }), 0, 0, 16, false, by decide +kernel⟩,
    ⟨wOn ({ dB with sec := { doe := { algorithms := true } } }), 0, false, [], by decide +kernel⟩,
    ⟨wOn ({ dB with sec := { doe := { algorithms := true } } }), 2, false, false, [], by decide +kernel⟩,
    ⟨wOn dB, 0xE4, false, by decide +kernel⟩,
    ⟨wOn dB, 9, by decide +kernel⟩,
    ⟨wOn ({ dB with sec := { i3c := some 9 } }), 0x1D, by decide +kernel⟩,
    ⟨wOn ({ dB with sec := { eid := some 9 } }), 8, by decide +kernel⟩,
    ⟨wOn dB, 2, 900, by decide +kernel⟩,
    ⟨wOn ({ dB with sec := { eid := some 9 } }), by decide +kernel⟩,
    ⟨wOn ({ dB with sec := { update := .download } }), 0, [1, 2], by decide +kernel⟩,
    ⟨wOn ({ dB with sec := { update := .download } }), by decide +kernel⟩,
    ⟨wOn ({ dB with sec := { update := .verified } }), by decide +kernel⟩⟩

theorem test_w_MailboxCommands :
    (∃ (s : State) (_length : Nat), s.dev.on = true ∧ s.dev.mbox = true ∧ s.dev.firmware = true ∧ s.dev.sec.update =
    .idle) ∧
    (∃ (s : State) (_length : Nat), s.dev.on = true ∧ s.dev.mbox = true ∧ s.dev.boot.mode = .recovery ∧
    s.dev.sec.update = .idle) ∧
    (∃ (s : State) (_length : Nat), s.dev.on = true ∧ s.dev.mbox = true ∧ s.dev.firmware = true ∧ s.dev.sec.update ≠
    .idle) ∧
    (∃ (s : State), s.dev.on = true ∧ s.dev.mbox = true ∧ s.dev.firmware = true ∧ s.dev.sec.update = .idle) ∧
    (∃ (s : State), s.dev.on = true ∧ s.dev.mbox = true ∧ s.dev.firmware = true ∧ s.dev.sec.update ≠ .idle) ∧
    (∃ (s : State), s.dev.on = true ∧ s.dev.mbox = true ∧ s.dev.firmware = true ∧ s.dev.boot.mode = .firmware) ∧
    (∃ (s : State), s.dev.on = true ∧ s.dev.mbox = true ∧ s.dev.firmware = true ∧ s.dev.boot.mode = .fallback) ∧
    (∃ (s : State), s.dev.on = true ∧ s.dev.mbox = true ∧ s.dev.firmware = true ∧ s.dev.mbr.drain.step = 6) ∧
    (∃ (s : State), s.dev.on = true ∧ s.dev.mbox = true ∧ s.dev.firmware = true ∧ s.dev.mbr.drain.step ≠ 6) :=
  ⟨⟨wOn dB, 8192, by decide +kernel⟩,
    ⟨wOn ({ dB with boot := { mode := .recovery } }), 8192, by decide +kernel⟩,
    ⟨wOn ({ dB with sec := { update := .download } }), 8192, by decide +kernel⟩,
    ⟨wOn dB, by decide +kernel⟩,
    ⟨wOn ({ dB with sec := { update := .download } }), by decide +kernel⟩,
    ⟨wOn dB, by decide +kernel⟩,
    ⟨wOn ({ dB with boot := { mode := .fallback } }), by decide +kernel⟩,
    ⟨wOn ({ dB with mbr := { drain := { step := 6 } } }), by decide +kernel⟩,
    ⟨wOn dB, by decide +kernel⟩⟩

theorem test_w_RingCommands :
    (∃ (s : State) (ring : Nat), s.dev.on = true ∧ s.dev.bar = true ∧ ring ≤ 64 ∧ s.dev.boot.mode ≠ .recovery ∧
    (s.dev.ring ring).state = .disabled ∧ ringValid s.dev ring = true) ∧
    (∃ (s : State) (ring : Nat), s.dev.on = true ∧ s.dev.bar = true ∧ ring ≤ 64 ∧ s.dev.boot.mode ≠ .recovery) ∧
    (∃ (s : State) (ring : Nat), s.dev.on = true ∧ ring ≤ 64 ∧ (s.dev.ring ring).state = .stopping ∧ ringIdle
    (s.dev.ring ring) = true) ∧
    (∃ (s : State) (ring : Nat) (value : BitVec 64), s.dev.on = true ∧ s.dev.bar = true ∧ ring ≤ 64 ∧ s.dev.boot.mode
    ≠ .recovery ∧ 1 ≤ bitsOf value.toNat 32 9 ∧ bitsOf value.toNat 32 9 ≤ 256) ∧
    (∃ (s : State) (ring : Nat), s.dev.on = true ∧ s.dev.cxlUp = true ∧ (s.dev.ring ring).lineHeld = true ∧
    (s.dev.ring ring).state = .enabled) ∧
    (∃ (s : State) (ring : Nat) (record : Bytes), s.dev.on = true ∧ s.dev.cxlUp = true ∧ (s.dev.ring ring).reread =
    true ∧ (s.dev.ring ring).state = .enabled ∧ ring < 64 ∧ pairDoorbellError { s.dev.ring ring with reread := false }
    (padTo 64 record) = false) ∧
    (∃ (s : State) (n : Nat), s.dev.on = true ∧ s.dev.hostUp = true ∧ ((((List.range 64).map fun k => (s.dev.hif.rr +
    k) % 64).find? fun n => decide (0 < fetchable (s.dev.ring n) (nodeCmds s.dev))) = some n)) ∧
    (∃ (s : State) (ring : Nat) (c : Cmd), s.dev.on = true ∧ ring < 64 ∧ s.dev.hostUp = true ∧ nextStart (s.dev.ring
    ring).fetched = some c ∧ s.dev.cmd ring c.index = some c ∧ firstFail (startChecks s.dev c.desc) = none ∧
    readBuffer c.desc = none) ∧
    (∃ (s : State) (ring st off : Nat) (c : Cmd), s.dev.on = true ∧ ring < 64 ∧ s.dev.hostUp = true ∧ nextStart
    (s.dev.ring ring).fetched = some c ∧ s.dev.cmd ring c.index = some c ∧ firstFail (startChecks s.dev c.desc) = some
    (st, off)) ∧
    (∃ (s : State) (ring index : Nat) (c : Cmd), s.dev.on = true ∧ s.dev.cmd ring index = some c ∧ c.phase = .done ∧
    (s.dev.ring ring).state ≠ .disabled ∧ index / 4294967296 = (s.dev.ring ring).era ∧ s.dev.hostUp = true) ∧
    (∃ (s : State) (ring index : Nat) (c : Cmd), s.dev.on = true ∧ s.dev.cmd ring index = some c ∧ c.phase = .done ∧
    ((s.dev.ring ring).state = .disabled ∨ index / 4294967296 ≠ (s.dev.ring ring).era)) ∧
    (∃ (s : State) (ring : Nat), s.dev.on = true ∧ 0 < (s.dev.ring ring).unsignalled ∧ s.dev.due (s.dev.ring
    ring).firstAt (s.dev.ring ring).irqDelay = true) ∧
    (∃ (s : State) (e : Event) (q : List Event), s.dev.on = true ∧ evtRoom s.dev = true ∧ s.dev.evt.lost = 0 ∧
    s.dev.evt.queue = e :: q) ∧
    (∃ (s : State) (e : Event) (q : List Event), s.dev.on = true ∧ evtRoom s.dev = false ∧ s.dev.evt.queue = e :: q) ∧
    (∃ (s : State), s.dev.on = true ∧ evtRoom s.dev = true ∧ 0 < s.dev.evt.lost) ∧
    (∃ (s : State) (code die at_ : Nat), s.dev.on = true ∧ (tget ({} : Counted) s.dev.evt.counted (countedKey code
    die)).last = some at_ ∧ s.dev.due at_ 100000 = true ∧ 0 < (tget ({} : Counted) s.dev.evt.counted (countedKey code
    die)).count) :=
  ⟨⟨wOn (dB.onRing 1 fun r => { r with base := 0x100004, cplBase := 0x200004, dbAddr := 0x300000 }), 1,
      by decide +kernel⟩,
    ⟨wOn dB, 1, by decide +kernel⟩,
    ⟨wOn (dB.onRing 3 fun r => { r with state := .stopping, base := 5 }), 3, by decide +kernel⟩,
    ⟨wOn dB, 2, 0x100000003#64, by decide +kernel⟩,
    ⟨wOn (dB.onRing 3 fun r => { r with state := .enabled, lineHeld := true }), 3, by decide +kernel⟩,
    ⟨wOn (dB.onRing 3 fun r => { r with state := .enabled, reread := true, base := 0x100004, cplBase := 0x200004 }),
      3, [2, 0, 0, 0], by decide +kernel⟩,
    ⟨wOn (dB.onRing 3 fun r => { r with state := .enabled, tail := 1, base := 0x100004, cplBase := 0x200004 }), 3,
      by decide +kernel⟩,
    ⟨wCmd 0x26 [] [], 0, ({ index := 0, phase := .waiting, desc := dsc 0x26 [] } : Cmd), by decide +kernel⟩,
    ⟨wCmd 0x7F [] [], 0, 0x11, 0, ({ index := 0, phase := .waiting, desc := dsc 0x7F [] } : Cmd), by decide +kernel⟩,
    ⟨wDone, 0, 0, ({ index := 0, phase := .done, desc := dsc 0x26 [] } : Cmd), by decide +kernel⟩,
    ⟨wOn (wDone.dev.onRing 0 fun r => { r with state := .disabled }), 0, 0,
      ({ index := 0, phase := .done, desc := dsc 0x26 [] } : Cmd), by decide +kernel⟩,
    ⟨wOn (dB.onRing 3 fun r => { r with unsignalled := 1, irqDelay := 5 }), 3, by decide +kernel⟩,
    ⟨wOn ((logEv dB 0x0401 16 [3]).onRing 64 fun r => { r with state := .enabled, base := 0x100008 }),
      { code := 0x0401, die := 16, seq := 0, tick := dB.now, count := 1, tenant := 0, status := 0, eflags := 0, data := [3] },
      [], by decide +kernel⟩,
    ⟨wOn (logEv dB 0x0401 16 [3]),
      { code := 0x0401, die := 16, seq := 0, tick := dB.now, count := 1, tenant := 0, status := 0, eflags := 0, data := [3] },
      [], by decide +kernel⟩,
    ⟨wOn ({ dB with evt := { lost := 3 } }.onRing 64 fun r => { r with state := .enabled, base := 0x100008 }),
      by decide +kernel⟩,
    ⟨wOn ({ dB with evt := { counted := [(countedKey 0x0305 7, { count := 2, last := some 0 })] } }), 0x0305, 7, 0,
      by decide +kernel⟩⟩

theorem test_w_ConfigurationCommands :
    (∃ (s : State) (ring index : Nat) (c : Cmd), s.dev.on = true ∧ s.dev.cmdReady ring index 0x01 = some c ∧ firstFail
    (granuleChecks s.dev c) = none ∧ tfind s.dev.lp.changing (fld c.desc 0x10 1) = none ∧ ((grans c).filter (fun g =>
    isBankOp s.dev (fld c.desc 0x10 1 * 48 + g) != (fld c.desc 0x13 1 == 1)) ≠ [])) ∧
    (∃ (s : State) (slice g : Nat) (rest : List Nat) (ch : GranuleChange), s.dev.on = true ∧ slice < 64 ∧ s.dev.ready
    (dieOfSlice slice) = true ∧ tfind s.dev.lp.changing slice = some ch ∧ ch.todo = g :: rest ∧ rest ≠ [] ∧
    ch.toBankOp = true ∧ ch.filled = true ∧ rangeSettled s.dev ((slice * 48 + g) * gib) gib = true) ∧
    (∃ (s : State) (slice g : Nat) (rest : List Nat) (ch : GranuleChange), s.dev.on = true ∧ slice < 64 ∧ s.dev.ready
    (dieOfSlice slice) = true ∧ tfind s.dev.lp.changing slice = some ch ∧ ch.todo = g :: rest ∧ rest ≠ [] ∧
    ch.toBankOp = false ∧ rangeSettled s.dev ((slice * 48 + g) * gib) gib = true) ∧
    (∃ (s : State) (slice g : Nat) (rest : List Nat) (ch : GranuleChange), s.dev.on = true ∧ slice < 64 ∧ s.dev.ready
    (dieOfSlice slice) = true ∧ tfind s.dev.lp.changing slice = some ch ∧ ch.todo = g :: rest ∧ rest ≠ [] ∧
    ch.toBankOp = false ∧ rangeSettled s.dev ((slice * 48 + g) * gib) gib = false) ∧
    (∃ (s : State) (ring index : Nat) (c : Cmd), s.dev.on = true ∧ s.dev.cmdReady ring index 0x02 = some c ∧ fld
    c.desc 0x10 1 ≤ 64 ∧ ((List.range (extentList c).length).find? (fun i => !(extentOk c.buf i)) = none) ∧
    (((extentList c).map (fun e => e.2)).sum ≤ 262144 * gib) ∧ ((List.range s.dev.obj.extents.length).find? (fun i =>
    extentHeld s.dev i && !(extentKept s.dev (extentList c) i)) = none) ∧ ((List.range (extentList c).length).filter
    (fun i => !(extentKept s.dev (extentList c) i)) = []) ∧ uioRoom s.dev 0 = true) ∧
    (∃ (s : State) (ring index : Nat) (c : Cmd), s.dev.on = true ∧ s.dev.cmdReady ring index 0x03 = some c ∧ firstFail
    (bindChecks s.dev c) = none ∧ (comp s.dev (fld c.desc 0x10 1)).slices = []) ∧
    (∃ (s : State) (ring index : Nat) (c : Cmd), s.dev.on = true ∧ s.dev.cmdReady ring index 0x03 = some c ∧ firstFail
    (bindChecks s.dev c) = none ∧ (comp s.dev (fld c.desc 0x10 1)).slices ≠ []) ∧
    (∃ (s : State) (comp_ ring index : Nat) (l : List Nat) (desc : Bytes) (c : Cmd), s.dev.on = true ∧ (comp s.dev
    comp_).restarting = some (l, desc, ring, index) ∧ s.dev.firmware = true ∧ ((s.dev.attn.requests.any fun q =>
    q.2.composition == comp_) = false) ∧ s.dev.cmd ring index = some c ∧ c.desc = desc ∧ (firstFail (bindState
    (dropSlots (s.dev.onMbr fun m =>
    { m with compositions := tmod {} m.compositions comp_ fun k => { k with restarting := none } }) fun x =>
    x.composition == comp_) c) = none)) ∧
    (∃ (s : State) (ring index : Nat) (c : Cmd), s.dev.on = true ∧ s.dev.cmdReady ring index 0x04 = some c ∧ fld
    c.desc 0x10 1 < 64 ∧ (comp s.dev (fld c.desc 0x10 1)).slices ≠ [] ∧ (comp s.dev (fld c.desc 0x10 1)).tenant = fld
    c.desc 8 2) ∧
    (∃ (s : State) (ring index : Nat) (c : Cmd), s.dev.on = true ∧ s.dev.cmdReady ring index 0x08 = some c ∧ 1 ≤ fld
    c.desc 0x14 2 ∧ fld c.desc 0x14 2 + fld c.desc 0x12 2 ≤ 1024 ∧ fld c.desc 0x10 1 < 2 ∧ s.dev.regs.links ≠ 0 ∧
    ((List.range (fld c.desc 0x14 2)).find? (fun i => bitsOf (fld c.buf (8 * i) 8) 43 15 != 0) = none)) ∧
    (∃ (s : State) (ring index : Nat) (c : Cmd), s.dev.on = true ∧ s.dev.cmdReady ring index 0x09 = some c ∧ firstFail
    (schedChecks c) = none ∧ fld c.desc 0x10 1 = 1 ∧ ((List.range (fld c.desc 0x14 2)).find? (fun i => !(serviceOk
    (cut c.buf (8 * i) 8))) = none)) ∧
    (∃ (s : State) (ring index : Nat) (c : Cmd), s.dev.on = true ∧ s.dev.cmdReady ring index 0x0A = some c ∧ 1 ≤ fld
    c.desc 0x10 1 ∧ fld c.desc 0x10 1 ≤ 63 ∧ s.dev.mat.ready = true) ∧
    (∃ (s : State) (ring index : Nat) (c : Cmd), s.dev.on = true ∧ s.dev.cmdReady ring index 0x0B = some c ∧ 1 ≤ fld
    c.desc 0x10 2 ∧ fld c.desc 0x10 2 ≤ 4096 ∧ fld c.desc 0x20 4 = 64 * fld c.desc 0x10 2 ∧ s.dev.mat.ready = true ∧
    s.dev.mat.edits = []) ∧
    (∃ (s : State) (die partition run : Nat) (runs : List Nat), s.dev.on = true ∧ (die = 28 ∨ die = 29) ∧ partition =
    1 ∧ tget [] s.dev.mat.repairs ((die - 28) * 2 + 1) = run :: runs ∧ (runHoles (dieTab s.dev die) (holeSpacing
    s.dev) run).isEmpty = true) ∧
    (∃ (s : State) (ring index : Nat) (c : Cmd), s.dev.on = true ∧ s.dev.cmdReady ring index 0x0C = some c ∧
    ((s.dev.mat.lookups.any fun l => l.ring == ring && l.index == index) = false) ∧ 1 ≤ fld c.desc 0x10 2 ∧ fld c.desc
    0x10 2 ≤ 4096 ∧ fld c.desc 0x20 4 = 16 * fld c.desc 0x10 2 ∧ 16 * fld c.desc 0x10 2 ≤ fld c.desc 0x30 4) ∧
    (∃ (s : State) (die : Nat) (l : Lookup) (c : Cmd), s.dev.on = true ∧ s.dev.lost die = true ∧ s.dev.mat.lookups =
    [l] ∧ l.scanning = true ∧ l.asks = none ∧ s.dev.cmd l.ring l.index = some c ∧ prefixDie (lookupKey c l.next) =
    die) :=
  ⟨⟨wReady 0x01 [(0x10, 1, 5), (0x11, 1, 40), (0x12, 1, 2), (0x13, 1, 1)] [], 0, 0,
      cReady 0x01 [(0x10, 1, 5), (0x11, 1, 40), (0x12, 1, 2), (0x13, 1, 1)] [], by decide +kernel⟩,
    ⟨wOn ({ dB with lp := { dB.lp with changing := [(5, { ring := 0, index := 0, toBankOp := true, todo := [40, 41], named := 2, filled := true })] } }),
      5, 40, [41],
      ({ ring := 0, index := 0, toBankOp := true, todo := [40, 41], named := 2, filled := true } : GranuleChange),
      by decide +kernel⟩,
    ⟨wOn ({ dB with lp := { dB.lp with changing := [(5, { ring := 0, index := 0, toBankOp := false, todo := [40, 41], named := 2, filled := false })] } }),
      5, 40, [41],
      ({ ring := 0, index := 0, toBankOp := false, todo := [40, 41], named := 2, filled := false } : GranuleChange),
      by decide +kernel⟩,
    ⟨wOn ({ dB with hif := { dB.hif with filter := [(1, [4697620480])] }, lp := { dB.lp with changing := [(5, { ring := 0, index := 0, toBankOp := false, todo := [40, 41], named := 2, filled := false })] } }),
      5, 40, [41],
      ({ ring := 0, index := 0, toBankOp := false, todo := [40, 41], named := 2, filled := false } : GranuleChange),
      by decide +kernel⟩,
    ⟨wReady 0x02 [] [], 0, 0, cReady 0x02 [] [], by decide +kernel⟩,
    ⟨wReady 0x03 [(0x10, 1, 2), (0x14, 4, 9), (0x18, 1, 1)] [], 0, 0,
      cReady 0x03 [(0x10, 1, 2), (0x14, 4, 9), (0x18, 1, 1)] [], by decide +kernel⟩,
    ⟨wReadyOn ({ dB with mbr := { dB.mbr with compositions := [(2, { id := 9, tenant := 7, slices := [0] })] } }) 0x03 [(0x10, 1, 2), (0x14, 4, 9), (0x18, 1, 1)] [],
      0, 0, cReady 0x03 [(0x10, 1, 2), (0x14, 4, 9), (0x18, 1, 1)] [], by decide +kernel⟩,
    ⟨wRestart, 2, 0, 0, [0], dsc 0x03 [(0x10, 1, 2), (0x14, 4, 9), (0x18, 1, 1)],
      cReady 0x03 [(0x10, 1, 2), (0x14, 4, 9), (0x18, 1, 1)] [], by decide +kernel⟩,
    ⟨wReadyOn ({ dB with mbr := { dB.mbr with compositions := [(2, { id := 9, tenant := 7, slices := [0] })] } }) 0x04 [(0x10, 1, 2), (0x14, 4, 77)] [],
      0, 0, cReady 0x04 [(0x10, 1, 2), (0x14, 4, 77)] [], by decide +kernel⟩,
    ⟨wReadyOn ({ dB with regs := { dB.regs with links := 1 } }) 0x08 [(0x14, 2, 1)] [1, 0, 0, 0, 0, 0, 0, 0], 0, 0,
      cReady 0x08 [(0x14, 2, 1)] [1, 0, 0, 0, 0, 0, 0, 0], by decide +kernel⟩,
    ⟨wReady 0x09 [(0x10, 1, 1), (0x11, 1, 4), (0x14, 2, 1)] [1, 2, 3, 4, 5, 0, 0, 0], 0, 0,
      cReady 0x09 [(0x10, 1, 1), (0x11, 1, 4), (0x14, 2, 1)] [1, 2, 3, 4, 5, 0, 0, 0], by decide +kernel⟩,
    ⟨wReady 0x0A [(0x10, 1, 3), (0x28, 4, 5)] [], 0, 0, cReady 0x0A [(0x10, 1, 3), (0x28, 4, 5)] [],
      by decide +kernel⟩,
    ⟨wReady 0x0B [(0x10, 2, 1), (0x20, 4, 64)] (zeros 64), 0, 0, cReady 0x0B [(0x10, 2, 1), (0x20, 4, 64)] (zeros 64),
      by decide +kernel⟩,
    ⟨wHole, 28, 1, 65536, [], by decide +kernel⟩,
    ⟨wReady 0x0C [(0x10, 2, 1), (0x20, 4, 16), (0x30, 4, 16)] (zeros 16), 0, 0,
      cReady 0x0C [(0x10, 2, 1), (0x20, 4, 16), (0x30, 4, 16)] (zeros 16), by decide +kernel⟩,
    ⟨wScan, 28, { ring := 0, index := 0, next := 0, hits := 0, out := [], scanning := true },
      cReady 0x0C [(0x10, 2, 1), (0x20, 4, 16), (0x30, 4, 16)] (zeros 16), by decide +kernel⟩⟩

theorem test_w_MembershipCommands :
    (∃ (s : State) (ring index : Nat) (c : Cmd), s.dev.on = true ∧ s.dev.cmdReady ring index 0x05 = some c ∧ fld
    c.desc 0x10 1 = 0 ∧ fld c.desc 0x12 2 ≠ 0 ∧ fld c.desc 0x16 2 ≤ 1000 ∧ fld c.desc 0x18 1 ≤ 16 ∧ witnessesOk s.dev
    c.desc = true ∧ fld c.desc 0x14 2 ≠ 0 ∧ s.dev.regs.links = 0 ∧ (s.dev.domain (fld c.desc 0x12 2)).witnesses = [] ∧
    ((s.dev.mbr.domains.filter fun p => !p.2.witnesses.isEmpty).length < 64)) ∧
    (∃ (s : State) (ring index : Nat) (c : Cmd), s.dev.on = true ∧ s.dev.cmdReady ring index 0x05 = some c ∧ fld
    c.desc 0x10 1 = 1 ∧ fld c.desc 0x12 2 ≠ 0 ∧ witnessesOk s.dev c.desc = true ∧ (voters s.dev (fld c.desc 0x12
    2)).contains s.dev.regs.nodeId = true ∧ frozen s.dev (fld c.desc 0x12 2) = false) ∧
    (∃ (s : State) (ring index : Nat) (c : Cmd), s.dev.on = true ∧ s.dev.cmdReady ring index 0x06 = some c ∧ fld
    c.desc 0x10 1 = 0 ∧ fld c.desc 0x14 4 = 0 ∧ s.dev.live s.dev.regs.nodeId = false ∧ s.dev.mbr.domain ≠ 0) ∧
    (∃ (s : State) (ring index : Nat) (c : Cmd) (m : Member), s.dev.on = true ∧ s.dev.cmdReady ring index 0x06 = some
    c ∧ fld c.desc 0x10 1 = 1 ∧ s.dev.member (fld c.desc 0x14 4) = some m ∧ m.live = true ∧ (voters s.dev
    m.domain).contains s.dev.regs.nodeId = true) ∧
    (∃ (s : State) (ring index at_ : Nat) (rest : List (Nat × Nat × Nat)) (c : Cmd), s.dev.on = true ∧
    s.dev.mbr.entering = (ring, index, at_) :: rest ∧ s.dev.due at_ 1000000000 = true ∧ s.dev.cmd ring index = some c) ∧
    (∃ (s : State) (ring index : Nat) (c : Cmd), s.dev.on = true ∧ s.dev.cmdReady ring index 0x07 = some c ∧ mayDrain
    s.dev = true) ∧
    (∃ (s : State), s.dev.on = true ∧ s.dev.firmware = true) ∧
    (∃ (s : State), s.dev.on = true ∧ s.dev.firmware = true ∧ s.dev.mbr.drain.step = 4 ∧ s.dev.live s.dev.regs.nodeId
    = false ∧ s.dev.mbr.drain.command = none) :=
  ⟨⟨wReady 0x05 fdFields [], 0, 0, cReady 0x05 fdFields [], by decide +kernel⟩,
    ⟨wWitness 0x05 (fdSetFields), 0, 0, cReady 0x05 fdSetFields [], by decide +kernel⟩,
    ⟨wReady 0x06 [] [], 0, 0, cReady 0x06 [] [], by decide +kernel⟩,
    ⟨wWitness 0x06 [(0x10, 1, 1), (0x14, 4, 0x333)], 0, 0, cReady 0x06 [(0x10, 1, 1), (0x14, 4, 0x333)] [],
      { live := true, domain := 17 }, by decide +kernel⟩,
    ⟨wEnter, 0, 0, 0, [], cReady 0x06 [] [], by decide +kernel⟩,
    ⟨wReady 0x07 [] [], 0, 0, cReady 0x07 [] [], by decide +kernel⟩,
    ⟨wOn dB, by decide +kernel⟩,
    ⟨wOn ({ dB with mbr := { dB.mbr with drain := { step := 4 } } }), by decide +kernel⟩⟩

theorem test_w_CounterCommands :
    (∃ (s : State) (ring index : Nat) (c : Cmd), s.dev.on = true ∧ s.dev.cmdReady ring index 0x0D = some c ∧ firstFail
    (cntChecks s.dev c) = none ∧ fld c.desc 0x11 1 < 16) ∧
    (∃ (s : State) (ring index : Nat) (c : Cmd), s.dev.on = true ∧ s.dev.cmdReady ring index 0x0E = some c ∧ fld
    c.desc 0x14 4 = 0 ∧ s.dev.cnt.snap = none) ∧
    (∃ (s : State) (ring index : Nat) (c : Cmd), s.dev.on = true ∧ s.dev.cmdReady ring index 0x0E = some c ∧ fld
    c.desc 0x14 4 = 1 ∧ s.dev.cnt.snap = none ∧ s.dev.cnt.frozen = false) ∧
    (∃ (s : State) (ring index : Nat) (c : Cmd), s.dev.on = true ∧ s.dev.cmdReady ring index 0x0E = some c ∧ fld
    c.desc 0x14 4 = 2 ∧ s.dev.cnt.snap = none ∧ s.dev.cnt.frozen = true) ∧
    (∃ (s : State) (die : Nat) (p : Snapshot), s.dev.on = true ∧ s.dev.cnt.snap = some p ∧ p.target ≤ s.dev.now ∧
    bitOf p.mask die = true ∧ die < 31 ∧ tfind p.got die = none ∧ (((bitIdx 32 p.mask).all fun n => (tfind (tins p.got
    die (dieRecord s.dev p.target die ++ [])) n).isSome) = false)) :=
  ⟨⟨wReady 0x0D [(0x10, 1, 3), (0x11, 1, 2)] [], 0, 0, cReady 0x0D [(0x10, 1, 3), (0x11, 1, 2)] [],
      by decide +kernel⟩,
    ⟨wReady 0x0E [] [], 0, 0, cReady 0x0E [] [], by decide +kernel⟩,
    ⟨wReady 0x0E [(0x14, 4, 1)] [], 0, 0, cReady 0x0E [(0x14, 4, 1)] [], by decide +kernel⟩,
    ⟨wReadyOn ({ dB with cnt := { frozen := true } }) 0x0E [(0x14, 4, 2)] [], 0, 0, cReady 0x0E [(0x14, 4, 2)] [],
      by decide +kernel⟩,
    ⟨wSnap, 4, { ring := 0, index := 0, mode := 0, target := 0, mask := 0xFFFFFFFF }, by decide +kernel⟩⟩

theorem test_w_ObjectCommands :
    (∃ (s : State) (ring index : Nat) (c : Cmd), s.dev.on = true ∧ s.dev.cmdReady ring index 0x10 = some c ∧
    recordLenOk c = true ∧ firstFail (createChecks s.dev c) = none) ∧
    (∃ (s : State) (ring index : Nat) (c : Cmd) (h : HomeRec), s.dev.on = true ∧ s.dev.cmdReady ring index 0x11 = some
    c ∧ recordLenOk c = true ∧ firstFail (objIdChecks s.dev c.desc 0x10) = none ∧ s.dev.home (mkObj (cTenant c) (fld
    c.desc 0x10 4)) = some h ∧ h.isHome = true ∧ h.creating = none ∧ firstFail (recordChecks s.dev c h) = none ∧
    closesAt h.shards (readWhole c.buf).shards = none) ∧
    (∃ (s : State) (object node : Nat) (h : HomeRec), s.dev.on = true ∧ s.dev.home object = some h ∧ h.isHome = true ∧
    h.creating.isSome = true ∧ h.unacked.any (·.1 == node) = true ∧ s.dev.due h.sentAt 100000000 = true) ∧
    (∃ (s : State) (ring index : Nat) (c : Cmd), s.dev.on = true ∧ s.dev.cmdReady ring index 0x12 = some c ∧ firstFail
    (objIdChecks s.dev c.desc 0x10) = none ∧ ((s.dev.objAt (cObj c)).isSome = true ∨ (s.dev.home (cObj c)).isSome =
    true)) ∧
    (∃ (s : State) (ring index : Nat) (c : Cmd), s.dev.on = true ∧ s.dev.cmdReady ring index 0x12 = some c ∧ firstFail
    (objIdChecks s.dev c.desc 0x10) = none ∧ s.dev.objAt (cObj c) = none ∧ s.dev.home (cObj c) = none) ∧
    (∃ (s : State) (ring index : Nat) (c : Cmd), s.dev.on = true ∧ s.dev.cmdReady ring index 0x13 = some c ∧ firstFail
    ([fieldOk (decide (fld c.desc 0x18 4 ≤ 16777216)) 0x18] ++ objHeld s.dev c 0x10 ++ objHeld s.dev c 0x14) = none) ∧
    (∃ (s : State) (ring index : Nat) (c : Cmd) (f : Fork), s.dev.on = true ∧ forkAt s.dev ring index = some f ∧
    s.dev.cmd ring index = some c) ∧
    (∃ (s : State) (ring index : Nat) (c : Cmd), s.dev.on = true ∧ s.dev.cmdReady ring index 0x14 = some c ∧ fld
    c.desc 0x14 1 < 4 ∧ fld c.desc 0x15 1 ≤ 16 ∧ firstFail (objHeld s.dev c 0x10) = none) ∧
    (∃ (s : State) (ring index : Nat) (c : Cmd) (o : Obj), s.dev.on = true ∧ s.dev.cmdReady ring index 0x15 = some c ∧
    firstFail (objHeld s.dev c 0x10) = none ∧ s.dev.objAt (cObj c) = some o ∧ fullPages s.chip (cObj c) o.geom = []) ∧
    (∃ (s : State) (ring index : Nat) (c : Cmd) (o : Obj), s.dev.on = true ∧ s.dev.cmdReady ring index 0x15 = some c ∧
    firstFail (objHeld s.dev c 0x10) = none ∧ s.dev.objAt (cObj c) = some o ∧ fullPages s.chip (cObj c) o.geom ≠ []) ∧
    (∃ (s : State) (ring index : Nat) (c : Cmd), s.dev.on = true ∧ s.dev.cmd ring index = some c ∧ c.phase = .running
    ∧ fld c.desc 0 1 = 0x15 ∧ unsealed s.dev c.keys = []) ∧
    (∃ (s : State) (ring index : Nat) (c : Cmd) (h : HomeRec), s.dev.on = true ∧ s.dev.cmdReady ring index 0x16 = some
    c ∧ s.dev.home (cObj c) = some h ∧ firstFail (objIdChecks s.dev c.desc 0x10 ++ shadowChecks s.dev c h) = none) :=
  ⟨⟨cObjReady 0x10 [(0x10, 4, 6), (0x20, 4, 72)] newRecord, 0, 0,
      cReady 0x10 [(0x10, 4, 6), (0x20, 4, 72)] newRecord, by decide +kernel⟩,
    ⟨cObjReady 0x11 [(0x10, 4, 5), (0x20, 4, 72)] (recordBytes hB), 0, 0,
      cReady 0x11 [(0x10, 4, 5), (0x20, 4, 72)] (recordBytes hB), hB, by decide +kernel⟩,
    ⟨wOn ({ dObj with mbr := { dObj.mbr with homes := [(mkObj 7 5, { hB with creating := some (0, 0), unacked := [(0x111, 0)] })] } }),
      mkObj 7 5, 0x111, { hB with creating := some (0, 0), unacked := [(0x111, 0)] }, by decide +kernel⟩,
    ⟨cObjReady 0x12 [(0x10, 4, 5)] [], 0, 0, cReady 0x12 [(0x10, 4, 5)] [], by decide +kernel⟩,
    ⟨cObjReady 0x12 [(0x10, 4, 77)] [], 0, 0, cReady 0x12 [(0x10, 4, 77)] [], by decide +kernel⟩,
    ⟨wReadyOn ({ dObj with obj := { dObj.obj with objs := [(mkObj 7 5, oB), (mkObj 7 6, oB)] } }) 0x13 [(0x10, 4, 5), (0x14, 4, 6)] [],
      0, 0, cReady 0x13 [(0x10, 4, 5), (0x14, 4, 6)] [], by decide +kernel⟩,
    ⟨wReadyOn ({ dObj with obj := { dObj.obj with objs := [(mkObj 7 5, oB), (mkObj 7 6, oB)], forks := [{ ring := 0, index := 0, parent := mkObj 7 5, child := mkObj 7 6, length := 0 }] } }) 0x13 [] [],
      0, 0, cReady 0x13 [] [], { ring := 0, index := 0, parent := mkObj 7 5, child := mkObj 7 6, length := 0 },
      by decide +kernel⟩,
    ⟨cObjReady 0x14 [(0x10, 4, 5), (0x14, 1, 2)] [], 0, 0, cReady 0x14 [(0x10, 4, 5), (0x14, 1, 2)] [],
      by decide +kernel⟩,
    ⟨cObjReady 0x15 [(0x10, 4, 5)] [], 0, 0, cReady 0x15 [(0x10, 4, 5)] [], oB, by decide +kernel⟩,
    ⟨wReadyOn ({ dObj with obj := { dObj.obj with seals := [(0, [{ key := mkKey 7 5 0 0, at_ := 0 }])] } }) 0x15 [(0x10, 4, 5)] [],
      0, 0, cReady 0x15 [(0x10, 4, 5)] [], oB, by decide +kernel⟩,
    ⟨wOn (cmdIn dB { index := 0, phase := .running, desc := dsc 0x15 [], result := 2, keys := [mkKey 7 5 0 0] }), 0,
      0, { index := 0, phase := .running, desc := dsc 0x15 [], result := 2, keys := [mkKey 7 5 0 0] },
      by decide +kernel⟩,
    ⟨cObjReady 0x16 [(0x10, 4, 5), (0x18, 4, 0x111)] [], 0, 0, cReady 0x16 [(0x10, 4, 5), (0x18, 4, 0x111)] [], hB,
      by decide +kernel⟩⟩

theorem test_w_ForkCopy :
    (∃ (s : State) (ring index key : Nat) (f : Fork), s.dev.on = true ∧ ((s.dev.obj.forks.find? fun f => f.ring ==
    ring && f.index == index && f.copies.contains key) = some f) ∧ ((s.dev.row.jobs.all fun j => !(j.use == .fork key)
    || j.completed.length == jobSize j) = true) ∧ (s.dev.ownerEntry (rekey key f.parent)).tier ≠ 2 ∧ (s.dev.ownerEntry
    (rekey key f.parent)).suspect = false ∧ (s.dev.entry key).state = .absent ∧ s.dev.ready (pageDie s.dev key) =
    true) ∧
    (∃ (s : State) (ring index key : Nat), s.dev.on = true ∧ ((s.dev.obj.forks.find? fun f => f.ring == ring &&
    f.index == index && f.copies.contains key) = none)) :=
  ⟨⟨wReadyOn ({ dObj with obj := { dObj.obj with objs := [(mkObj 7 5, oB), (mkObj 7 6, oB)], pages := [(mkKey 7 5 0 0, { frame := 100, count := 2, tier := 1, state := .sealed })], forks := [{ ring := 0, index := 0, parent := mkObj 7 5, child := mkObj 7 6, length := 16, copies := [mkKey 7 6 0 0] }] } }) 0x13 [] [],
      0, 0, mkKey 7 6 0 0,
      { ring := 0, index := 0, parent := mkObj 7 5, child := mkObj 7 6, length := 16, copies := [mkKey 7 6 0 0] },
      by decide +kernel⟩,
    ⟨wOn dB, 0, 0, 0, by decide +kernel⟩⟩

theorem test_w_LoadAndInspectCommands :
    (∃ (s : State) (ring index : Nat) (c : Cmd), s.dev.on = true ∧ s.dev.cmdReady ring index 0x18 = some c ∧ firstFail
    (loadChecks s.dev c) = none ∧ fld c.desc 0x10 1 = 2 ∧ (allocArea s.dev (fld c.desc 0x12 1) (fld c.desc 0x1C 4)
    (cTenant c) (fld c.desc 0x13 1)).isSome = true) ∧
    (∃ (s : State) (ring index : Nat) (c : Cmd), s.dev.on = true ∧ s.dev.cmdReady ring index 0x18 = some c ∧ firstFail
    (loadChecks s.dev c) = none ∧ fld c.desc 0x10 1 = 2 ∧ allocArea s.dev (fld c.desc 0x12 1) (fld c.desc 0x1C 4)
    (cTenant c) (fld c.desc 0x13 1) = none) ∧
    (∃ (s : State) (ring index key frame res : Nat) (growing : Bool) (c : Cmd), s.dev.on = true ∧ s.dev.cmdReady ring
    index 0x19 = some c ∧ fld c.desc 0x10 1 = 0 ∧ loadAt s.dev c = some (key, frame, growing, res) ∧ key ≠ 0 ∧
    registered s.dev frame = false) ∧
    (∃ (s : State) (ring index frame res : Nat) (growing : Bool) (c : Cmd), s.dev.on = true ∧ s.dev.cmdReady ring
    index 0x19 = some c ∧ fld c.desc 0x10 1 = 0 ∧ loadAt s.dev c = some (0, frame, growing, res)) ∧
    (∃ (s : State) (ring index key frame res : Nat) (c : Cmd), s.dev.on = true ∧ s.dev.cmdReady ring index 0x19 = some
    c ∧ fld c.desc 0x10 1 = 1 ∧ loadAt s.dev c = some (key, frame, false, res) ∧ registered s.dev frame = false) ∧
    (∃ (s : State) (ring index key frame res : Nat) (growing : Bool) (c : Cmd), s.dev.on = true ∧ s.dev.cmdReady ring
    index 0x19 = some c ∧ fld c.desc 0x10 1 = 1 ∧ loadAt s.dev c = some (key, frame, growing, res) ∧ registered s.dev
    frame = true) ∧
    (∃ (s : State) (ring index : Nat) (c : Cmd) (o : Obj), s.dev.on = true ∧ s.dev.cmdReady ring index 0x1A = some c ∧
    fld c.desc 0x15 1 = 0 ∧ firstFail (objHeld s.dev c 0x10) = none ∧ s.dev.objAt (cObj c) = some o ∧ pageInObj o (fld
    c.desc 0x14 1) (fld c.desc 0x18 4) = true) ∧
    (∃ (s : State) (ring index : Nat) (c : Cmd), s.dev.on = true ∧ s.dev.cmdReady ring index 0x1B = some c ∧ firstFail
    (objIdChecks s.dev c.desc 0x10) = none ∧ knowsObj s.dev (cObj c) = true ∧ fld c.desc 0x28 4 = 0 ∧ ((match
    s.dev.objAt (cObj c) with | some o => holdsTail s.dev o && !(tailsRead s.dev (cObj c) o.layers) | none => false) =
    false)) ∧
    (∃ (s : State) (ring index : Nat) (c : Cmd) (h : HomeRec), s.dev.on = true ∧ s.dev.cmdReady ring index 0x1B = some
    c ∧ firstFail (objIdChecks s.dev c.desc 0x10) = none ∧ s.dev.objAt (cObj c) = none ∧ s.dev.home (cObj c) = some h
    ∧ h.isHome = true ∧ (recordBytes h).length + 4 * h.layers ≤ fld c.desc 0x28 4) :=
  ⟨⟨wReadyOn dComp 0x18 [(0x10, 1, 2), (0x1C, 4, 4)] [], 0, 0, cReady 0x18 [(0x10, 1, 2), (0x1C, 4, 4)] [],
      by decide +kernel⟩,
    ⟨wReadyOn ({ dComp with lp := {} }) 0x18 [(0x10, 1, 2), (0x1C, 4, 4)] [], 0, 0,
      cReady 0x18 [(0x10, 1, 2), (0x1C, 4, 4)] [], by decide +kernel⟩,
    ⟨wReadyOn ({ dLoad with obj := { dLoad.obj with loads := [(mkKey 7 5 0 0, 40, false, 0)] } }) 0x19 [(0x20, 8, 163840)] [],
      0, 0, mkKey 7 5 0 0, 40, 0, false, cReady 0x19 [(0x20, 8, 163840)] [], by decide +kernel⟩,
    ⟨wReadyOn dLoad 0x19 [(0x20, 8, 163840)] [], 0, 0, 40, 0, false, cReady 0x19 [(0x20, 8, 163840)] [],
      by decide +kernel⟩,
    ⟨wReadyOn dLoad 0x19 [(0x10, 1, 1), (0x20, 8, 163840)] [], 0, 0, 0, 40, 0,
      cReady 0x19 [(0x10, 1, 1), (0x20, 8, 163840)] [], by decide +kernel⟩,
    ⟨wReadyOn ({ dLoad with rma := { regs := [(0, { domain := 1, base := 0, length := 4096, read := true, write := true, tier1 := true, target := 163840 })] } }) 0x19 [(0x10, 1, 1), (0x20, 8, 163840)] [],
      0, 0, 0, 40, 0, false, cReady 0x19 [(0x10, 1, 1), (0x20, 8, 163840)] [], by decide +kernel⟩,
    ⟨cObjReady 0x1A [(0x10, 4, 5), (0x28, 4, 16)] [], 0, 0, cReady 0x1A [(0x10, 4, 5), (0x28, 4, 16)] [], oB,
      by decide +kernel⟩,
    ⟨cObjReady 0x1B [(0x10, 4, 5)] [], 0, 0, cReady 0x1B [(0x10, 4, 5)] [], by decide +kernel⟩,
    ⟨wReadyOn ({ dObj with obj := {} }) 0x1B [(0x10, 4, 5), (0x20, 8, 4096), (0x28, 4, 200)] [], 0, 0,
      cReady 0x1B [(0x10, 4, 5), (0x20, 8, 4096), (0x28, 4, 200)] [], hB, by decide +kernel⟩⟩

theorem test_w_LocalCommands :
    (∃ (s : State) (ring index : Nat) (c : Cmd), s.dev.on = true ∧ s.dev.cmdReady ring index 0x1C = some c ∧ fld c.buf
    2 2 = fld c.desc 8 2 ∧ firstFail (jobChecks s.dev c.buf (fld c.desc 0x20 4)) = none) ∧
    (∃ (s : State) (ring index : Nat) (c : Cmd), s.dev.on = true ∧ s.dev.cmdReady ring index 0x1C = some c ∧ fld c.buf
    2 2 ≠ fld c.desc 8 2) ∧
    (∃ (s : State) (ring index : Nat) (c : Cmd), s.dev.on = true ∧ s.dev.cmdReady ring index 0x1D = some c ∧ fld
    c.desc 0x10 1 = 0 ∧ fld c.buf 0 1 = 0x20 ∧ 24 ≤ fld c.desc 0x30 4) ∧
    (∃ (s : State) (ring index : Nat) (c : Cmd), s.dev.on = true ∧ s.dev.cmdReady ring index 0x1D = some c ∧ fld
    c.desc 0x10 1 = 1 ∧ fld c.buf 0 1 = 0x23) ∧
    (∃ (s : State) (ring index : Nat) (c : Cmd), s.dev.on = true ∧ s.dev.cmdReady ring index 0x1D = some c ∧ fld
    c.desc 0x10 1 = 2 ∧ fld c.buf 0 1 = 0x22 ∧ 24 ≤ fld c.desc 0x30 4) ∧
    (∃ (s : State) (ring index : Nat) (c : Cmd), s.dev.on = true ∧ s.dev.cmdReady ring index 0x1D = some c ∧ fld
    c.desc 0x10 1 = 1 ∧ fld c.buf 0 1 ≠ 0x23) :=
  ⟨⟨wReadyOn ({ dObj with lp := { dB.lp with bankOp := [(1, true)] }, obj := { dObj.obj with runs := [(runKey 1 262144, { count := 4, tenant := 7, use := .load 0 })] } }) 0x1C [(0x20, 4, 32)] fillJob,
      0, 0, cReady 0x1C [(0x20, 4, 32)] fillJob, by decide +kernel⟩,
    ⟨cObjReady 0x1C [(0x20, 4, 32)] (toLe 2 1 ++ toLe 2 8 ++ zeros 28), 0, 0,
      cReady 0x1C [(0x20, 4, 32)] (toLe 2 1 ++ toLe 2 8 ++ zeros 28), by decide +kernel⟩,
    ⟨cObjReady 0x1D [(0x30, 4, 24)] (toLe 1 0x20 ++ zeros 31), 0, 0,
      cReady 0x1D [(0x30, 4, 24)] (toLe 1 0x20 ++ zeros 31), by decide +kernel⟩,
    ⟨cObjReady 0x1D [(0x10, 1, 1)] (toLe 1 0x23 ++ zeros 95), 0, 0,
      cReady 0x1D [(0x10, 1, 1)] (toLe 1 0x23 ++ zeros 95), by decide +kernel⟩,
    ⟨cObjReady 0x1D [(0x10, 1, 2), (0x30, 4, 24)] (toLe 1 0x22 ++ zeros 11), 0, 0,
      cReady 0x1D [(0x10, 1, 2), (0x30, 4, 24)] (toLe 1 0x22 ++ zeros 11), by decide +kernel⟩,
    ⟨cObjReady 0x1D [(0x10, 1, 1)] (zeros 96), 0, 0, cReady 0x1D [(0x10, 1, 1)] (zeros 96), by decide +kernel⟩⟩

theorem test_w_RemoteMemoryCommands :
    (∃ (s : State) (ring index : Nat) (c : Cmd), s.dev.on = true ∧ s.dev.cmdReady ring index 0x20 = some c ∧ fld
    c.desc 0x12 2 < 4096 ∧ cTenant c ≠ 0 ∧ fld c.desc 0x18 8 ≠ 0 ∧ tfind s.dev.rma.domains (fld c.desc 0x12 2) = none) ∧
    (∃ (s : State) (ring index : Nat) (c : Cmd), s.dev.on = true ∧ s.dev.cmdReady ring index 0x20 = some c ∧ fld
    c.desc 0x12 2 < 4096 ∧ cTenant c ≠ 0 ∧ fld c.desc 0x18 8 = 0) ∧
    (∃ (s : State) (ring index : Nat) (c : Cmd) (m : Mdom), s.dev.on = true ∧ s.dev.cmdReady ring index 0x21 = some c
    ∧ tfind s.dev.rma.domains (fld c.desc 0x12 2) = some m ∧ m.tenant = cTenant c ∧ fld c.desc 0x18 8 ≠ 0) ∧
    (∃ (s : State) (ring index : Nat) (c : Cmd) (m : Mdom), s.dev.on = true ∧ s.dev.cmdReady ring index 0x21 = some c
    ∧ tfind s.dev.rma.domains (fld c.desc 0x12 2) = some m ∧ m.tenant ≠ cTenant c) ∧
    (∃ (s : State) (ring index : Nat) (c : Cmd) (m : Mdom), s.dev.on = true ∧ s.dev.cmdReady ring index 0x22 = some c
    ∧ tfind s.dev.rma.domains (fld c.desc 0x12 2) = some m ∧ m.tenant = cTenant c) ∧
    (∃ (s : State) (ring index : Nat) (c : Cmd) (m : Mdom), s.dev.on = true ∧ s.dev.cmdReady ring index 0x23 = some c
    ∧ tfind s.dev.rma.domains (fld c.desc 0x12 2) = some m ∧ m.tenant = cTenant c ∧ s.dev.reg (fld c.desc 0x10 2) =
    none ∧ 1 ≤ fld c.desc 0x14 1 ∧ fld c.desc 0x14 1 ≤ 3 ∧ fld c.desc 0x15 1 = 0 ∧ fld c.desc 0x18 8 % 4096 = 0 ∧ fld
    c.desc 0x20 8 % 4096 = 0 ∧ 4096 ≤ fld c.desc 0x20 8 ∧ fld c.desc 0x20 8 ≤ 2 ^ 40 ∧ fld c.desc 0x18 8 + fld c.desc
    0x20 8 ≤ 2 ^ 64 ∧ ((s.dev.rma.regs.any fun p => p.2.domain == fld c.desc 0x12 2 && decide (fld c.desc 0x18 8 <
    p.2.base + p.2.length) && decide (p.2.base < fld c.desc 0x18 8 + fld c.desc 0x20 8)) = false) ∧ fld c.desc 0x28 8
    % 4096 = 0 ∧ inHdmWindow s.dev (fld c.desc 0x28 8) (fld c.desc 0x20 8) = false) ∧
    (∃ (s : State) (ring index : Nat) (c : Cmd) (g : Registration) (m : Mdom), s.dev.on = true ∧ s.dev.cmdReady ring
    index 0x24 = some c ∧ s.dev.reg (fld c.desc 0x10 2) = some g ∧ tfind s.dev.rma.domains g.domain = some m ∧
    m.tenant = cTenant c) ∧
    (∃ (s : State) (reg : Nat) (r : Registration), s.dev.on = true ∧ s.dev.reg reg = some r ∧ r.state = .draining ∧
    r.running = 0) ∧
    (∃ (s : State) (reg : Nat) (r : Registration), s.dev.on = true ∧ s.dev.reg reg = some r ∧ r.running ≠ 0) ∧
    (∃ (s : State) (ring index : Nat) (c : Cmd), s.dev.on = true ∧ s.dev.cmdReady ring index 0x25 = some c ∧ fld
    c.desc 0x14 4 ≠ 0xFFFFFFFF ∧ fld c.desc 0x14 4 ≠ 0 ∧ (s.dev.trig (fld c.desc 0x10 2)).state = .idle) ∧
    (∃ (s : State) (ring index : Nat) (c : Cmd), s.dev.on = true ∧ s.dev.cmdReady ring index 0x25 = some c ∧ fld
    c.desc 0x14 4 = 0) ∧
    (∃ (s : State) (ring index : Nat) (c : Cmd), s.dev.on = true ∧ s.dev.cmdReady ring index 0x25 = some c ∧ fld
    c.desc 0x14 4 ≠ 0xFFFFFFFF ∧ fld c.desc 0x14 4 ≠ 0 ∧ (s.dev.trig (fld c.desc 0x10 2)).tenant = cTenant c ∧
    (s.dev.trig (fld c.desc 0x10 2)).state = .firing) ∧
    (∃ (s : State) (ring index : Nat) (c : Cmd), s.dev.on = true ∧ s.dev.cmdReady ring index 0x26 = some c ∧
    (s.dev.trig (fld c.desc 0x10 2)).tenant = cTenant c ∧ (s.dev.trig (fld c.desc 0x10 2)).state = .armed) ∧
    (∃ (s : State) (ring index : Nat) (c : Cmd), s.dev.on = true ∧ s.dev.cmdReady ring index 0x27 = some c ∧ firstFail
    (workChecks s.dev c) = none) ∧
    (∃ (s : State) (ring index : Nat) (c : Cmd), s.dev.on = true ∧ s.dev.cmdReady ring index 0x28 = some c ∧
    ((s.dev.tr.conns.any fun p => p.2.tenant == cTenant c && p.2.peer == fld c.desc 0x14 4) = false) ∧ c.result = 0) ∧
    (∃ (s : State) (ring index : Nat) (c : Cmd), s.dev.on = true ∧ s.dev.cmdReady ring index 0x28 = some c) :=
  ⟨⟨wReady 0x20 [(0x12, 2, 3), (0x18, 8, 5)] [], 0, 0, cReady 0x20 [(0x12, 2, 3), (0x18, 8, 5)] [],
      by decide +kernel⟩,
    ⟨wReady 0x20 [(0x12, 2, 3)] [], 0, 0, cReady 0x20 [(0x12, 2, 3)] [], by decide +kernel⟩,
    ⟨wReadyOn dRma 0x21 [(0x12, 2, 3), (0x18, 8, 5)] [], 0, 0, cReady 0x21 [(0x12, 2, 3), (0x18, 8, 5)] [],
      { tenant := 7, key := 0x55 }, by decide +kernel⟩,
    ⟨wReadyOn ({ dRma with rma := { domains := [(3, { tenant := 8, key := 1 })] } }) 0x21 [(0x12, 2, 3), (0x18, 8, 5)] [],
      0, 0, cReady 0x21 [(0x12, 2, 3), (0x18, 8, 5)] [], { tenant := 8, key := 1 }, by decide +kernel⟩,
    ⟨wReadyOn dRma 0x22 [(0x12, 2, 3)] [], 0, 0, cReady 0x22 [(0x12, 2, 3)] [], { tenant := 7, key := 0x55 },
      by decide +kernel⟩,
    ⟨wReadyOn dRma 0x23 [(0x10, 2, 1), (0x12, 2, 3), (0x14, 1, 3), (0x20, 8, 4096)] [], 0, 0,
      cReady 0x23 [(0x10, 2, 1), (0x12, 2, 3), (0x14, 1, 3), (0x20, 8, 4096)] [], { tenant := 7, key := 0x55 },
      by decide +kernel⟩,
    ⟨wReadyOn dRma 0x24 [(0x10, 2, 9)] [], 0, 0, cReady 0x24 [(0x10, 2, 9)] [],
      { domain := 3, base := 0x10000, length := 0x10000, read := true, write := true, tier1 := false, target := 0x700000 },
      { tenant := 7, key := 0x55 }, by decide +kernel⟩,
    ⟨wOn ({ dRma with rma := { dRma.rma with regs := [(9, { state := .draining, domain := 3, base := 0, length := 4096, read := true, write := true, tier1 := false, target := 0 })] } }),
      9,
      { state := .draining, domain := 3, base := 0, length := 4096, read := true, write := true, tier1 := false, target := 0 },
      by decide +kernel⟩,
    ⟨wOn ({ dRma with rma := { dRma.rma with regs := [(9, { state := .draining, domain := 3, base := 0, length := 4096, read := true, write := true, tier1 := false, target := 0, running := 1 })] } }),
      9,
      { state := .draining, domain := 3, base := 0, length := 4096, read := true, write := true, tier1 := false, target := 0, running := 1 },
      by decide +kernel⟩,
    ⟨wReady 0x25 [(0x10, 2, 5), (0x14, 4, 3)] [], 0, 0, cReady 0x25 [(0x10, 2, 5), (0x14, 4, 3)] [],
      by decide +kernel⟩,
    ⟨wReady 0x25 [(0x10, 2, 5)] [], 0, 0, cReady 0x25 [(0x10, 2, 5)] [], by decide +kernel⟩,
    ⟨wReadyOn ({ dB with rma := { triggers := [(5, { state := .firing, tenant := 7 })] } }) 0x25 [(0x10, 2, 5), (0x14, 4, 3)] [],
      0, 0, cReady 0x25 [(0x10, 2, 5), (0x14, 4, 3)] [], by decide +kernel⟩,
    ⟨wReadyOn ({ dB with rma := { triggers := [(5, { state := .armed, tenant := 7 })] } }) 0x26 [(0x10, 2, 5)] [], 0,
      0, cReady 0x26 [(0x10, 2, 5)] [], by decide +kernel⟩,
    ⟨wReadyOn ({ dRma with rma := { dRma.rma with triggers := [(5, { state := .armed, tenant := 7, threshold := 1 })] } }) 0x27 [] (setAt (setAt (setAt (setAt (setAt (zeros 64) 0 [2]) 2 (toLe 2 7)) 8 (toLe 2 5)) 0xA (toLe 2 9)) 0xC (toLe 4 64)),
      0, 0,
      cReady 0x27 [] (setAt (setAt (setAt (setAt (setAt (zeros 64) 0 [2]) 2 (toLe 2 7)) 8 (toLe 2 5)) 0xA (toLe 2 9)) 0xC (toLe 4 64)),
      by decide +kernel⟩,
    ⟨wReady 0x28 [(0x14, 4, 0x111)] [], 0, 0, cReady 0x28 [(0x14, 4, 0x111)] [], by decide +kernel⟩,
    ⟨wReadyOn ({ dB with tr := { dB.tr with conns := [(0, { state := .open_, tenant := 7, peer := 0x111 })] } }) 0x28 [(0x14, 4, 0x111)] [],
      0, 0, cReady 0x28 [(0x14, 4, 0x111)] [], by decide +kernel⟩⟩

theorem test_w_LinkTraining :
    (∃ (s : State) (link : Nat), s.dev.on = true ∧ link < 32 ∧ s.dev.ready (dieOfLink link) = true ∧ (s.dev.link
    link).state = .detect) ∧
    (∃ (s : State) (link : Nat), s.dev.on = true ∧ link < 32 ∧ s.dev.ready (dieOfLink link) = true ∧ (s.dev.link
    link).state = .equalise) ∧
    (∃ (s : State) (link : Nat), s.dev.on = true ∧ link < 32 ∧ s.dev.ready (dieOfLink link) = true ∧ (s.dev.link
    link).state = .align) ∧
    (∃ (s : State) (link : Nat), s.dev.on = true ∧ (s.dev.link link).state ≠ .align) ∧
    (∃ (s : State) (link : Nat), s.dev.on = true ∧ link < 32 ∧ s.dev.ready (dieOfLink link) = true ∧ (s.dev.link
    link).state = .detect ∧ (s.dev.link link).told = false ∧ (s.dev.link link).stepAt + 10000000 ≤ s.dev.now) ∧
    (∃ (s : State) (link : Nat) (payload : Bytes), s.dev.on = true ∧ link < 32 ∧ s.dev.ready (dieOfLink link) = true ∧
    (s.dev.link link).state = .identify ∧ (s.dev.link link).refused ≠ some (padTo 240 payload) ∧ partnerRefused s.dev
    (partnerOf (padTo 240 payload)) = true) ∧
    (∃ (s : State) (link : Nat) (payload : Bytes), s.dev.on = true ∧ link < 32 ∧ s.dev.ready (dieOfLink link) = true ∧
    (s.dev.link link).state = .identify ∧ (s.dev.link link).refused ≠ some (padTo 240 payload) ∧ partnerRefused s.dev
    (partnerOf (padTo 240 payload)) = false) ∧
    (∃ (s : State) (link : Nat), s.dev.on = true ∧ link < 32 ∧ s.dev.ready (dieOfLink link) = true ∧ (s.dev.link
    link).state = .identify ∧ (s.dev.link link).identAt = none) ∧
    (∃ (s : State) (link : Nat), s.dev.on = true ∧ link < 32 ∧ s.dev.ready (dieOfLink link) = true ∧ linkOverrun s.dev
    link = true ∧ (s.dev.link link).settings = false) ∧
    (∃ (s : State) (link trigger : Nat), s.dev.on = true ∧ s.dev.active link = true ∧ trigger ≠ 0 ∧ (s.dev.link
    link).retrainDue = trigger) ∧
    (∃ (s : State) (link trigger : Nat), s.dev.on = true ∧ (s.dev.link link).retrainDue ≠ trigger) ∧
    (∃ (s : State) (link : Nat), s.dev.on = true ∧ s.dev.active link = true) ∧
    (∃ (s : State) (link : Nat), s.dev.on = true ∧ link < 32 ∧ s.dev.ready (dieOfLink link) = true ∧ (s.dev.link
    link).state ≠ .disabled ∧ (s.dev.link link).state ≠ .detect) ∧
    (∃ (s : State) (connector type length power : Nat), s.dev.on = true ∧ connector < 4 ∧ s.dev.firmware = true ∧
    (type = 1 ∨ (type = 2 ∧ power ≤ 33)) ∧ length ≠ 0) ∧
    (∃ (s : State) (connector type length power : Nat), s.dev.on = true ∧ connector < 4 ∧ s.dev.firmware = true ∧
    (¬(type = 1 ∨ (type = 2 ∧ power ≤ 33)) ∨ length = 0)) ∧
    (∃ (s : State) (link : Nat), s.dev.on = true ∧ link < 32 ∧ s.dev.ready (dieOfLink link) = true ∧ ((s.dev.link
    link).state = .active ∨ (s.dev.link link).state = .identify) ∧ (s.dev.link link).hbAt + 1000 ≤ s.dev.now ∧ tget
    false s.dev.dies.beatLost (dieOfLink link) = false) ∧
    (∃ (s : State) (link : Nat), s.dev.on = true ∧ tget false s.dev.dies.beatLost (dieOfLink link) = true) ∧
    (∃ (s : State) (link : Nat), s.dev.on = true ∧ s.dev.active link = true ∧ (s.dev.link link).checkAt + 1000 ≤
    s.dev.now ∧ (s.dev.link link).rxHb ≠ (s.dev.link link).checkedHb) ∧
    (∃ (s : State) (link : Nat), s.dev.on = true ∧ s.dev.active link = true ∧ (s.dev.link link).checkAt + 1000 ≤
    s.dev.now ∧ (s.dev.link link).rxHb = (s.dev.link link).checkedHb ∧ (s.dev.link link).misses < 15) ∧
    (∃ (s : State) (link : Nat), s.dev.on = true ∧ s.dev.active link = true ∧ (s.dev.link link).checkAt + 1000 ≤
    s.dev.now ∧ (s.dev.link link).rxHb = (s.dev.link link).checkedHb ∧ 15 ≤ (s.dev.link link).misses) :=
  ⟨⟨wOn (dLink { state := .detect }), 0, by decide +kernel⟩,
    ⟨wOn (dLink { state := .equalise }), 0, by decide +kernel⟩,
    ⟨wOn (dLink { state := .align }), 0, by decide +kernel⟩,
    ⟨wOn (dLink { state := .active }), 0, by decide +kernel⟩,
    ⟨wOn (dLink { state := .detect }), 0, by decide +kernel⟩,
    ⟨wOn (dLink { state := .identify }), 0, [], by decide +kernel⟩,
    ⟨wOn (dLink { state := .identify }), 0,
      identifyPayload ({ dB with regs := { dB.regs with nodeId := 0x111 }, mbr := { dB.mbr with domain := 22 } }) 4,
      by decide +kernel⟩,
    ⟨wOn (dLink { state := .identify }), 0, by decide +kernel⟩,
    ⟨wOn (dLink { state := .align }), 0, by decide +kernel⟩,
    ⟨wOn (dLink { state := .active, retrainDue := 1 }), 0, 1, by decide +kernel⟩,
    ⟨wOn (dLink { state := .active }), 0, 3, by decide +kernel⟩,
    ⟨wOn (dLink { state := .active }), 0, by decide +kernel⟩,
    ⟨wOn (dLink { state := .active }), 0, by decide +kernel⟩,
    ⟨wOn dB, 2, 1, 3, 0, by decide +kernel⟩,
    ⟨wOn ({ dB with regs := { dB.regs with links := 0x10000 } }), 2, 2, 3, 34, by decide +kernel⟩,
    ⟨wOn (dLink { state := .active }), 0, by decide +kernel⟩,
    ⟨wOn ({ dLink { state := .active } with dies := { dB.dies with beatLost := [(16, true)] } }), 0,
      by decide +kernel⟩,
    ⟨wOn (dLink { state := .active, rxHb := 3 }), 0, by decide +kernel⟩,
    ⟨wOn (dLink { state := .active }), 0, by decide +kernel⟩,
    ⟨wOn (dLink { state := .active, misses := 15 }), 0, by decide +kernel⟩⟩

theorem test_w_FlitsAndRouting :
    (∃ (s : State) (link : Nat) (flit : Bytes) (bad : Bool), s.dev.on = true ∧ s.dev.active link = true ∧ bad = false
    ∧ flitGood flit = true) ∧
    (∃ (s : State) (link : Nat) (flit : Bytes) (bad : Bool), s.dev.on = true ∧ s.dev.active link = true ∧ bad = false
    ∧ flitGood flit = false) ∧
    (∃ (s : State) (link : Nat) (_flit : Bytes) (bad : Bool), s.dev.on = true ∧ s.dev.active link = true ∧ bad = true) ∧
    (∃ (s : State) (link : Nat), s.dev.on = true ∧ s.dev.active link = true ∧ (s.dev.link link).discarding = true ∧
    (s.dev.link link).nakAt + 100 ≤ s.dev.now) ∧
    (∃ (s : State) (link q : Nat) (rest : List Nat) (f : Nat × Bytes), s.dev.on = true ∧ s.dev.active link = true ∧
    (s.dev.link link).resend = q :: rest ∧ (s.dev.link link).replay.find? (·.1 == q) = some f) ∧
    (∃ (s : State) (link : Nat) (p : Bytes) (rest : List Bytes), s.dev.on = true ∧ s.dev.active link = true ∧
    (s.dev.link link).resend = [] ∧ 1024 ≤ (s.dev.link link).replay.length ∧ pickCand s.dev link [] = (s.dev, none) ∧
    (s.dev.link link).ctrl = p :: rest) ∧
    (∃ (s : State) (link : Nat), s.dev.on = true ∧ s.dev.active link = true ∧ (s.dev.link link).resend = [] ∧ (if
    (s.dev.link link).replay.length < 1024 then (List.range 5).flatMap (vcCands s.dev link) else []) = [] ∧ pickCand
    s.dev link [] = (s.dev, none) ∧ (s.dev.link link).ctrl = []) ∧
    (∃ (s : State) (link : Nat), s.dev.on = true ∧ s.dev.linkUp link = true ∧ (s.dev.link link).state = .align) ∧
    (∃ (s : State) (link : Nat), s.dev.on = true ∧ s.dev.linkUp link = true ∧ (s.dev.link link).state = .identify) ∧
    (∃ (s : State) (c : Cand) (g : Bool) (d : Dev) (w : HostWait), s.dev.on = true ∧ s.dev.hostUp = true ∧ pickCand
    s.dev 32 (hostCands s.dev) = (d, some (c, g)) ∧ d.hif.queue[c.id]? = some w) ∧
    (∃ (s : State) (head : Nat) (m : FMsg), s.dev.on = true ∧ ((s.dev.fab.msgs.find? fun m => m.id == head && m.route
    == .arrived) = some m) ∧ (m.inLink = none ∨ msgDest (headOf m) = s.dev.regs.nodeId ∨ transitOk m = true)) ∧
    (∃ (s : State) (head : Nat) (m : FMsg), s.dev.on = true ∧ ((s.dev.fab.msgs.find? fun m => m.id == head && m.route
    == .arrived) = some m) ∧ m.inLink.isSome = true ∧ msgDest (headOf m) ≠ s.dev.regs.nodeId ∧ transitOk m = false) ∧
    (∃ (s : State) (head : Nat) (m : FMsg), s.dev.on = true ∧ ((s.dev.fab.msgs.find? fun m => m.id == head && m.route
    == .waiting) = some m)) ∧
    (∃ (s : State) (head : Nat) (m : FMsg), s.dev.on = true ∧ ((s.dev.fab.msgs.find? fun m => m.id == head && m.route
    == .waiting) = some m) ∧ m.stamp + m.wait ≤ s.dev.now) ∧
    (∃ (s : State) (head : Nat) (m : FMsg), s.dev.on = true ∧ ((s.dev.fab.msgs.find? fun m => m.id == head && m.route
    == .waiting) = some m) ∧ s.dev.now < m.stamp + m.wait) ∧
    (∃ (s : State) (link vc : Nat) (m : FMsg), s.dev.on = true ∧ ((s.dev.fab.msgs.find? fun m => m.inLink == some link
    && m.vc == vc && m.aborted) = some m) ∧ (m.route = .here ∨ m.route = .waiting)) ∧
    (∃ (s : State) (link vc : Nat) (m : FMsg), s.dev.on = true ∧ arrivedHere s.dev link vc = some m ∧ framed m =
    false) ∧
    (∃ (s : State) (link vc : Nat) (m : FMsg), s.dev.on = true ∧ arrivedHere s.dev link vc = some m ∧ framed m = true
    ∧ searchFull s.dev link = false) ∧
    (∃ (s : State) (die teasel : Nat) (h : Held), s.dev.on = true ∧ (s.dev.tr.search.find? (fun h => dieOfLink
    h.inLink == die) = some h) ∧ searchDie s.dev die = some teasel) :=
  ⟨⟨wOn (dLink { state := .active }), 0, flitBytes {} { ftype := 0, seq := 0 }, false, by decide +kernel⟩,
    ⟨wOn (dLink { state := .active }), 0, zeros 256, false, by decide +kernel⟩,
    ⟨wOn (dLink { state := .active }), 0, [], true, by decide +kernel⟩,
    ⟨wOn (dLink { state := .active, discarding := true }), 0, by decide +kernel⟩,
    ⟨wOn (dLink { state := .active, resend := [2], replay := [(2, zeros 256)] }), 0, 2, [], (2, zeros 256),
      by decide +kernel⟩,
    ⟨wOn (dLink { state := .active, replay := List.replicate 1024 (5, []), ctrl := [[1]] }), 0, [1], [],
      by decide +kernel⟩,
    ⟨wOn (dLink { state := .active }), 0, by decide +kernel⟩,
    ⟨wOn (dLink { state := .align }), 0, by decide +kernel⟩,
    ⟨wOn (dLink { state := .identify }), 0, by decide +kernel⟩,
    ⟨wOn ({ dB with hif := { dB.hif with queue := [{ service := 2, subscriber := 0, stamp := 0, xfer := .msi 3 }] } }),
      ((pickCand ({ dB with hif := { dB.hif with queue := [{ service := 2, subscriber := 0, stamp := 0, xfer := .msi 3 }] } }) 32 (hostCands ({ dB with hif := { dB.hif with queue := [{ service := 2, subscriber := 0, stamp := 0, xfer := .msi 3 }] } }))).2.getD ({ service := 0, sub := 0, stamp := 0, charge := 0, id := 0, started := false }, false)).1,
      ((pickCand ({ dB with hif := { dB.hif with queue := [{ service := 2, subscriber := 0, stamp := 0, xfer := .msi 3 }] } }) 32 (hostCands ({ dB with hif := { dB.hif with queue := [{ service := 2, subscriber := 0, stamp := 0, xfer := .msi 3 }] } }))).2.getD ({ service := 0, sub := 0, stamp := 0, charge := 0, id := 0, started := false }, false)).2,
      (pickCand ({ dB with hif := { dB.hif with queue := [{ service := 2, subscriber := 0, stamp := 0, xfer := .msi 3 }] } }) 32 (hostCands ({ dB with hif := { dB.hif with queue := [{ service := 2, subscriber := 0, stamp := 0, xfer := .msi 3 }] } }))).1,
      { service := 2, subscriber := 0, stamp := 0, xfer := .msi 3 }, by decide +kernel⟩,
    ⟨wOn (dFab .arrived), 4, fMsg .arrived, by decide +kernel⟩,
    ⟨wOn ({ dFab .arrived with fab := { (dFab .arrived).fab with msgs := [{ fMsg .arrived with chunks := [zeros 16] }] } }),
      4, { fMsg .arrived with chunks := [zeros 16] }, by decide +kernel⟩,
    ⟨wOn (dFab .waiting), 4, fMsg .waiting, by decide +kernel⟩,
    ⟨wOn (dFab .waiting), 4, fMsg .waiting, by decide +kernel⟩,
    ⟨wOn ({ dFab .waiting with now := 5 }), 4, fMsg .waiting, by decide +kernel⟩,
    ⟨wOn ({ dFab .here with fab := { (dFab .here).fab with msgs := [{ fMsg .here with aborted := true }] } }), 0, 2,
      { fMsg .here with aborted := true }, by decide +kernel⟩,
    ⟨wOn ({ dFab .here with fab := { (dFab .here).fab with msgs := [{ fMsg .here with chunks := [[]] }] } }), 0, 2,
      { fMsg .here with chunks := [[]] }, by decide +kernel⟩,
    ⟨wOn (dFab .here), 0, 2, fMsg .here, by decide +kernel⟩,
    ⟨wOn ({ dConn cOpen with tr := { (dConn cOpen).tr with search := [{ bytes := (inb 0 [0x20]).bytes, vc := 2, conn := 3, action := 0, inLink := 0, at_ := 0 }] } }),
      16, (searchDie dB 16).getD 0,
      { bytes := (inb 0 [0x20]).bytes, vc := 2, conn := 3, action := 0, inLink := 0, at_ := 0 }, by decide +kernel⟩⟩

theorem test_w_Connections :
    (∃ (s : State) (msg : Nat) (m : Inb), s.dev.on = true ∧ s.dev.tr.inbox.find? (·.id == msg) = some m ∧ msgType
    m.bytes = 1 ∧ bodyType m.bytes = 0x10) ∧
    (∃ (s : State) (msg : Nat) (m : Inb), s.dev.on = true ∧ s.dev.tr.inbox.find? (·.id == msg) = some m ∧ msgType
    m.bytes = 1 ∧ bodyType m.bytes = 0x11 ∧ (s.dev.conn (msgDstConn m.bytes)).state ≠ .connecting) ∧
    (∃ (s : State) (msg : Nat) (m : Inb), s.dev.on = true ∧ s.dev.tr.inbox.find? (·.id == msg) = some m ∧ msgType
    m.bytes = 1 ∧ bodyType m.bytes = 0x11 ∧ ctrlOk m false = true ∧ (s.dev.conn (msgDstConn m.bytes)).state =
    .connecting ∧ msgDstGen m.bytes = connGen s.dev (msgDstConn m.bytes) ∧ (s.dev.conn (msgDstConn m.bytes)).peer =
    msgSrc m.bytes ∧ (s.dev.conn (msgDstConn m.bytes)).requestId = cbTag (msgBody m.bytes) ∧ cbStatus (msgBody
    m.bytes) = 0) ∧
    (∃ (s : State) (conn : Nat), s.dev.on = true ∧ (s.dev.conn conn).state = .connecting ∧ (s.dev.conn conn).sendAt +
    10000 ≤ s.dev.now ∧ s.dev.ready (homeDie conn) = true ∧ (s.dev.conn conn).sends < 8) ∧
    (∃ (s : State) (conn : Nat), s.dev.on = true ∧ (s.dev.conn conn).state = .connecting ∧ (s.dev.conn conn).sendAt +
    10000 ≤ s.dev.now ∧ s.dev.ready (homeDie conn) = true ∧ 8 ≤ (s.dev.conn conn).sends) ∧
    (∃ (s : State) (msg : Nat) (m : Inb), s.dev.on = true ∧ s.dev.tr.inbox.find? (·.id == msg) = some m ∧ msgType
    m.bytes = 1 ∧ bodyType m.bytes = 0x12 ∧ ctrlOk m true = true ∧ ((s.dev.conn m.conn).state = .open_ ∨ (s.dev.conn
    m.conn).state = .closing)) ∧
    (∃ (s : State) (msg : Nat) (m : Inb), s.dev.on = true ∧ s.dev.tr.inbox.find? (·.id == msg) = some m ∧ msgType
    m.bytes = 1 ∧ bodyType m.bytes = 0x12 ∧ ctrlOk m true = false) ∧
    (∃ (s : State) (msg : Nat) (m : Inb), s.dev.on = true ∧ s.dev.tr.inbox.find? (·.id == msg) = some m ∧ msgType
    m.bytes = 1 ∧ bodyType m.bytes = 0x13 ∧ (s.dev.conn m.conn).state = .closing ∧ (s.dev.conn m.conn).closeSent =
    true ∧ ctrlOk m false = true ∧ (s.dev.conn m.conn).requestId = cbTag (msgBody m.bytes) ∧ cbStatus (msgBody
    m.bytes) = 0) ∧
    (∃ (s : State) (conn : Nat), s.dev.on = true ∧ (s.dev.conn conn).state = .open_ ∧ (s.dev.conn conn).initiator =
    false ∧ (s.dev.conn conn).gotData = false ∧ (s.dev.conn conn).enteredAt + 100000000 ≤ s.dev.now) ∧
    (∃ (s : State) (conn : Nat), s.dev.on = true ∧ (s.dev.conn conn).state = .open_ ∧ (s.dev.conn conn).dataAt +
    6000000000 ≤ s.dev.now ∧ connPending s.dev conn = false) ∧
    (∃ (s : State) (conn : Nat), s.dev.on = true ∧ (s.dev.conn conn).state = .quarantine ∧ (s.dev.conn conn).enteredAt
    + 1000000 ≤ s.dev.now) ∧
    (∃ (s : State) (msg : Nat) (m : Inb), s.dev.on = true ∧ s.dev.tr.inbox.find? (·.id == msg) = some m ∧ msgType
    m.bytes = 2) ∧
    (∃ (s : State) (msg : Nat) (m : Inb), s.dev.on = true ∧ s.dev.tr.inbox.find? (·.id == msg) = some m ∧ msgType
    m.bytes = 3) ∧
    (∃ (s : State) (conn seq r : Nat) (w : TxMsg), s.dev.on = true ∧ (s.dev.conn conn).sent.find? (·.seq == seq) =
    some w ∧ w.retryAt = some r ∧ r ≤ s.dev.now ∧ connSends s.dev conn = true) ∧
    (∃ (s : State) (conn : Nat), s.dev.on = true ∧ (s.dev.conn conn).state = .open_ ∧ 0 < (s.dev.conn conn).unacked ∧
    (s.dev.conn conn).firstAt + 50 ≤ s.dev.now) ∧
    (∃ (s : State) (conn q t : Nat) (rest : List (Nat × Nat)), s.dev.on = true ∧ (s.dev.conn conn).state = .open_ ∧
    (s.dev.conn conn).above = (q, t) :: rest ∧ t + 1000 ≤ s.dev.now ∧ (s.dev.conn conn).gapNakAt = none ∧ queuedHere
    s.dev conn (s.dev.conn conn).expected = false) ∧
    (∃ (s : State) (conn : Nat) (w : TxMsg) (rest : List TxMsg), s.dev.on = true ∧ (s.dev.conn conn).sent = w :: rest
    ∧ connSends s.dev conn = true ∧ (s.dev.conn conn).timerAt + rto (s.dev.conn conn) ≤ s.dev.now ∧ (s.dev.conn
    conn).expiries < 16) ∧
    (∃ (s : State) (conn : Nat), s.dev.on = true ∧ ((s.dev.conn conn).state = .open_ ∨ (s.dev.conn conn).state =
    .closing) ∧ (s.dev.conn conn).sent ≠ [] ∧ 16 ≤ (s.dev.conn conn).expiries) ∧
    (∃ (s : State) (conn : Nat) (crcOk : Bool), s.dev.on = true ∧ s.dev.tr.fetching.contains conn = true ∧ spillUp
    s.dev = true ∧ crcOk = true ∧ cacheRoom s.dev (homeDie conn) = some s.dev) ∧
    (∃ (s : State) (conn : Nat) (crcOk : Bool), s.dev.on = true ∧ s.dev.tr.fetching.contains conn = true ∧ spillUp
    s.dev = true ∧ crcOk = false) :=
  ⟨⟨wOn (dInb {} (inb 1 ([0x10] ++ zeros 15))), 6, inb 1 ([0x10] ++ zeros 15), by decide +kernel⟩,
    ⟨wOn (dInb cOpen (inb 1 ([0x11] ++ zeros 15))), 6, inb 1 ([0x11] ++ zeros 15), by decide +kernel⟩,
    ⟨wOn dReply, 6, inb 1 ([0x11, 0, 7] ++ zeros 13), by decide +kernel, by decide +kernel, by decide +kernel,
      by decide +kernel, by decide +kernel,
    by decide +kernel, dReply_gen.symm, by decide +kernel,
      by decide +kernel, by decide +kernel⟩,
    ⟨wOn (dConn { state := .connecting, sends := 7 }), 3, by decide +kernel⟩,
    ⟨wOn (dConn { state := .connecting, sends := 8 }), 3, by decide +kernel⟩,
    ⟨wOn (dInb cOpen (inb 1 ([0x12, 0, 7] ++ zeros 13))), 6, inb 1 ([0x12, 0, 7] ++ zeros 13), by decide +kernel⟩,
    ⟨wOn (dInb cOpen (inb 1 ([0x12] ++ zeros 14 ++ [1]))), 6, inb 1 ([0x12] ++ zeros 14 ++ [1]), by decide +kernel⟩,
    ⟨wOn (dInb ({ cOpen with state := .closing, closeSent := true }) (inb 1 ([0x13, 0, 7] ++ zeros 13))), 6,
      inb 1 ([0x13, 0, 7] ++ zeros 13), by decide +kernel⟩,
    ⟨wOn (dConn cOpen), 3, by decide +kernel⟩,
    ⟨wOn ({ dConn { cOpen with initiator := true } with now := 6000000000 }), 3, by decide +kernel⟩,
    ⟨wOn (dConn { state := .quarantine, gens := 4, tenant := 7 }), 3, by decide +kernel⟩,
    ⟨wOn (dInb cOpen (inb 2 (zeros 40))), 6, inb 2 (zeros 40), by decide +kernel⟩,
    ⟨wOn (dInb cOpen (inb 3 (zeros 12))), 6, inb 3 (zeros 12), by decide +kernel⟩,
    ⟨wOn (dConn { cOpen with sent := [{ seq := 2, body := [], vc := 2, service := 3, subscriber := 1, retryAt := some 5 }] }),
      3, 2, 5, { seq := 2, body := [], vc := 2, service := 3, subscriber := 1, retryAt := some 5 }, by decide +kernel⟩,
    ⟨wOn (dConn { cOpen with unacked := 1 }), 3, by decide +kernel⟩,
    ⟨wOn (dConn { cOpen with above := [(4, 0)] }), 3, 4, 0, [], by decide +kernel⟩,
    ⟨wOn (dConn { cOpen with sent := [{ seq := 2, body := [], vc := 2, service := 3, subscriber := 1 }] }), 3,
      { seq := 2, body := [], vc := 2, service := 3, subscriber := 1 }, [], by decide +kernel⟩,
    ⟨wOn (dConn { cOpen with expiries := 16, sent := [{ seq := 2, body := [], vc := 2, service := 3, subscriber := 1 }] }),
      3, by decide +kernel⟩,
    ⟨wOn ({ dConn cOpen with regs := { dB.regs with spillValid := true }, tr := { (dConn cOpen).tr with fetching := [3], spilled := [(3, true)], cache := [] } }),
      3, true, by decide +kernel⟩,
    ⟨wOn ({ dConn cOpen with regs := { dB.regs with spillValid := true }, tr := { (dConn cOpen).tr with fetching := [3], spilled := [(3, true)], cache := [] } }),
      3, false, by decide +kernel⟩⟩

theorem test_w_AttentionAdmission :
    (∃ (s : State) (msg : Nat) (m : Inb), s.dev.on = true ∧ s.dev.msg msg 0x20 = some m) ∧
    (∃ (s : State) (msg st : Nat) (m : Inb), s.dev.on = true ∧ s.dev.msg msg 0x20 = some m ∧ m.stale = false ∧
    firstFail (reserveChecks (s.dev.take msg) (msgBody m.bytes) (senderOf m)) = some st ∧ st ≠ 0x32) ∧
    (∃ (s : State) (msg : Nat) (m : Inb), s.dev.on = true ∧ s.dev.msg msg 0x22 = some m) ∧
    (∃ (s : State) (msg : Nat) (m : Inb), s.dev.on = true ∧ s.dev.msg msg 0x21 = some m ∧ s.dev.attn.own.any
    (·.requestId == fld (msgBody m.bytes) 4 4) = false) ∧
    (∃ (s : State) (msg : Nat) (m : Inb), s.dev.on = true ∧ s.dev.msg msg 0x21 = some m ∧ s.dev.attn.own.any
    (·.requestId == fld (msgBody m.bytes) 4 4) = true ∧ fld (msgBody m.bytes) 1 1 = 0 ∧ bitOf (fld (msgBody m.bytes) 2
    1) 0 = false) ∧
    (∃ (s : State) (slot : Nat), s.dev.on = true ∧ (s.dev.slot slot).reserved = true ∧ s.dev.request slot = none ∧
    (s.dev.slot slot).guardAt = none ∧ (s.dev.slot slot).leaseAt + (s.dev.slot slot).lease ≤ s.dev.now) ∧
    (∃ (s : State) (slot g : Nat), s.dev.on = true ∧ (s.dev.slot slot).guardAt = some g ∧ s.dev.request slot = none ∧
    g + 10000000 ≤ s.dev.now) ∧
    (∃ (s : State) (slot g : Nat), s.dev.on = true ∧ (s.dev.slot slot).guardAt = some g ∧ s.dev.request slot = none ∧
    g + 10000000 ≤ s.dev.now) ∧
    (∃ (s : State) (msg : Nat) (m : Inb), s.dev.on = true ∧ s.dev.msg msg 0x23 = some m) :=
  ⟨⟨wOn (dInb cOpen (inb 0 ([0x20] ++ zeros 31))), 6, inb 0 ([0x20] ++ zeros 31), by decide +kernel⟩,
    ⟨wOn (dInb cOpen (inb 0 ([0x20, 0] ++ toLe 2 7 ++ zeros 28))), 6, 0x11, inb 0 ([0x20, 0] ++ toLe 2 7 ++ zeros 28),
      by decide +kernel⟩,
    ⟨wOn (dInb cOpen (inb 0 ([0x22] ++ zeros 11))), 6, inb 0 ([0x22] ++ zeros 11), by decide +kernel⟩,
    ⟨wOn (dInb cOpen (inb 0 ([0x21] ++ zeros 23))), 6, inb 0 ([0x21] ++ zeros 23), by decide +kernel⟩,
    ⟨wOn ({ dInb cOpen (inb 0 ([0x21] ++ zeros 23)) with attn := { own := [{ node := 0x111, requestId := 0, object := mkObj 7 5, shard := 0 }] } }),
      6, inb 0 ([0x21] ++ zeros 23), by decide +kernel⟩,
    ⟨wOn (dSlot slotB none), 0, by decide +kernel⟩,
    ⟨wOn (dSlot { slotB with guardAt := some 5 } none), 0, 5, by decide +kernel⟩,
    ⟨wOn (dSlot { slotB with guardAt := some 5 } none), 0, 5, by decide +kernel⟩,
    ⟨wOn (dInb cOpen (inb 0 ([0x23] ++ zeros 95))), 6, inb 0 ([0x23] ++ zeros 95), by decide +kernel⟩⟩

theorem test_w_AttentionEngines :
    (∃ (s : State) (slot die head : Nat) (r : Request) (c : Ctx), s.dev.on = true ∧ s.dev.request slot = some r ∧
    r.ctx die head = some c ∧ s.dev.ready die = true ∧ c.stopped = none ∧ resolveWaits s.dev r c = false) ∧
    (∃ (s : State) (slot die head : Nat) (r : Request) (c : Ctx) (page : Nat) (rest : List Nat), s.dev.on = true ∧
    s.dev.request slot = some r ∧ r.ctx die head = some c ∧ s.dev.ready die = true ∧ c.stopped = none ∧ resolveWaits
    s.dev r c = false ∧ aqBounded r.body = false ∧ c.todo = page :: rest ∧ (s.dev.entry (s.dev.ownerKey (mkKey
    (aqTenant r.body) (aqObject r.body) (aqLayer r.body) page))).state = .absent) ∧
    (∃ (s : State) (die copy : Nat) (c : Staged), s.dev.on = true ∧ s.dev.stagedAt die copy = some c ∧ c.issued =
    false ∧ s.dev.ready die = true) ∧
    (∃ (s : State) (die copy : Nat) (c : Staged), s.dev.on = true ∧ s.dev.stagedAt die copy = some c ∧ c.issued = true
    ∧ c.ready = false ∧ c.uio = false ∧ stagedWaits s.dev c = false) ∧
    (∃ (s : State) (die copy : Nat) (c : Staged), s.dev.on = true ∧ s.dev.stagedAt die copy = some c ∧ c.issued =
    false) ∧
    (∃ (s : State) (die copy cause : Nat) (c : Staged), s.dev.on = true ∧ s.dev.stagedAt die copy = some c ∧ c.issued
    = true ∧ c.ready = false ∧ c.tierFail = true ∧ stagedWaits s.dev c = false ∧ cause = 2 ∧ ¬(c.joined.isEmpty = true
    ∧ c.ahead.isNone = true)) ∧
    (∃ (s : State) (die copy slot head : Nat) (c : Staged) (r : Request) (x : Ctx) (p : Resolved), s.dev.on = true ∧
    s.dev.stagedAt die copy = some c ∧ s.dev.request slot = some r ∧ r.ctx die head = some x ∧ ((x.resolved.find? fun
    p => p.copy == some copy && !p.finished) = some p) ∧ c.ready = true ∧ s.dev.ready die = true ∧ bitOf
    s.dev.regs.arrays die = true ∧ x.stopped = none ∧ passInOrder r x p = true) ∧
    (∃ (s : State) (slot part : Nat) (r : Request) (p : Sys2Proof.Machine.Part) (c : Ctx), s.dev.on = true ∧
    s.dev.request slot = some r ∧ r.parts[part]? = some p ∧ r.ctx p.die p.head = some c ∧ aqBounded r.body = false ∧
    nodeReady c p.level p.index = true ∧ p.rows = none ∧ resultQueue s.dev p.die < resultDepth) ∧
    (∃ (s : State) (slot part : Nat) (r : Request) (p : Sys2Proof.Machine.Part) (rows : List Partial), s.dev.on = true
    ∧ s.dev.request slot = some r ∧ r.parts[part]? = some p ∧ p.rows = some rows ∧ p.handed = false) ∧
    (∃ (s : State) (slot _part : Nat), s.dev.on = true ∧ s.dev.request slot = none ∧ (s.dev.slot slot).reserved =
    true) ∧
    (∃ (s : State) (slot : Nat) (r : Request), s.dev.on = true ∧ s.dev.request slot = some r ∧ r.arrived + r.deadline
    ≤ s.dev.now) ∧
    (∃ (s : State) (slot : Nat) (r : Request), s.dev.on = true ∧ s.dev.request slot = some r ∧ s.dev.now < r.arrived +
    r.deadline) ∧
    (∃ (s : State) (slot die status : Nat) (r : Request), s.dev.on = true ∧ s.dev.request slot = some r ∧ r.ctxs.any
    (·.die == die) = true ∧ errorStatus status = true) ∧
    (∃ (s : State) (msg : Nat) (m : Inb), s.dev.on = true ∧ s.dev.msg msg 0x24 = some m ∧ tagFiring s.dev (fld
    (msgBody m.bytes) 0x24 4) = false) :=
  ⟨⟨wOn (dSlot slotB (some reqB)), 0, 0, 0, reqB, ctxB, by decide +kernel⟩,
    ⟨wOn (dSlot slotB (some { reqB with ctxs := [{ ctxB with todo := [1] }] })), 0, 0, 0,
      { reqB with ctxs := [{ ctxB with todo := [1] }] }, { ctxB with todo := [1] }, 1, [], by decide +kernel⟩,
    ⟨wOn (dStaged stagedB), 0, 2, stagedB, by decide +kernel⟩,
    ⟨wOn (dStaged { stagedB with issued := true }), 0, 2, { stagedB with issued := true }, by decide +kernel⟩,
    ⟨wOn (dStaged stagedB), 0, 2, stagedB, by decide +kernel⟩,
    ⟨wOn (dStaged { stagedB with issued := true, tierFail := true, joined := [(0, 0)] }), 0, 2, 2,
      { stagedB with issued := true, tierFail := true, joined := [(0, 0)] }, by decide +kernel⟩,
    ⟨wOn ({ dSlot slotB (some { reqB with ctxs := [{ ctxB with resolved := [{ key := mkKey 7 5 0 0, page := 0, run := runKey 1 100, valid := 16, copy := some 2 }] }] }) with attn := { slots := [(0, slotB)], requests := [(0, { reqB with ctxs := [{ ctxB with resolved := [{ key := mkKey 7 5 0 0, page := 0, run := runKey 1 100, valid := 16, copy := some 2 }] }] })], staged := [{ stagedB with issued := true, ready := true }] } }),
      0, 2, 0, 0, { stagedB with issued := true, ready := true },
      { reqB with ctxs := [{ ctxB with resolved := [{ key := mkKey 7 5 0 0, page := 0, run := runKey 1 100, valid := 16, copy := some 2 }] }] },
      { ctxB with resolved := [{ key := mkKey 7 5 0 0, page := 0, run := runKey 1 100, valid := 16, copy := some 2 }] },
      { key := mkKey 7 5 0 0, page := 0, run := runKey 1 100, valid := 16, copy := some 2 }, by decide +kernel⟩,
    ⟨wOn (dSlot slotB (some reqB)), 0, 0, reqB, { die := 0, head := 0, level := 0, index := 0 }, ctxB,
      by decide +kernel⟩,
    ⟨wOn (dSlot slotB (some { reqB with parts := [{ die := 0, head := 0, level := 0, index := 0, rows := some [] }] })),
      0, 0, { reqB with parts := [{ die := 0, head := 0, level := 0, index := 0, rows := some [] }] },
      { die := 0, head := 0, level := 0, index := 0, rows := some [] }, [], by decide +kernel⟩,
    ⟨wOn (dSlot slotB none), 0, 0, by decide +kernel⟩,
    ⟨wOn (dSlot slotB (some reqB)), 0, reqB, by decide +kernel⟩,
    ⟨wOn ({ dSlot slotB (some reqB) with now := 999 }), 0, reqB, by decide +kernel⟩,
    ⟨wOn (dSlot slotB (some reqB)), 0, 0, 0x43, reqB, by decide +kernel⟩,
    ⟨wOn (dInb cOpen (inb 0 ([0x24] ++ zeros 63))), 6, inb 0 ([0x24] ++ zeros 63), by decide +kernel⟩⟩

theorem test_w_Appends :
    (∃ (s : State) (msg : Nat) (m : Inb), s.dev.on = true ∧ s.dev.msg msg 0x28 = some m ∧ apMirror (msgBody m.bytes) =
    false ∧ appendWaits s.dev m.bytes = false) ∧
    (∃ (s : State) (msg st : Nat) (m : Inb), s.dev.on = true ∧ s.dev.msg msg 0x28 = some m ∧ apMirror (msgBody
    m.bytes) = false ∧ appendWaits s.dev m.bytes = false ∧ m.stale = false ∧ firstFail (appendChecks (s.dev.take msg)
    (msgBody m.bytes) (senderOf m)) = some st) ∧
    (∃ (s : State) (msg : Nat) (m : Inb), s.dev.on = true ∧ s.dev.msg msg 0x28 = some m ∧ appendWaits s.dev m.bytes =
    true) ∧
    (∃ (s : State) (msg : Nat) (m : Inb), s.dev.on = true ∧ s.dev.msg msg 0x28 = some m ∧ apMirror (msgBody m.bytes) =
    true ∧ appendWaits s.dev m.bytes = false) ∧
    (∃ (s : State) (msg : Nat) (m : Inb), s.dev.on = true ∧ s.dev.msg msg 0x29 = some m) ∧
    (∃ (s : State) (ack n : Nat) (a : AckWait) (x : Shard), s.dev.on = true ∧ s.dev.attn.acks.find? (·.id == ack) =
    some a ∧ a.refused = true ∧ apShard s.dev (msgBody a.bytes) = some (n, x) ∧ otherReplica s.dev.regs.nodeId x =
    some a.mirror ∧ a.sentAt + 100000 ≤ s.dev.now) ∧
    (∃ (s : State) (held : Nat) (h : HeldAppend), s.dev.on = true ∧ s.dev.attn.held.find? (·.id == held) = some h ∧
    h.mirror = false ∧ h.arrived + apDeadline (msgBody h.bytes) ≤ s.dev.now) ∧
    (∃ (s : State) (held : Nat) (h : HeldAppend), s.dev.on = true ∧ s.dev.attn.held.find? (·.id == held) = some h ∧
    h.mirror = true) ∧
    (∃ (s : State) (held n : Nat) (h : HeldAppend) (x : Shard), s.dev.on = true ∧ s.dev.attn.held.find? (·.id == held)
    = some h ∧ h.why ≠ 3 ∧ appendWaits s.dev h.bytes = false ∧ apShard s.dev (msgBody h.bytes) = some (n, x) ∧ x.tail
    = some s.dev.regs.nodeId) ∧
    (∃ (s : State) (die : Nat) (x : Seal) (rest : List Seal), s.dev.on = true ∧ tget [] s.dev.obj.seals die = x ::
    rest ∧ s.dev.ready die = true ∧ entryBusy s.dev (s.dev.entry x.key) = false) ∧
    (∃ (s : State) (die : Nat), s.dev.on = true ∧ tget [] s.dev.obj.seals die = []) :=
  ⟨⟨wOn (dInb cOpen (inb 0 (appendBody 0))), 6, inb 0 (appendBody 0), by decide +kernel⟩,
    ⟨wOn (dInb cOpen (inb 0 (appendBody 0))), 6,
      (firstFail (appendChecks ((dInb cOpen (inb 0 (appendBody 0))).take 6) (appendBody 0) (senderOf (inb 0 (appendBody 0))))).getD 0,
      inb 0 (appendBody 0), by decide +kernel⟩,
    ⟨wOn ({ dInb cOpen (inb 0 (appendBody 0)) with obj := { dObj.obj with pages := [(mkKey 7 5 0 0, { frame := 8388608, count := 2, tier := 1, state := .growing })] }, lp := { dB.lp with bankOp := [(32, true)] }, row := { running := [(0, (0, { n := 0, op := 1, dst := 4194304, a := 0, b := 0, pattern := 0 }))] } }),
      6, inb 0 (appendBody 0), by decide +kernel⟩,
    ⟨wOn (dInb cOpen (inb 0 (appendBody 1))), 6, inb 0 (appendBody 1), by decide +kernel⟩,
    ⟨wOn (dInb cOpen (inb 0 ([0x29] ++ zeros 39))), 6, inb 0 ([0x29] ++ zeros 39), by decide +kernel⟩,
    ⟨wOn ({ dConn cOpen with obj := { dObj.obj with objs := [(mkObj 7 5, { oB with shards := [(0, { isOpen := true, primary := some 0x2E11, mirror := some 0x111, tail := some 0x2E11, state := 1 })] })] }, attn := { acks := [{ id := 4, bytes := (inb 0 (appendBody 0)).bytes, conn := 3, sub := 1, status := 0, flags := 0, mirror := 0x111, tenantObject := mkObj 7 5, shard := 0, sentAt := 0, refused := true }] } }),
      4, 0,
      { id := 4, bytes := (inb 0 (appendBody 0)).bytes, conn := 3, sub := 1, status := 0, flags := 0, mirror := 0x111, tenantObject := mkObj 7 5, shard := 0, sentAt := 0, refused := true },
      { isOpen := true, primary := some 0x2E11, mirror := some 0x111, tail := some 0x2E11, state := 1 },
      by decide +kernel⟩,
    ⟨wOn ({ dConn cOpen with attn := { held := [heldB] } }), 1, heldB, by decide +kernel⟩,
    ⟨wOn ({ dConn cOpen with attn := { held := [{ heldB with mirror := true }] } }), 1, { heldB with mirror := true },
      by decide +kernel⟩,
    ⟨wOn ({ dConn cOpen with attn := { held := [heldB] } }), 1, 0, heldB,
      { isOpen := true, primary := some 0x2E11, tail := some 0x2E11, state := 1 }, by decide +kernel⟩,
    ⟨wOn ({ dObj with obj := { dObj.obj with seals := [(0, [{ key := mkKey 7 5 0 0, at_ := 0 }])] } }), 0,
      { key := mkKey 7 5 0 0, at_ := 0 }, [], by decide +kernel⟩,
    ⟨wOn dB, 0, by decide +kernel⟩⟩

theorem test_w_RemoteMemoryMessages :
    (∃ (s : State) (msg : Nat) (m : Inb), s.dev.on = true ∧ s.dev.msg msg 0x30 = some m ∧ tagFiring s.dev (fld
    (msgBody m.bytes) 0x20 4) = false) ∧
    (∃ (s : State) (msg : Nat) (m : Inb), s.dev.on = true ∧ s.dev.msg msg 0x30 = some m ∧ tagFiring s.dev (fld
    (msgBody m.bytes) 0x20 4) = true) ∧
    (∃ (s : State) (msg : Nat) (m : Inb), s.dev.on = true ∧ s.dev.msg msg 0x31 = some m ∧ rmaReadWaits s.dev msg =
    false) ∧
    (∃ (s : State) (msg : Nat) (m : Inb), s.dev.on = true ∧ s.dev.msg msg 0x32 = some m ∧ tagFiring s.dev (fld
    (msgBody m.bytes) 0x10 4) = false) ∧
    (∃ (s : State) (work status : Nat) (x : Work), s.dev.on = true ∧ tfind s.dev.rma.work work = some x ∧ x.fired =
    true ∧ x.outcome = some status ∧ status ≠ 0) ∧
    (∃ (s : State) (work status : Nat) (x : Work), s.dev.on = true ∧ tfind s.dev.rma.work work = some x ∧ x.fired =
    true ∧ x.outcome = some status ∧ status = 0 ∧ doneWaits s.dev work x = false) :=
  ⟨⟨wOn ({ dInb cOpen (inb 0 ([0x30] ++ zeros 47)) with rma := dRma.rma }), 6, inb 0 ([0x30] ++ zeros 47),
      by decide +kernel⟩,
    ⟨wOn ({ dInb cOpen (inb 0 ([0x30] ++ zeros 31 ++ toLe 4 (2 ^ 31) ++ zeros 12)) with rma := { dRma.rma with triggers := [(0, { state := .firing, tenant := 7 })] } }),
      6, inb 0 ([0x30] ++ zeros 31 ++ toLe 4 (2 ^ 31) ++ zeros 12), by decide +kernel⟩,
    ⟨wOn (dInb cOpen (inb 0 ([0x31] ++ zeros 47))), 6, inb 0 ([0x31] ++ zeros 47), by decide +kernel⟩,
    ⟨wOn (dInb cOpen (inb 0 ([0x32] ++ zeros 31))), 6, inb 0 ([0x32] ++ zeros 31), by decide +kernel⟩,
    ⟨wOn ({ dConn cOpen with rma := { dRma.rma with work := [(1, { record := zeros 64, fired := true, outcome := some 0x43 })] } }),
      1, 0x43, { record := zeros 64, fired := true, outcome := some 0x43 }, by decide +kernel⟩,
    ⟨wOn ({ dConn cOpen with rma := { dRma.rma with work := [(1, { record := zeros 64, fired := true, outcome := some 0 })] } }),
      1, 0, { record := zeros 64, fired := true, outcome := some 0 }, by decide +kernel⟩⟩

theorem test_w_WitnessMessages :
    (∃ (s : State), s.dev.on = true ∧ s.dev.firmware = true ∧ s.dev.live s.dev.regs.nodeId = true ∧
    (s.dev.mbr.lastReport = none ∨ reportFields s.dev ≠ s.dev.mbr.reportBody)) ∧
    (∃ (s : State), s.dev.on = true ∧ s.dev.live s.dev.regs.nodeId = false) ∧
    (∃ (s : State) (msg : Nat) (m : Inb), s.dev.on = true ∧ s.dev.firmware = true ∧ s.dev.msg msg 0x40 = some m ∧
    mbBodyOk (msgBody m.bytes) = true) ∧
    (∃ (s : State) (msg : Nat) (m : Inb), s.dev.on = true ∧ s.dev.firmware = true ∧ s.dev.msg msg 0x40 = some m ∧
    mbBodyOk (msgBody m.bytes) = false) ∧
    (∃ (s : State) (node : Nat) (m : Member), s.dev.on = true ∧ s.dev.firmware = true ∧ tfind s.dev.mbr.suspected node
    = some 0 ∧ s.dev.member node = some m ∧ (partners s.dev).contains node = false ∧ m.live = true) ∧
    (∃ (s : State) (msg : Nat) (m : Inb), s.dev.on = true ∧ s.dev.firmware = true ∧ s.dev.msg msg 0x41 = some m ∧
    mbBodyOk (msgBody m.bytes) = true) ∧
    (∃ (s : State) (_domain _subject _reporter : Nat), s.dev.on = true) ∧
    (∃ (s : State) (domain _subject : Nat), s.dev.on = true ∧ s.dev.firmware = true ∧ isWitness s.dev domain = true) ∧
    (∃ (s : State) (domain since after k : Nat) (c : Change) (rest : List (Change × Nat × Nat)), s.dev.on = true ∧
    ((s.dev.domain domain).warranted.filter (fun w => changeValid s.dev domain w.1) = (c, since, after) :: rest) ∧
    witnessIndex s.dev domain = some k ∧ s.dev.firmware = true ∧ (s.dev.domain domain).proposal = none ∧ since +
    100000 * k ≤ s.dev.now ∧ after ≤ s.dev.now ∧ frozen s.dev domain = false ∧ (voters s.dev domain).contains
    s.dev.regs.nodeId = true) ∧
    (∃ (s : State) (msg : Nat) (m : Inb), s.dev.on = true ∧ s.dev.firmware = true ∧ s.dev.msg msg 0x42 = some m ∧
    mbBodyOk (msgBody m.bytes) = true) ∧
    (∃ (s : State) (msg : Nat) (m : Inb), s.dev.on = true ∧ s.dev.firmware = true ∧ s.dev.msg msg 0x43 = some m ∧
    onProbation (voteOp (s.dev.take msg) (msgSrc m.bytes) (msgBody m.bytes)) = false) ∧
    (∃ (s : State) (domain k : Nat) (p : Proposal), s.dev.on = true ∧ (s.dev.domain domain).proposal = some p ∧
    witnessIndex s.dev domain = some k ∧ p.committed = false ∧ p.at_ + 100000 ≤ s.dev.now) ∧
    (∃ (s : State) (domain g : Nat) (c : Change), s.dev.on = true ∧ (s.dev.domain domain).grant = some (c, g) ∧ g +
    1100000 ≤ s.dev.now) :=
  ⟨⟨wOn dWit, by decide +kernel⟩,
    ⟨wOn dB, by decide +kernel⟩,
    ⟨wOn (dMbr (mbBody 0x40 0 17 0 0x333 900 0 [])), 6, { inb 0 (mbBody 0x40 0 17 0 0x333 900 0 []) with vc := 0 },
      by decide +kernel⟩,
    ⟨wOn (dMbr ([0x40, 9] ++ zeros 14)), 6, { inb 0 ([0x40, 9] ++ zeros 14) with vc := 0 }, by decide +kernel⟩,
    ⟨wOn ({ dWit with mbr := { dWit.mbr with suspected := [(0x111, 0)] } }), 0x111, { live := true, domain := 22 },
      by decide +kernel⟩,
    ⟨wOn (dMbr (mbBody 0x41 0 17 0 0x333 0 0 [])), 6, { inb 0 (mbBody 0x41 0 17 0 0x333 0 0 []) with vc := 0 },
      by decide +kernel⟩,
    ⟨wOn dWit, 17, 0x333, 0x111, by decide +kernel⟩,
    ⟨wOn dWit, 17, 0x333, by decide +kernel⟩,
    ⟨wOn ({ dWit with mbr := { dWit.mbr with domains := [(17, { witnesses := [(0x2E11, 21), (0x111, 22), (0x113, 23)], warranted := [({ change := 4, subject := 0x333, epoch := 1 }, 0, 0)] })] } }),
      17, 0, 0, 0, { change := 4, subject := 0x333, epoch := 1 }, [], by decide +kernel⟩,
    ⟨wOn (dMbr (changeBody 0x42 17 (chg 4) 0)), 6, { inb 0 (changeBody 0x42 17 (chg 4) 0) with vc := 0 },
      by decide +kernel⟩,
    ⟨wOn (dMbr (changeBody 0x43 17 (chg 4) 0)), 6, { inb 0 (changeBody 0x43 17 (chg 4) 0) with vc := 0 },
      by decide +kernel⟩,
    ⟨wOn ({ dWit with mbr := { dWit.mbr with domains := [(17, { witnesses := [(0x2E11, 21), (0x111, 22), (0x113, 23)], proposal := some { change := { change := 4, subject := 0x333, epoch := 1 }, at_ := 0 } })] } }),
      17, 0, { change := { change := 4, subject := 0x333, epoch := 1 }, at_ := 0 }, by decide +kernel⟩,
    ⟨wOn ({ dWit with mbr := { dWit.mbr with domains := [(17, { witnesses := [(0x2E11, 21), (0x111, 22), (0x113, 23)], grant := some ({ change := 4, subject := 0x333, epoch := 1 }, 0) })] } }),
      17, 0, { change := 4, subject := 0x333, epoch := 1 }, by decide +kernel⟩⟩

theorem test_w_MembershipMessages :
    (∃ (s : State) (msg : Nat) (m : Inb), s.dev.on = true ∧ s.dev.firmware = true ∧ s.dev.msg msg 0x44 = some m ∧
    mbBodyOk (msgBody m.bytes) = true ∧ onProbation (updateOp (s.dev.take msg) (msgSrc m.bytes) (msgBody m.bytes)) =
    false) ∧
    (∃ (s : State) (msg : Nat) (m : Inb), s.dev.on = true ∧ s.dev.firmware = true ∧ s.dev.msg msg 0x45 = some m ∧
    mbBodyOk (msgBody m.bytes) = true) ∧
    (∃ (s : State) (msg : Nat) (m : Inb), s.dev.on = true ∧ s.dev.firmware = true ∧ s.dev.msg msg 0x46 = some m ∧
    mbBodyOk (msgBody m.bytes) = true) ∧
    (∃ (s : State), s.dev.on = true ∧ mayJoin s.dev = true ∧ s.dev.mbr.joinAt = none ∧ nodeEpoch s.dev ≠ 0) ∧
    (∃ (s : State) (domain : Nat), s.dev.on = true ∧ s.dev.firmware = true ∧ isWitness s.dev domain = true ∧ frozen
    s.dev domain = true ∧ (s.dev.domain domain).frozenAt = none) ∧
    (∃ (s : State) (domain subject : Nat), s.dev.on = true ∧ s.dev.firmware = true ∧ isWitness s.dev domain = true ∧
    isSuspected s.dev domain subject = true ∧ lastReplica s.dev domain subject = true ∧ tfind (s.dev.domain
    domain).lastReplicaAt subject = none) ∧
    (∃ (s : State) (comp : Nat), s.dev.on = true ∧ tfind s.dev.mbr.compositions comp = none) ∧
    (∃ (s : State) (comp own : Nat) (k : Composition), s.dev.on = true ∧ tfind s.dev.mbr.compositions comp = some k ∧
    s.dev.firmware = true ∧ s.dev.due k.gossipAt 10000000 = true ∧ serviceIndex s.dev comp = some own) ∧
    (∃ (s : State) (msg c : Nat) (m : Inb), s.dev.on = true ∧ s.dev.firmware = true ∧ s.dev.msg msg 0x47 = some m ∧
    mbBodyOk (msgBody m.bytes) = true ∧ compIndex (s.dev.take msg) (mbEpoch (msgBody m.bytes)) = some c) :=
  ⟨⟨wOn (dMbr (changeBody 0x44 17 (chg 4) 0)), 6, { inb 0 (changeBody 0x44 17 (chg 4) 0) with vc := 0 },
      by decide +kernel⟩,
    ⟨wOn (dMbr (mbBody 0x45 0 17 0 0 0 0 [])), 6, { inb 0 (mbBody 0x45 0 17 0 0 0 0 []) with vc := 0 },
      by decide +kernel⟩,
    ⟨wOn (dMbr (mbBody 0x46 0 17 0 0x444 0 0 [])), 6, { inb 0 (mbBody 0x46 0 17 0 0x444 0 0 []) with vc := 0 },
      by decide +kernel⟩,
    ⟨wOn ({ dB with mbr := { dB.mbr with joining := true, domains := [(17, { epoch := 3, witnesses := [(0x111, 22)] })] }, fab := { links := [(0, { state := .active, partner := some { link := 0, domain := 22, node := 0x111, fabric := 5, epoch := 0, buffers := [], kind := 0 } })] } }),
      by decide +kernel⟩,
    ⟨wOn ({ dWit with mbr := { dWit.mbr with view := [(0x2E11, { live := true, domain := 21 })] } }), 17,
      by decide +kernel⟩,
    ⟨wOn ({ dWit with now := 200000000, mbr := { dWit.mbr with domains := [(17, { witnesses := [(0x2E11, 21), (0x111, 22), (0x113, 23)], reports := [(0x333, { at_ := 0, epoch := 0, health := 900, flags := 2, neighbours := [] })] })] } }),
      17, 0x333, by decide +kernel⟩,
    ⟨wOn dB, 4, by decide +kernel⟩,
    ⟨wOn ({ dComp with attn := { services := [(2, [40])] } }), 2, 40, { id := 9, tenant := 7, slices := [0] },
      by decide +kernel⟩,
    ⟨wOn ({ dMbr (mbBody 0x47 0 17 9 0x333 0 0 [(0x333, 0, 50)]) with mbr := { (dMbr []).mbr with compositions := dComp.mbr.compositions } }),
      6, 2, { inb 0 (mbBody 0x47 0 17 9 0x333 0 0 [(0x333, 0, 50)]) with vc := 0 }, by decide +kernel⟩⟩

theorem test_w_HomeRecordMessages :
    (∃ (s : State) (msg : Nat) (m : Inb) (h : HomeRec), s.dev.on = true ∧ s.dev.msg msg 0x50 = some m ∧ m.stale =
    false ∧ fld (msgBody m.bytes) 2 2 = msgTenant m.bytes ∧ recHeadBad m.bytes = none ∧ (s.dev.take msg).home (rmObj
    (msgBody m.bytes)) = some h ∧ h.isHome = true) ∧
    (∃ (s : State) (msg : Nat) (m : Inb), s.dev.on = true ∧ s.dev.msg msg 0x50 = some m ∧ m.stale = false ∧ fld
    (msgBody m.bytes) 2 2 = msgTenant m.bytes ∧ recHeadBad m.bytes = none ∧ (s.dev.take msg).home (rmObj (msgBody
    m.bytes)) = none ∧ (s.dev.take msg).objAt (rmObj (msgBody m.bytes)) = none) ∧
    (∃ (s : State) (msg : Nat) (m : Inb), s.dev.on = true ∧ s.dev.msg msg 0x51 = some m) ∧
    (∃ (s : State) (msg : Nat) (m : Inb), s.dev.on = true ∧ s.dev.msg msg 0x52 = some m ∧ m.stale = false ∧ recHeadBad
    m.bytes = none ∧ carriedBad (s.dev.take msg) (rmObj (msgBody m.bytes)) (rmPayload (msgBody m.bytes)) (rmShard
    (msgBody m.bytes)) [(rmPayload (msgBody m.bytes)).drop 32] = none) ∧
    (∃ (s : State) (msg st : Nat) (m : Inb), s.dev.on = true ∧ s.dev.msg msg 0x52 = some m ∧ m.stale = false ∧
    recHeadBad m.bytes = none ∧ carriedBad (s.dev.take msg) (rmObj (msgBody m.bytes)) (rmPayload (msgBody m.bytes))
    (rmShard (msgBody m.bytes)) [(rmPayload (msgBody m.bytes)).drop 32] = some st) ∧
    (∃ (s : State) (msg st : Nat) (m : Inb), s.dev.on = true ∧ s.dev.msg msg 0x52 = some m ∧ m.stale = false ∧
    recHeadBad m.bytes = some st) ∧
    (∃ (s : State) (msg : Nat) (m : Inb), s.dev.on = true ∧ s.dev.msg msg 0x53 = some m) ∧
    (∃ (s : State) (object : Nat) (h : HomeRec), s.dev.on = true ∧ s.dev.home object = some h ∧ h.isHome = true) ∧
    (∃ (s : State) (object : Nat) (h : HomeRec), s.dev.on = true ∧ s.dev.home object = some h ∧ h.isHome = false ∧
    h.mirror = some s.dev.regs.nodeId ∧ s.dev.live h.home = false) ∧
    (∃ (s : State) (msg : Nat) (m : Inb) (h : HomeRec), s.dev.on = true ∧ s.dev.msg msg 0x56 = some m ∧ m.stale =
    false ∧ recHeadBad m.bytes = none ∧ (s.dev.take msg).home (rmObj (msgBody m.bytes)) = some h ∧ h.isHome = true ∧
    bitOf (rmFlags (msgBody m.bytes)) 2 = false) ∧
    (∃ (s : State) (msg : Nat) (m : Inb), s.dev.on = true ∧ s.dev.msg msg 0x54 = some m) ∧
    (∃ (s : State) (msg : Nat) (m : Inb), s.dev.on = true ∧ s.dev.msg msg 0x55 = some m) ∧
    (∃ (s : State) (object shard : Nat) (h : HomeRec) (p : Nat × Nat × Nat × Nat), s.dev.on = true ∧ s.dev.home object
    = some h ∧ h.isHome = true ∧ h.handovers.find? (·.1 == shard) = some p ∧ p.2.2.2 + 1000000 ≤ s.dev.now) ∧
    (∃ (s : State) (object shard request : Nat) (w : Shadowing) (c : Compared), s.dev.on = true ∧ tfind
    s.dev.mbr.shadowings (object * 256 + shard) = some w ∧ w.compared.find? (·.request == request) = some c ∧
    comparedWhole c = true) ∧
    (∃ (s : State) (object shard request : Nat) (w : Shadowing) (c : Compared), s.dev.on = true ∧ tfind
    s.dev.mbr.shadowings (object * 256 + shard) = some w ∧ w.compared.find? (·.request == request) = some c ∧
    comparedWhole c = false ∧ c.until_ ≤ s.dev.now) ∧
    (∃ (s : State) (msg : Nat) (m : Inb), s.dev.on = true ∧ s.dev.msg msg 0x57 = some m) ∧
    (∃ (s : State) (msg : Nat) (m : Inb) (h : HomeRec), s.dev.on = true ∧ s.dev.msg msg 0x58 = some m ∧ m.stale =
    false ∧ recHeadBad m.bytes = none ∧ (s.dev.take msg).home (rmObj (msgBody m.bytes)) = some h ∧ h.isHome = true ∧
    (h.shard (rmShard (msgBody m.bytes))).shadow ≠ some (rmNode (msgBody m.bytes))) ∧
    (∃ (s : State) (msg : Nat) (m : Inb), s.dev.on = true ∧ s.dev.msg msg 0x58 = some m) :=
  ⟨⟨wOn (dRec (recMsg 0x50 0 (mkObj 7 5) 4 0xFF 0 0 0 [])), 6, inb 0 (recMsg 0x50 0 (mkObj 7 5) 4 0xFF 0 0 0 []), hB,
      by decide +kernel⟩,
    ⟨wOn (dRec (recMsg 0x50 0 (mkObj 7 77) 4 0xFF 0 0 0 [])), 6, inb 0 (recMsg 0x50 0 (mkObj 7 77) 4 0xFF 0 0 0 []),
      by decide +kernel⟩,
    ⟨wOn (dRec (recMsg 0x51 0x20 (mkObj 7 77) 4 0xFF 0 0 0 [])), 6,
      inb 0 (recMsg 0x51 0x20 (mkObj 7 77) 4 0xFF 0 0 0 []), by decide +kernel⟩,
    ⟨wOn (dRec (recMsg 0x52 0 (mkObj 7 5) 4 0 1 0 0 ((recordBytes hB).take 72))), 6,
      inb 0 (recMsg 0x52 0 (mkObj 7 5) 4 0 1 0 0 ((recordBytes hB).take 72)), by decide +kernel⟩,
    ⟨wOn (dRec (recMsg 0x52 0 (mkObj 7 5) 4 0 1 0 0 (zeros 72))), 6,
      ((carriedBad (dRec (recMsg 0x52 0 (mkObj 7 5) 4 0 1 0 0 (zeros 72))) (mkObj 7 5) (zeros 72) 0 [zeros 40]).getD 0),
      inb 0 (recMsg 0x52 0 (mkObj 7 5) 4 0 1 0 0 (zeros 72)), by decide +kernel⟩,
    ⟨wOn (dRec ([0x52] ++ zeros 31)), 6, 0x11, inb 0 ([0x52] ++ zeros 31), by decide +kernel⟩,
    ⟨wOn (dRec ([0x53] ++ zeros 31)), 6, inb 0 ([0x53] ++ zeros 31), by decide +kernel⟩,
    ⟨wOn dObj, mkObj 7 5, hB, by decide +kernel⟩,
    ⟨wOn ({ dObj with mbr := { dObj.mbr with homes := [(mkObj 7 5, { hB with isHome := false, home := 0x999, mirror := some 0x2E11 })] } }),
      mkObj 7 5, { hB with isHome := false, home := 0x999, mirror := some 0x2E11 }, by decide +kernel⟩,
    ⟨wOn (dRec (recMsg 0x56 0 (mkObj 7 5) 4 0 1 0 0x111 [])), 6, inb 0 (recMsg 0x56 0 (mkObj 7 5) 4 0 1 0 0x111 []),
      hB, by decide +kernel⟩,
    ⟨wOn (dRec ([0x54] ++ zeros 31)), 6, inb 0 ([0x54] ++ zeros 31), by decide +kernel⟩,
    ⟨wOn (dRec ([0x55] ++ zeros 31)), 6, inb 0 ([0x55] ++ zeros 31), by decide +kernel⟩,
    ⟨wOn ({ dConn cOpen with mbr := { dObj.mbr with homes := [(mkObj 7 5, { hB with handovers := [(0, 0x111, 0, 0)] })] } }),
      mkObj 7 5, 0, { hB with handovers := [(0, 0x111, 0, 0)] }, (0, 0x111, 0, 0), by decide +kernel⟩,
    ⟨wOn (dShadow { request := 8, slot := none, until_ := 5, own := [(0, [1])], theirs := [(0, [1])], total := 1 }),
      mkObj 7 5, 0, 8,
      shadowW { request := 8, slot := none, until_ := 5, own := [(0, [1])], theirs := [(0, [1])], total := 1 },
      { request := 8, slot := none, until_ := 5, own := [(0, [1])], theirs := [(0, [1])], total := 1 },
      by decide +kernel⟩,
    ⟨wOn (dShadow { request := 8, slot := none, until_ := 5 }), mkObj 7 5, 0, 8,
      shadowW { request := 8, slot := none, until_ := 5 }, { request := 8, slot := none, until_ := 5 },
      by decide +kernel⟩,
    ⟨wOn (dRec ([0x57] ++ zeros 31)), 6, inb 0 ([0x57] ++ zeros 31), by decide +kernel⟩,
    ⟨wOn (dRec (recMsg 0x58 0 (mkObj 7 5) 4 0 1 0 0x111 [])), 6, inb 0 (recMsg 0x58 0 (mkObj 7 5) 4 0 1 0 0x111 []),
      hB, by decide +kernel⟩,
    ⟨wOn (dRec ([0x58] ++ zeros 31)), 6, inb 0 ([0x58] ++ zeros 31), by decide +kernel⟩⟩

theorem test_w_PageRecovery :
    (∃ (s : State) (msg : Nat) (m : Inb), s.dev.on = true ∧ s.dev.msg msg 0x59 = some m ∧ ((s.dev.obj.seals.any fun p
    => p.2.any (·.key == fld m.bytes 0x50 12)) = false)) ∧
    (∃ (s : State) (msg : Nat) (m : Inb), s.dev.on = true ∧ s.dev.msg msg 0x59 = some m ∧ ((s.dev.obj.seals.any fun p
    => p.2.any (·.key == fld m.bytes 0x50 12)) = true)) ∧
    (∃ (s : State) (msg key : Nat) (m : Inb) (r : Recovery), s.dev.on = true ∧ s.dev.msg msg 0x5A = some m ∧ m.stale =
    false ∧ recHeadBad m.bytes = none ∧ rmTag (msgBody m.bytes) ≠ 0 ∧ fetchedBy (s.dev.take msg) (rmTag (msgBody
    m.bytes)) = some (key, r)) ∧
    (∃ (s : State) (msg : Nat) (m : Inb), s.dev.on = true ∧ s.dev.msg msg 0x5A = some m ∧ m.stale = false ∧ recHeadBad
    m.bytes = none ∧ rmTag (msgBody m.bytes) = 0) ∧
    (∃ (s : State) (key : Nat) (r : Recovery), s.dev.on = true ∧ tfind s.dev.obj.recoveries key = some r ∧ r.active =
    true ∧ r.fetching = none ∧ r.installing = false ∧ (s.dev.entry key).suspect = true) ∧
    (∃ (s : State) (key : Nat) (r : Recovery), s.dev.on = true ∧ tfind s.dev.obj.recoveries key = some r ∧ r.active =
    true ∧ r.fetching.isSome = true ∧ r.installing = false ∧ (r.expired = true ∨ r.at_ + 100000000 ≤ s.dev.now)) ∧
    (∃ (s : State) (key : Nat) (r : Recovery), s.dev.on = true ∧ tfind s.dev.obj.recoveries key = some r ∧ r.active =
    false ∧ r.at_ + 100000000 ≤ s.dev.now) :=
  ⟨⟨wOn (dRec ([0x59] ++ zeros 43)), 6, inb 0 ([0x59] ++ zeros 43), by decide +kernel⟩,
    ⟨wOn ({ dRec ([0x59] ++ zeros 31 ++ toLe 12 (mkKey 7 5 0 0)) with obj := { dObj.obj with seals := [(0, [{ key := mkKey 7 5 0 0, at_ := 0 }])] } }),
      6, inb 0 ([0x59] ++ zeros 31 ++ toLe 12 (mkKey 7 5 0 0)), by decide +kernel⟩,
    ⟨wOn ({ dRec (recMsg 0x5A 0x20 (mkObj 7 5) 4 0 1 0 0 (zeros 12)) with obj := (dRecov { fetching := some 4 } .suspectSealed).obj }),
      6, mkKey 7 5 0 0, inb 0 (recMsg 0x5A 0x20 (mkObj 7 5) 4 0 1 0 0 (zeros 12)), { fetching := some 4 },
      by decide +kernel⟩,
    ⟨wOn (dRec (recMsg 0x5A 0 (mkObj 7 5) 0 0 1 0 0 (zeros 12))), 6,
      inb 0 (recMsg 0x5A 0 (mkObj 7 5) 0 0 1 0 0 (zeros 12)), by decide +kernel⟩,
    ⟨wOn (dRecov {} .suspectSealed), mkKey 7 5 0 0, {}, by decide +kernel⟩,
    ⟨wOn (dRecov { fetching := some 4 } .suspectSealed), mkKey 7 5 0 0, { fetching := some 4 }, by decide +kernel⟩,
    ⟨wOn (dRecov { active := false } .suspectSealed), mkKey 7 5 0 0, { active := false }, by decide +kernel⟩⟩

theorem test_w_TierAndPrefetch :
    (∃ (s : State) (die : Nat) (m : Move), s.dev.on = true ∧ s.dev.ready die = true ∧ leastRank ((dieMoves s.dev
    die).foldl noteMove s.dev) ((dieMoves ((dieMoves s.dev die).foldl noteMove s.dev) die).filter (movable ((dieMoves
    s.dev die).foldl noteMove s.dev))) = some m) ∧
    (∃ (s : State) (die : Nat), s.dev.on = true ∧ s.dev.ready die = false) ∧
    (∃ (s : State) (move f n : Nat) (m : Move), s.dev.on = true ∧ s.dev.obj.moves.find? (·.id == move) = some m ∧
    m.dst = some (2, f, n) ∧ m.arrived = true ∧ (s.dev.entry m.key).state = .sealed) ∧
    (∃ (s : State) (move tier f n : Nat) (m : Move), s.dev.on = true ∧ s.dev.obj.moves.find? (·.id == move) = some m ∧
    m.dst = some (tier, f, n) ∧ m.arrived = true ∧ (s.dev.entry m.key).state ≠ .sealed) ∧
    (∃ (s : State) (_key : Nat), s.dev.on = true) ∧
    (∃ (s : State) (move w : Nat) (m : Move), s.dev.on = true ∧ s.dev.obj.moves.find? (·.id == move) = some m ∧
    m.waitAt = some w ∧ m.told = false ∧ w + 100000001 ≤ s.dev.now) ∧
    (∃ (s : State) (die : Nat), s.dev.on = true ∧ s.dev.ready die = true ∧ demandWaiting s.dev die < 128 ∧ prefetchOut
    s.dev die < 32) ∧
    (∃ (s : State) (die : Nat), s.dev.on = true ∧ s.dev.ready die = true ∧ 128 ≤ demandWaiting s.dev die) ∧
    (∃ (s : State) (copy : Nat) (c : Copy) (b : Nat) (rest : List Nat), s.dev.on = true ∧ s.dev.obj.copies.find? (·.id
    == copy) = some c ∧ c.arrived = true ∧ c.ready = false ∧ badBursts s.dev (4096 * c.frame) (imageLen false (keyGeom
    s.chip c.key (runKey 1 c.frame)) (readTier1 s.chip (4096 * c.frame) 128) c.count) = b :: rest) ∧
    (∃ (s : State) (copy : Nat) (c : Copy), s.dev.on = true ∧ s.dev.obj.copies.find? (·.id == copy) = some c ∧
    c.arrived = false) ∧
    (∃ (s : State) (frame : Nat) (r : Run), s.dev.on = true ∧ tfind s.dev.obj.runs frame = some r ∧ r.use = .freed ∧
    r.scrubbing = false ∧ r.refs = 0 ∧ runTier frame = 1 ∧ sliceReady s.dev (runFrame frame / (48 * granFrames)) =
    true ∧ s.dev.ready (dieOfSlice (runFrame frame / (48 * granFrames))) = true) ∧
    (∃ (s : State) (frame : Nat) (r : Run), s.dev.on = true ∧ tfind s.dev.obj.runs frame = some r ∧ r.refs ≠ 0) ∧
    (∃ (s : State) (frame : Nat) (r : Run), s.dev.on = true ∧ tfind s.dev.obj.runs frame = some r ∧ r.left = true ∧
    r.refs = 0) :=
  ⟨⟨wOn dTier, 0, moveB, by decide +kernel⟩,
    ⟨wOn ({ dMove moveB with dies := {} }), 0, by decide +kernel⟩,
    ⟨wOn (dMove { moveB with dst := some (2, 9, 2), arrived := true }), 3, 9, 2,
      { moveB with dst := some (2, 9, 2), arrived := true }, by decide +kernel⟩,
    ⟨wOn ({ dMove { moveB with dst := some (2, 9, 2), arrived := true } with obj := { dObj.obj with moves := [{ moveB with dst := some (2, 9, 2), arrived := true }] } }),
      3, 2, 9, 2, { moveB with dst := some (2, 9, 2), arrived := true }, by decide +kernel⟩,
    ⟨wOn (dMove { moveB with failedAt := some 5 }), mkKey 7 5 0 0, by decide +kernel⟩,
    ⟨wOn (dMove { moveB with waitAt := some 5 }), 3, 5, { moveB with waitAt := some 5 }, by decide +kernel⟩,
    ⟨wOn dPrefetch, 0, by decide +kernel⟩,
    ⟨wOn ({ dObj with attn := { staged := List.replicate 128 stagedB } }), 0, by decide +kernel⟩,
    ⟨wOn ({ dObj with lp := { dB.lp with errors := [(128 * 40, List.replicate 36 255)] }, obj := { dObj.obj with copies := [{ id := 1, key := mkKey 7 5 0 0, srcFrame := 7, srcTier := 2, frame := 40, count := 1, arrived := true, asked := { tenantObject := mkObj 7 5, key := mkKey 7 5 0 0, stage := false, near := 0 } }] } }),
      1,
      { id := 1, key := mkKey 7 5 0 0, srcFrame := 7, srcTier := 2, frame := 40, count := 1, arrived := true, asked := { tenantObject := mkObj 7 5, key := mkKey 7 5 0 0, stage := false, near := 0 } },
      128 * 40, [], by decide +kernel⟩,
    ⟨wOn ({ dObj with obj := { dObj.obj with copies := [{ id := 1, key := mkKey 7 5 0 0, srcFrame := 7, srcTier := 2, frame := 40, count := 1, asked := { tenantObject := mkObj 7 5, key := mkKey 7 5 0 0, stage := false, near := 0 } }] } }),
      1,
      { id := 1, key := mkKey 7 5 0 0, srcFrame := 7, srcTier := 2, frame := 40, count := 1, asked := { tenantObject := mkObj 7 5, key := mkKey 7 5 0 0, stage := false, near := 0 } },
      by decide +kernel⟩,
    ⟨wOn (dRun { count := 2, tenant := 7, use := .freed }), runKey 1 100, { count := 2, tenant := 7, use := .freed },
      by decide +kernel⟩,
    ⟨wOn (dRun { count := 2, tenant := 7, use := .freed, refs := 1 }), runKey 1 100,
      { count := 2, tenant := 7, use := .freed, refs := 1 }, by decide +kernel⟩,
    ⟨wOn (dRun { count := 2, tenant := 7, use := .image 5, left := true }), runKey 1 100,
      { count := 2, tenant := 7, use := .image 5, left := true }, by decide +kernel⟩⟩

theorem test_w_RowOperations :
    (∃ (s : State) (slice : Nat) (j : Job) (o : RowOp), s.dev.on = true ∧ s.dev.ready (dieOfSlice slice) = true ∧
    slice < 64 ∧ sliceRuns s.dev slice < bankLimit s.dev slice ∧ nextOp (notePauses s.dev slice) slice = some (j, o)) ∧
    (∃ (s : State) (slice : Nat), s.dev.on = true ∧ bankLimit s.dev slice ≤ sliceRuns s.dev slice) ∧
    (∃ (s : State) (slice _bank : Nat), s.dev.on = true ∧ s.dev.ready (dieOfSlice slice) = true) ∧
    (∃ (s : State) (slice bank : Nat), s.dev.on = true ∧ tfind s.dev.row.running (16 * slice + bank) = none) ∧
    (∃ (s : State) (job ring index : Nat) (j : Job), s.dev.on = true ∧ s.dev.job job = some j ∧ j.use = .command ring
    index ∧ j.completed.length = jobSize j) :=
  ⟨⟨wOn ({ dObj with row := { jobs := [{ id := 0, use := .command 0 0, tenant := 7, entries := jobEntries 1 (fillJob.drop 16) }] } }),
      0,
      ((nextOp { dObj with row := { jobs := [{ id := 0, use := .command 0 0, tenant := 7, entries := jobEntries 1 (fillJob.drop 16) }] } } 0).getD ({ id := 0, use := .command 0 0, tenant := 7, entries := [] }, { n := 0, op := 2, dst := 131072, a := 0, b := 0, pattern := 0 })).1,
      ((nextOp { dObj with row := { jobs := [{ id := 0, use := .command 0 0, tenant := 7, entries := jobEntries 1 (fillJob.drop 16) }] } } 0).getD ({ id := 0, use := .command 0 0, tenant := 7, entries := [] }, { n := 0, op := 2, dst := 131072, a := 0, b := 0, pattern := 0 })).2,
      by decide +kernel⟩,
    ⟨wOn ({ dObj with row := { running := [(0, (0, { n := 0, op := 2, dst := 0, a := 0, b := 0, pattern := 0 }))] } }),
      0, by decide +kernel⟩,
    ⟨wOn dObj, 0, 3, by decide +kernel⟩,
    ⟨wOn dObj, 0, 3, by decide +kernel⟩,
    ⟨wOn ({ dObj with row := { jobs := [{ id := 4, use := .command 0 0, tenant := 7, entries := [] }] } }), 4, 0, 0,
      { id := 4, use := .command 0 0, tenant := 7, entries := [] }, by decide +kernel⟩⟩

theorem test_w_MemoryCommands :
    (∃ (s : State) (burst : Nat) (_error : Bytes) (_reader : Reader), s.dev.on = true ∧ 32 * burst < 3298534883328 ∧
    addrReady s.dev (32 * burst) = true) ∧
    (∃ (s : State) (burst : Nat) (_error : Bytes) (_reader : Reader), s.dev.on = true ∧ 3298534883328 ≤ 32 * burst) ∧
    (∃ (s : State) (addr : Nat) (data : Bytes) (_host : Bool), s.dev.on = true ∧ 3298534883328 < addr + data.length) ∧
    (∃ (s : State) (addr : Nat) (data : Bytes) (host : Bool), s.dev.on = true ∧ addr + data.length ≤ 3298534883328 ∧
    host = true ∧ s.dev.hdm = true ∧ s.dev.hif.cohFailed = false) ∧
    (∃ (s : State) (addr : Nat) (data : Bytes) (host : Bool), s.dev.on = true ∧ addr + data.length ≤ 3298534883328 ∧
    host = false ∧ addrReady s.dev addr = true ∧ writeBlocked s.dev addr data.length = []) ∧
    (∃ (s : State) (bank : Nat), s.dev.on = true ∧ chanUp s.dev (bankChannel bank) = true ∧ refreshDueNow s.dev bank =
    true ∧ bankBusy s.dev bank = true ∧ tget 0 s.dev.lp.owed bank < 2) ∧
    (∃ (s : State) (bank : Nat), s.dev.on = true ∧ chanUp s.dev (bankChannel bank) = true ∧ refreshDueNow s.dev bank =
    true ∧ bankBusy s.dev bank = false) ∧
    (∃ (s : State) (bank : Nat), s.dev.on = true ∧ chanUp s.dev (bankChannel bank) = true ∧ bankBusy s.dev bank =
    false) ∧
    (∃ (s : State) (bank : Nat), s.dev.on = true ∧ chanUp s.dev (bankChannel bank) = true ∧ bankBusy s.dev bank =
    true) ∧
    (∃ (s : State) (device : Nat) (celsius : Int), s.dev.on = true ∧ chanUp s.dev (device / 4) = true ∧ tget 0
    s.dev.lp.tempAt device + 100000 ≤ s.dev.now ∧ celsius ≤ 95) ∧
    (∃ (s : State) (device : Nat) (celsius : Int), s.dev.on = true ∧ chanUp s.dev (device / 4) = true ∧ tget 0
    s.dev.lp.tempAt device + 100000 ≤ s.dev.now ∧ 95 < celsius) ∧
    (∃ (s : State) (channel : Nat), s.dev.on = true ∧ chanUp s.dev channel = true ∧ tget 0 s.dev.lp.impedanceAt
    channel + 50000000 ≤ s.dev.now) ∧
    (∃ (s : State) (channel : Nat) (_celsius : Int), s.dev.on = true ∧ chanUp s.dev channel = true ∧ tget 0
    s.dev.lp.trackAt channel + 10000 ≤ s.dev.now) ∧
    (∃ (s : State) (channel : Nat) (celsius : Int), s.dev.on = true ∧ s.dev.now < tget 0 s.dev.lp.trackAt channel +
    10000 ∧ (celsius - tget 25 s.dev.lp.trackTemp channel).natAbs < 2) ∧
    (∃ (s : State) (sub : Nat), s.dev.on = true ∧ sub < 256 ∧ chanUp s.dev (sub / 2) = true ∧ tget 0
    s.dev.lp.patrolTick sub + 2000 ≤ s.dev.now ∧ isBankOp s.dev (granuleNo (patrolAddr sub (patrolFind s.dev sub
    (s.dev.obj.runs.length + 49) (tget 0 s.dev.lp.patrolAt sub)))) = false ∧ patrolWaits s.dev sub (patrolAddr sub
    (patrolFind s.dev sub (s.dev.obj.runs.length + 49) (tget 0 s.dev.lp.patrolAt sub))) = false) ∧
    (∃ (s : State) (sub : Nat), s.dev.on = true ∧ s.dev.now < tget 0 s.dev.lp.patrolTick sub + 2000) :=
  ⟨⟨wOn dB, 5, [1], .host, by decide +kernel⟩,
    ⟨wOn dB, 103079215104, [], .patrol, by decide +kernel⟩,
    ⟨wOn dB, 3298534883327, [1, 2], false, by decide +kernel⟩,
    ⟨wOn dB, 64, [1], true, by decide +kernel⟩,
    ⟨wOn dB, 64, [1], false, by decide +kernel⟩,
    ⟨wOn ({ dObj with row := { running := [(0, (0, { n := 0, op := 2, dst := 0, a := 0, b := 0, pattern := 0 }))] } }),
      16, by decide +kernel⟩,
    ⟨wOn dObj, 16, by decide +kernel⟩,
    ⟨wOn dObj, 16, by decide +kernel⟩,
    ⟨wOn ({ dObj with row := { running := [(0, (0, { n := 0, op := 2, dst := 0, a := 0, b := 0, pattern := 0 }))] } }),
      16, by decide +kernel⟩,
    ⟨wOn dB, 8, 95, by decide +kernel⟩,
    ⟨wOn dB, 8, 96, by decide +kernel⟩,
    ⟨wOn dB, 2, by decide +kernel⟩,
    ⟨wOn dB, 2, 30, by decide +kernel⟩,
    ⟨wOn ({ dB with now := 9999 }), 2, 26, by decide +kernel⟩,
    ⟨wOn dB, 4, by decide +kernel⟩,
    ⟨wOn ({ dB with now := 1999 }), 4, by decide +kernel⟩⟩

theorem test_w_MatchMaintenance :
    (∃ (s : State) (_die : Nat), s.dev.on = true ∧ s.dev.mat.ready = false) ∧
    (∃ (s : State) (die : Nat) (k : Chip), s.dev.on = true ∧ s.dev.ready die = true ∧ s.dev.mat.ready = true ∧ 28 ≤
    die ∧ die ≤ 29 ∧ tget 0 s.dev.mat.scrubAt die + 10 ≤ s.dev.now ∧ (readCopy (s.chip.onDev fun d => (count d die
    0x2420 1).onMat fun m =>
    { m with scrubNext := tput 0 m.scrubNext die ((tget 0 s.dev.mat.scrubNext die + 1) % dieEntries), scrubAt := tput 0 m.scrubAt die d.now })
    (matIndex die (tget 0 s.dev.mat.scrubNext die)) = (none, k))) ∧
    (∃ (s : State) (die : Nat) (k : Chip) (b : Bytes), s.dev.on = true ∧ s.dev.ready die = true ∧ s.dev.mat.ready =
    true ∧ 28 ≤ die ∧ die ≤ 29 ∧ tget 0 s.dev.mat.scrubAt die + 10 ≤ s.dev.now ∧ (readCopy (s.chip.onDev fun d =>
    (count d die 0x2420 1).onMat fun m =>
    { m with scrubNext := tput 0 m.scrubNext die ((tget 0 s.dev.mat.scrubNext die + 1) % dieEntries), scrubAt := tput 0 m.scrubAt die d.now })
    (matIndex die (tget 0 s.dev.mat.scrubNext die)) = (some b, k)) ∧ tfind k.dev.mat.entries (matIndex die (tget 0
    s.dev.mat.scrubNext die)) = readCopyBytes b) ∧
    (∃ (s : State) (die _failed : Nat), s.dev.on = true ∧ tget false s.dev.lp.done die = true ∧ tget 0
    s.dev.lp.readyCh die = 0 ∧ s.dev.ready die = true) :=
  ⟨⟨wOn ({ dB with mat := {} }), 28, by decide +kernel⟩,
    ⟨wOn dBadCopies, 28,
      (readCopy ((wOn dBadCopies).chip.onDev fun d => (count d 28 0x2420 1).onMat fun m => { m with scrubNext := tput 0 m.scrubNext 28 1, scrubAt := tput 0 m.scrubAt 28 d.now }) (matIndex 28 0)).2,
      by decide +kernel⟩,
    ⟨wOn dB, 28,
      (readCopy ((wOn dB).chip.onDev fun d => (count d 28 0x2420 1).onMat fun m => { m with scrubNext := tput 0 m.scrubNext 28 1, scrubAt := tput 0 m.scrubAt 28 d.now }) (matIndex 28 0)).2,
      ((readCopy ((wOn dB).chip.onDev fun d => (count d 28 0x2420 1).onMat fun m => { m with scrubNext := tput 0 m.scrubNext 28 1, scrubAt := tput 0 m.scrubAt 28 d.now }) (matIndex 28 0)).1.getD []),
      by decide +kernel⟩,
    ⟨wOn ({ dB with lp := { dB.lp with readyCh := [] } }), 3, 5, by decide +kernel⟩⟩

theorem test_w_IdleStepIsATick :
    (∃ s : State, s.pending = [] ∧ s.dev.on = true) ∧ ∃ s : State, s.pending = [] ∧ s.dev.on = false :=
  ⟨⟨State.reset, by decide⟩, ⟨{ dev := { power := { state := .off } } }, by decide⟩⟩

theorem test_w_ResetLeavesEverythingDisabled :
    ∃ (s : State) (d : Dev), d = State.reset.dev ∨ d = s.moduleReset.dev :=
  ⟨State.reset, State.reset.dev, .inl rfl⟩

theorem test_w_QueueKept :
    ∃ (i : Instr) (s t : State), exec i s = .next t :=
  ⟨.presenceDetect, State.reset, State.reset, rfl⟩

theorem test_w_UnpoweredModuleIsInert :
    ∃ (i : Instr) (s : State), powerRow i = false ∧ s.dev.on = false :=
  ⟨.romBoot, { dev := { power := { state := .off } } }, by decide⟩

theorem test_w_OnlyMissingAddressesStop :
    (∃ (i : Instr) (s : State), addressRow i = false ∧ s = State.reset) ∧ ∃ (i : Instr) (s : State), addressRow i =
    true ∧ s = State.reset :=
  ⟨⟨.romBoot, State.reset, by decide⟩, ⟨.hostHdmRead 0, State.reset, by decide⟩⟩

theorem test_w_Tier1Frame :
    ∃ (i : Instr) (s t : State), storeRow i = false ∧ resetRow i = false ∧ exec i s = .next t :=
  ⟨.presenceDetect, State.reset, State.reset, rfl, rfl, rfl⟩

theorem test_w_FlashFrame :
    ∃ (i : Instr) (s t : State), flashRow i = false ∧ exec i s = .next t :=
  ⟨.presenceDetect, State.reset, State.reset, rfl, rfl⟩

theorem test_w_MemoryStaysCanonical :
    ∃ s t : State, s.MemOk ∧ step s = .next t :=
  ⟨{ State.reset with pending := [.presenceDetect] }, State.reset, rfl, rfl⟩

theorem test_w_FusesOnlyBlow :
    ∃ s t : State, step s = .next t :=
  ⟨{ State.reset with pending := [.presenceDetect] }, State.reset, rfl⟩

theorem test_w_EngineStore :
    ∃ (s : State) (addr : Nat) (data : Bytes), s.MemOk ∧ s.dev.on = true ∧ addr + data.length ≤ 3298534883328 ∧
    addrReady s.dev addr = true ∧ filteredLines s.dev addr data.length = [] ∧ writeWaits s.dev addr data.length =
    false ∧ s.dev.lp.errors = [] :=
  ⟨wOn dB, 31, [1, 2], rfl, by decide +kernel⟩

theorem test_w_EngineStoreWaits :
    (∃ (s : State) (addr : Nat) (data : Bytes), s.dev.on = true ∧ addr + data.length ≤ 3298534883328 ∧ addrReady s.dev addr = true ∧ writeBlocked s.dev addr data.length = [] ∧ filteredLines s.dev addr data.length ≠ [])
    ∧ ∃ (s : State) (addr : Nat) (data : Bytes), s.dev.on = true ∧ addr + data.length ≤ 3298534883328 ∧ addrReady
    s.dev addr = true ∧ writeBlocked s.dev addr data.length = [] ∧ writeWaits s.dev addr data.length = true :=
  ⟨⟨wOn { dB with hif := { dB.hif with filter := [(0, [1])] } }, 64, [1, 2], by decide +kernel⟩, wOn dRowRuns, 1073741824, [1, 2], by decide +kernel⟩

theorem test_w_HostReadWaits :
    ∃ (s : State) (addr : Nat), s.dev.on = true ∧ s.dev.hdm = true ∧ s.dev.hif.cohFailed = false ∧ addr <
    3298534883328 ∧ addrReady s.dev (addr / 64 * 64) = true ∧ s.dev.hif.waiting = [] ∧
    (tget [] s.dev.hif.filter (addrDie (addr / 64 * 64))).length < 16384 ∧ rangeBusy s.dev (addr / 64 * 64) 64 = true :=
  ⟨wOn dRowRuns, 1073741824, by decide +kernel⟩

theorem test_w_RegisterReads :
    (∃ (d : Dev) (offset : Nat), regServed d offset = true ∧ offset % 8 = 0) ∧ ∃ (s : State) (v : BitVec 64), s.dev.on
    = true ∧ s.dev.bar = true ∧ s.dev.regs.lock = false ∧ regServed s.dev 0x3018 = true ∧ 10 ≤ bitsOf v.toNat 0 14 ∧
    bitsOf v.toNat 0 14 ≤ 10000 :=
  ⟨⟨dB, 0x8010, by decide +kernel⟩, wOn dB, 10000#64, by decide +kernel⟩

theorem test_w_MisplacedRegisterWrite :
    (∃ (s : State) (offset size : Nat), s.dev.on = true ∧ s.dev.bar = true ∧ offset < 0x80000 ∧ size ≠ 8) ∧ ∃
    (s : State) (offset : Nat), s.dev.on = true ∧ s.dev.bar = true ∧ offset < 0x80000 ∧ offset % 8 ≠ 0 :=
  ⟨⟨wOn dB, 0x7010, 4, by decide +kernel⟩, ⟨wOn dB, 0x7FFFF, by decide +kernel⟩⟩

theorem test_w_LowestEntryWins :
    (∃ (d : Dev) (i : Nat) (e : MEntry), matSearch d 28 0 0 0 = some (i, e)) ∧ ∃ d : Dev, matSearch d 28 0 0 0 = none :=
  ⟨⟨{ mat := { entries := [(3, { value := 0, care := 0, action := 0, prio := 0 })] } }, 3, { value := 0, care := 0, action := 0, prio := 0 }, by decide +kernel⟩, ⟨{}, by decide +kernel⟩⟩

theorem test_w_TreeNodes :
    ∃ (c : Ctx) (rows dim k i : Nat), ∀ p ∈ c.partials, p.1 / 16 / 2 ^ k = i → ∀ r < rows, p.2.getD r
    (emptyPartial dim) = emptyPartial dim :=
  ⟨{ die := 0, head := 0, todo := [], partials := [(16, [emptyPartial 64])] }, 1, 64, 0, 1, by decide +kernel⟩

theorem test_w_ScaleRefused :
    (∃ (s : State) (msg : Nat) (m : Inb), s.dev.on = true ∧ s.dev.msg msg 0x23 = some m ∧ m.stale = false ∧ firstFail (requestChecks1 (s.dev.take msg) (msgBody m.bytes) (senderOf m)) = none ∧ s.dev.request (aqSlot (msgBody m.bytes) % 65536) = none ∧ fld (msgBody m.bytes) 0x28 4 / 2 ^ 23 % 256 = 0)
    ∧ ∃ (s : State) (ring index : Nat) (c : Cmd), s.dev.on = true ∧ s.dev.cmdReady ring index 0x1D = some c ∧ fld
    c.desc 0x10 1 = 1 ∧ fld c.buf 0 1 = 0x23 ∧ firstFail
    (requestChecks1 (s.dev.onCmd ring index fun x => { x with phase := .running }) c.buf (localSender s.dev c)) = none
    ∧ s.dev.request (aqSlot c.buf % 65536) = none ∧ fld c.buf 0x28 4 / 2 ^ 23 % 256 = 255 :=
  ⟨⟨wOn (dScale (scaleMsg [0, 0, 0, 0])), 6, scaleMsg [0, 0, 0, 0], by decide +kernel, by decide +kernel, by decide +kernel,
      scale_checked (by decide +kernel) (by decide +kernel) (by decide +kernel) (by decide +kernel) (by decide +kernel)
        (slotFill_handle (by decide +kernel) (by rfl) (by rfl)) (by decide +kernel) (by decide +kernel),
      by decide +kernel, by decide +kernel⟩,
    ⟨wOn (cmdIn (dScale (scaleMsg [])) scaleCmd), 0, 0, scaleCmd, by decide +kernel, by decide +kernel, by decide +kernel,
      by decide +kernel,
      scale_checked (by decide +kernel) (by decide +kernel) (by decide +kernel) (by decide +kernel) (by decide +kernel)
        (slotFill_handle (by decide +kernel) (by rfl) (by rfl)) (by decide +kernel) (by decide +kernel),
      by decide +kernel, by decide +kernel⟩⟩

theorem test_w_PageSizeLimit :
    (∃ fmt t hkv dim layers : Nat, geomCheck fmt t hkv dim layers = none) ∧ ∃ (s : State) (ring index : Nat)
    (c : Cmd), s.dev.on = true ∧ s.dev.cmdReady ring index 0x10 = some c ∧ recordLenOk c = true ∧ firstFail
    ((createChecks s.dev c).take 5) = none ∧ (readWhole c.buf).format < 8 ∧ (readWhole c.buf).tCode ≤ 3 ∧ 1 ≤
    (readWhole c.buf).hkv ∧ (readWhole c.buf).hkv ≤ 16 ∧ (readWhole c.buf).dCode ≤ 5 ∧ 1 ≤ (readWhole c.buf).layers ∧
    (readWhole c.buf).layers ≤ 256 ∧ 262144 < Geom.raw
    ⟨(readWhole c.buf).format, (readWhole c.buf).tCode, (readWhole c.buf).hkv, (readWhole c.buf).dCode⟩ :=
  ⟨⟨0, 0, 2, 0, 2, by decide +kernel⟩,
    ⟨cObjReady 0x10 [(0x10, 4, 6), (0x20, 4, 72)] bigRecord, 0, 0, cReady 0x10 [(0x10, 4, 6), (0x20, 4, 72)] bigRecord,
      by decide +kernel⟩⟩

theorem test_w_RowResults :
    ∃ (s : State) (slice bank id : Nat) (o : RowOp) (j : Job), s.dev.on = true ∧ s.dev.ready (dieOfSlice slice) = true
    ∧ tfind s.dev.row.running (16 * slice + bank) = some (id, o) ∧ s.dev.job id = some j ∧ j.use = .command 0 0 ∧
    s.dev.hif.waiting = [] ∧ s.dev.hif.hostReads = [] ∧ o.op = 5 ∧ filteredLines s.dev (8192 * o.dst)
    (rowResult s.chip o).length = [] :=
  ⟨wOn dRowRuns, 0, 0, 4, { n := 0, op := 5, dst := 131072, a := 131072, b := 131088, pattern := 0 }, { id := 4, use := .command 0 0, tenant := 7, entries := [] }, by decide +kernel⟩

/-! ### Operand checks: for each check, a command with an operand that names nothing -/

theorem test_wf_die : (Instr.dieLost 32).wf = false := by decide
theorem test_wf_link : (Instr.flitSlot 32).wf = false := by decide
theorem test_wf_ring : (Instr.ringEnable 65).wf = false := by decide
theorem test_wf_vc : (Instr.abortFlit 0 5).wf = false := by decide
theorem test_wf_slice : (Instr.rowOpStart 64).wf = false := by decide
theorem test_wf_domain : (Instr.proposalAbandon 0).wf = false ∧ (Instr.proposalAbandon 1024).wf = false := by decide
theorem test_wf_connector : (Instr.cablePresent 4 1 0 0).wf = false := by decide
theorem test_wf_status : (Instr.workRequestComplete 0 256).wf = false := by decide
theorem test_wf_connection : (Instr.rtoExpiry 1048576).wf = false := by decide
theorem test_wf_sub_channel : (Instr.patrolRead 256).wf = false := by decide
theorem test_wf_channel : (Instr.impedanceRecal 128).wf = false := by decide
theorem test_wf_device : (Instr.deviceTempRead 512 0).wf = false := by decide
theorem test_wf_bank_of_node : (Instr.refreshDue 8192).wf = false := by decide
theorem test_wf_bank_of_device : (Instr.rowOpComplete 0 16).wf = false := by decide
theorem test_wf_compat_slot : (Instr.cntCompatSelWrite 8 0).wf = false := by decide
theorem test_wf_certificate_slot : (Instr.spdmChallenge 0 8 []).wf = false := by decide
theorem test_wf_admission_slot : (Instr.requestDeadline 6144).wf = false := by decide
theorem test_wf_flit : (Instr.flitReceive 0 [1] false).wf = false := by decide
theorem test_wf_head : (Instr.pageResolve 0 0 16).wf = false := by decide
theorem test_wf_size : (Instr.registerWrite 0 0 2).wf = false := by decide
theorem test_wf_node : (Instr.suspectSend 1048576).wf = false := by decide
theorem test_wf_partition : (Instr.holeRepair 28 2).wf = false := by decide
theorem test_wf_length : (Instr.fwStage 4294967296).wf = false := by decide
theorem test_wf_burst : (Instr.memoryReadComplete 103079215104 (zeros 36) .patrol).wf = false := by decide
theorem test_wf_pattern : (Instr.memoryReadComplete 0 [] .patrol).wf = false := by decide
theorem test_wf_line : (Instr.hostHdmWrite 0 [0] false).wf = false := by decide
theorem test_wf_line_number : (Instr.hostBirsp 51539607552).wf = false := by decide
theorem test_wf_identify : (Instr.identifyReceived 0 (List.replicate 241 0)).wf = false := by decide +kernel

/-! ### Worked examples of the spec -/

/-- spec/07_lpddr6_memory.md: the example tier-1 address, its place and its folded address. -/
theorem test_example_address :
    let a := 0x1C4C1234560
    addrSlice a = 37 ∧ addrGranule a = 35 ∧ addrRow a = 24721 ∧ addrBank a = 10 ∧ addrColumn a = 10 ∧ addrDie a = 9 ∧
      chanOfDie a = 3 ∧ addrSub a % 2 = 1 ∧ foldedAddr a = 0x1182468A := by decide

/-- R178, R179: a burst's check bytes make every syndrome zero, and one wrong symbol is corrected. -/
theorem test_one_symbol_corrected :
    eccDecode (zeros 36) = (.clean, zeros 36) ∧ eccDecode (zeros 7 ++ [0x41] ++ zeros 28) = (.corrected, zeros 36) := by
  decide +kernel

/-- spec/02_kv_objects_and_pages.md: the sizes of the K44 page and of its images, and the page of K56. -/
theorem test_example_page_sizes :
    Geom.raw ⟨2, 2, 4, 2⟩ = 65536 ∧ Geom.growing ⟨2, 2, 4, 2⟩ = 65920 ∧ Geom.growFrames ⟨2, 2, 4, 2⟩ = 17 ∧
      Geom.raw ⟨0, 2, 6, 3⟩ = 245760 := by decide

/-- Elements of the example of spec/03_attention_arithmetic.md, in units of one half. -/
def exRow (l : List Int) : List EVal := l.map fun x => .fin ⟨x, -1⟩
def exPad (l : List Int) : List EVal := exRow l ++ List.replicate 60 (.fin ⟨0, 0⟩)

def exTokens : List Token :=
  [{ k := exPad [2, 4, 2, 1], kScale := exRow [2, 2], v := exPad [2, 0, 4, -2] }, { k := exPad [4, 0, 0, 2], kScale := exRow [2, 2], v := exPad [0, 2, 2, 1] },
   { k := exPad [2, 0, 0, 2], kScale := exRow [2, 2], v := exPad [4, 0, 0, 2] }, { k := exPad [2, 0, 2, 0], kScale := exRow [2, 2], v := exPad [0, 8, -6, 0] }]

/-- spec/03_attention_arithmetic.md, Table 03-6: the partial of the example page. -/
def exPartial : Partial :=
  { m := 0x40000000, l := 0x401D413D, count := 4, bound := 0,
    o := [0x3FF504F3, 0x40000000, 0x3FA00000, 0x3F3504F3] ++ List.replicate 60 0, flags := 0 }

theorem test_example_partial : pagePartial (exPad [2, 1, -2, 4]) 0x3F000000 exTokens = exPartial := by decide +kernel

/-- spec/03_attention_arithmetic.md: the merge of the example page with the next one. -/
theorem test_example_merge :
    mergePartial exPartial { m := 0x40400000, l := 0x3F800000, count := 4, bound := 0, o := 0x3F800000 :: List.replicate 63 0, flags := 0 } =
      { m := 0x40400000, l := 0x400EA09E, count := 8, bound := 0,
        o := [0x3FFA827A, 0x3F800000, 0x3F200000, 0x3EB504F3] ++ List.replicate 60 0, flags := 0 } := by decide +kernel

/-- A plane with the proportions of Table 05-5. -/
def exPlane : Bytes :=
  List.replicate 16 0x00 ++ List.replicate 8 0x38 ++ List.replicate 4 0xB8 ++ [0x30, 0x30, 0x40, 0xB0]

/-- spec/05_page_compression.md, Table 05-5: the code lengths and the code table's bytes. -/
theorem test_example_code :
    let t := codeTable (codeLengths exPlane)
    t.length = 128 ∧ t[0]? = some 0x01 ∧ t[24]? = some 0x04 ∧ t[28]? = some 0x02 ∧ t[32]? = some 0x05 ∧ t[88]? = some 0x05 ∧
      t[92]? = some 0x03 ∧ (t.filter (· ≠ 0)).length = 6 := by decide +kernel

/-- spec/05_page_compression.md: the first byte of the example segment, from plane bytes 38 00 B8 40 00 00. -/
theorem test_example_segment :
    let codes := codeBits (codeLengths exPlane)
    (packBits 2 (([0x38, 0x00, 0xB8, 0x40, 0x00, 0x00] : List Nat).flatMap (tget [] codes))).head? = some 0xD9 := by decide +kernel

/-- spec/10_fabric_links.md: the route header after its first hop. -/
theorem test_example_hop :
    stampHop false [0x11, 0x2E, 0x00, 0x00, 0x05, 0x2A, 0xA0, 0x01] = [0x11, 0x2E, 0x10, 0x00, 0x05, 0x2A, 0xA0, 0x01] := by
  decide +kernel

/-- spec/09_associative_match.md: the fields of the example rule's ACTION. -/
theorem test_example_action :
    actionAdmit 0x4025601648000000 = true ∧ actionComposition 0x4025601648000000 = 9 := by decide +kernel

/-- spec/12_traffic_scheduling.md, Table 12-6: policer 37 before request 7, at tick 109, and 90 ticks after request 8. -/
def dPolice (now : Nat) : Dev :=
  { now := now, fab := { policers := [(37, { enable := true, rate := 2000, burst := 64, bucket := { tokens := 745200, at_ := 91 } })] } }

theorem test_example_policer :
    (police (dPolice 109) 37 9984).1 = false ∧ (police (dPolice 218) 37 9984).1 = true := by decide +kernel

/-- spec/14_host_interface.md: the phase bits of completion indices 0x2FF and 0x300 of a ring of 128 entries. -/
theorem test_example_phase : phaseBit 0x2FF 128 = 0 ∧ phaseBit 0x300 128 = 1 := by decide

/-- spec/17_power_thermal_and_hot_plug.md, Table 17-5: the core voltage under a cap of 300 W. -/
theorem test_example_cap :
    [367, 338, 311, 284, 289, 294].foldl (fun v p => v * 1000 + nextVc p 300 (v % 1000) 850) 750 =
      750725700675680685685 := by decide

/-- Table 19-12: the multirecord has 56 bytes. -/
theorem test_fru_length : ({} : Nonvolatile).fru.length = 56 := by decide

/-- Table 21-2: GLB_ID of a stepping-B part. -/
theorem test_glb_id : regRead dB 0 = 0x000230721F8A0001 := by decide +kernel

/-- R10, Table 21-19: PWR_CAP reads back what it was clamped to. -/
theorem test_pwr_cap_reads_clamp : regRead (pwrCapOp dB 1000) 0x8000 = 400 := by decide +kernel

/-- R219: a store into the subarray of a running row operation waits. -/
theorem test_store_waits_for_row : writeWaits dRowRuns 1073741824 2 = true := by decide +kernel

/-- SHA-256 of "abc", the published example of the algorithm (log entry 7). -/
theorem test_sha256 : sha256 [0x61, 0x62, 0x63] =
    [0xba, 0x78, 0x16, 0xbf, 0x8f, 0x01, 0xcf, 0xea, 0x41, 0x41, 0x40, 0xde, 0x5d, 0xae, 0x22, 0x23,
     0xb0, 0x03, 0x61, 0xa3, 0x96, 0x17, 0x7a, 0x9c, 0xb4, 0x10, 0xff, 0x61, 0xf2, 0x00, 0x15, 0xad] := by decide +kernel

end Sys2Proof.Machine
end

section
/-! The setup registers: after reset every function is off (R9), a misplaced write only logs an event (R11), and what
a read returns (R6, R10, R526). -/

namespace Sys2Proof.Machine

/-! ### After reset -/

/-- The groups of the block that R9 speaks of are as at power-good. -/
structure AtReset (d : Dev) : Prop where
  fab : d.fab = {}
  lp : d.lp = {}
  regs : d.regs = {}
  mat : d.mat = {}
  hif : d.hif = {}

theorem atReset_reset : AtReset State.reset.dev := ⟨rfl, rfl, rfl, rfl, rfl⟩

theorem atReset_moduleReset (s : State) : AtReset s.moduleReset.dev := ⟨rfl, rfl, rfl, rfl, rfl⟩

theorem AtReset.link_state {d : Dev} (h : AtReset d) (n : Nat) : (d.link n).state = .disabled := by
  rw [Dev.link, h.fab]; rfl

theorem AtReset.ring_state {d : Dev} (h : AtReset d) (n : Nat) : (d.ring n).state = .disabled := by
  rw [Dev.ring, h.hif]; rfl

theorem AtReset.hdm {d : Dev} (h : AtReset d) : d.hdm = false := by
  simp [Dev.hdm, h.hif]

/-- Settles O37: both resets put the groups concerned at their values of power-good. -/
theorem resetLeavesEverythingDisabled : Obligations.ResetLeavesEverythingDisabled := by
  unfold Obligations.ResetLeavesEverythingDisabled
  intro s d hd
  have h : AtReset d := by
    rcases hd with rfl | rfl
    · exact atReset_reset
    · exact atReset_moduleReset s
  refine ⟨h.link_state, fun die => ?_, ?_, ?_, h.ring_state⟩
  · rw [h.lp]; exact ⟨rfl, rfl, rfl⟩
  · rw [h.regs, h.mat]; exact ⟨rfl, rfl, rfl, rfl, rfl⟩
  · rw [h.hif]; exact ⟨rfl, rfl, rfl, h.hdm⟩

/-! ### Events and register writes -/

/-- An event is recorded in the event group alone. -/
theorem logFull_regs (d : Dev) (code die tenant status eflags : Nat) (data : Bytes) :
    (logFull d code die tenant status eflags data).regs = d.regs := by
  unfold logFull
  extract_lets
  split_ifs <;> rfl

theorem logEv_regs (d : Dev) (code die : Nat) (data : Bytes) : (logEv d code die data).regs = d.regs :=
  logFull_regs d code die 0 0 0 data

/-- REGISTER_WRITE at a served offset of the setup part, but for the mailbox command at 0x7010. -/
theorem execRegisterWrite_served {s : State} {offset size : Nat} {value : BitVec 64} (hon : s.dev.on = true)
    (hbar : s.dev.bar = true) (hoff : offset < 0x80000) (hmbox : ¬ (size = 8 ∧ offset = 0x7010)) :
    execRegisterWrite offset value size s = .next (s.withDev
      (if size ≠ 8 ∨ offset % 8 ≠ 0 then regIgnored s.dev offset size else regWriteOp s.dev offset value.toNat)) := by
  have hserved : (s.dev.bar && decide (offset < 0x80000)) = true := by simp [hbar, hoff]
  rw [execRegisterWrite, if_neg hmbox, State.act_on hon, Dev.when, if_pos hserved]
  rfl

/-- Settles O50: such a write takes the branch of an ignored write, which is an event. -/
theorem misplacedRegisterWrite : Obligations.MisplacedRegisterWrite := by
  unfold Obligations.MisplacedRegisterWrite
  intro s offset size value hon hbar hoff hbad
  have hmbox : ¬ (size = 8 ∧ offset = 0x7010) := by omega
  refine ⟨?_, logEv_regs _ _ _ _⟩
  rw [exec_registerWrite, execRegisterWrite_served hon hbar hoff hmbox, if_pos hbad]
  rfl

/-! ### The value of a register from its fields -/

/-- Fields listed from the top down: each lies above all that follow. -/
def Stacked (fs : List RegField) : Prop := fs.Pairwise fun f g => g.lo + g.width ≤ f.lo

theorem regPack_cons (f : RegField) (fs : List RegField) :
    regPack (f :: fs) = 2 ^ f.lo * (f.value % 2 ^ f.width) + regPack fs := by
  simp [regPack, Nat.mul_comm]

/-- Stacked fields below a bit give a value below its weight. -/
theorem regPack_lt {fs : List RegField} {n : Nat} (hs : Stacked fs) (hn : ∀ f ∈ fs, f.lo + f.width ≤ n) :
    regPack fs < 2 ^ n := by
  induction fs generalizing n with
  | nil => exact Nat.two_pow_pos n
  | cons f fs ih =>
    obtain ⟨habove, hs⟩ := List.pairwise_cons.mp hs
    have htail : regPack fs < 2 ^ f.lo := ih hs habove
    have hval : f.value % 2 ^ f.width + 1 ≤ 2 ^ f.width := Nat.mod_lt _ (Nat.two_pow_pos _)
    calc regPack (f :: fs) < 2 ^ f.lo * (f.value % 2 ^ f.width + 1) := by rw [regPack_cons, Nat.mul_add_one]; omega
      _ ≤ 2 ^ f.lo * 2 ^ f.width := Nat.mul_le_mul_left _ hval
      _ = 2 ^ (f.lo + f.width) := (Nat.pow_add 2 _ _).symm
      _ ≤ 2 ^ n := Nat.pow_le_pow_right (by decide) (hn f List.mem_cons_self)

/-- A bit of the packed value: below the top field it is the rest's, and above its lowest bit the top field's. -/
theorem testBit_regPack_cons {f : RegField} {fs : List RegField} (hs : Stacked (f :: fs)) (i : Nat) :
    (regPack (f :: fs)).testBit i =
      if i < f.lo then (regPack fs).testBit i else (f.value % 2 ^ f.width).testBit (i - f.lo) := by
  obtain ⟨habove, hs⟩ := List.pairwise_cons.mp hs
  rw [regPack_cons, Nat.testBit_two_pow_mul_add _ (regPack_lt hs habove)]

/-- A field of stacked fields reads back from the packed value. -/
theorem regPack_field {fs : List RegField} (hs : Stacked fs) {f : RegField} (hf : f ∈ fs) :
    regPack fs / 2 ^ f.lo % 2 ^ f.width = f.value % 2 ^ f.width := by
  induction fs with
  | nil => cases hf
  | cons g fs ih =>
    obtain ⟨habove, hs'⟩ := List.pairwise_cons.mp hs
    rcases List.mem_cons.mp hf with rfl | hf
    · have htail : regPack fs < 2 ^ f.lo := regPack_lt hs' habove
      rw [regPack_cons, Nat.mul_add_div (Nat.two_pow_pos _), Nat.div_eq_of_lt htail, Nat.add_zero, Nat.mod_mod]
    · rw [← ih hs' hf]
      refine Nat.eq_of_testBit_eq fun i => ?_
      simp only [Nat.testBit_mod_two_pow, Nat.testBit_div_two_pow, testBit_regPack_cons hs]
      by_cases hi : i < f.width
      · have hbelow : i + f.lo < g.lo := by have := habove f hf; omega
        rw [if_pos hbelow]
      · simp [hi]

/-- A set bit of the packed value lies in a field. -/
theorem field_of_testBit_regPack {fs : List RegField} (hs : Stacked fs) {i : Nat} (hi : (regPack fs).testBit i = true) :
    ∃ f ∈ fs, f.lo ≤ i ∧ i < f.lo + f.width := by
  induction fs with
  | nil => simp [regPack] at hi
  | cons g fs ih =>
    rw [testBit_regPack_cons hs] at hi
    split at hi
    · obtain ⟨f, hf, hrange⟩ := ih (List.pairwise_cons.mp hs).2 hi
      exact ⟨f, List.mem_cons_of_mem _ hf, hrange⟩
    · rw [Nat.testBit_mod_two_pow, Bool.and_eq_true, decide_eq_true_eq] at hi
      exact ⟨g, List.mem_cons_self, by omega, by omega⟩

/-! ### The map's registers -/

theorem stacked_ringFields (d : Dev) (ring off : Nat) : Stacked (ringFields d ring off) := by
  unfold ringFields
  dsimp only
  split
  case h_2 => split <;> simp [Stacked]
  all_goals simp [Stacked]

/-- Tables 21-2 to 21-20: no two fields of a register overlap. -/
theorem stacked_regFields (d : Dev) (offset : Nat) : Stacked (regFields d offset) := by
  unfold regFields
  split
  case h_24 =>
    split
    · exact stacked_ringFields d _ _
    · split_ifs <;> simp [Stacked]
  all_goals simp [Stacked]

/-- Of a register that is served a read gives its packed fields. -/
theorem regRead_served {d : Dev} {offset : Nat} (hserved : regServed d offset = true) (haligned : offset % 8 = 0) :
    regRead d offset = regPack (regFields d offset) := by
  simp [regRead, regValue, hserved, haligned]

/-- What has no field reads 0. -/
theorem regRead_of_no_fields {d : Dev} {offset : Nat} (h : regFields d offset = []) : regRead d offset = 0 := by
  simp [regRead, regValue, h, regPack]

theorem ringAt_none {offset : Nat} (h : offset < 0x10000 ∨ 0x11040 ≤ offset) : ringAt offset = none := by
  unfold ringAt
  rw [if_neg (by omega), if_neg (by omega)]

/-- Table 21-1 lists nothing from 0x9000 on but the blocks of the rings. -/
theorem regFields_unlisted (d : Dev) {offset : Nat} (hlow : 0x9000 ≤ offset) (h : offset < 0x10000 ∨ 0x11040 ≤ offset) :
    regFields d offset = [] := by
  unfold regFields
  split
  case h_24 =>
    rw [ringAt_none h]
    dsimp only
    rw [if_neg (by omega), if_neg (by omega), if_neg (by omega)]
  all_goals omega

/-- Table 21-2: the identity of a stepping-B part. -/
theorem regRead_glbId (d : Dev) : regRead d 0 = 0x000230721F8A0001 := by
  rw [regRead_served (by simp [regServed]) rfl]
  rfl

/-- SEC_MBOX_CMD is write-only. -/
theorem regRead_secMboxCmd (d : Dev) : regRead d 0x7010 = 0 := regRead_of_no_fields rfl

/-! ### LNK_ESCAPE_WAIT -/

/-- R537: a write in range, while the setup is not locked, sets WAIT. -/
theorem regWriteOp_escapeWait {d : Dev} {v : Nat} (hlock : d.regs.lock = false) (hserved : regServed d 0x3018 = true)
    (hlo : 10 ≤ bitsOf v 0 14) (hhi : bitsOf v 0 14 ≤ 10000) :
    regWriteOp d 0x3018 v = d.onRegs fun r => { r with escapeWait := bitsOf v 0 14 } := by
  simp [regWriteOp, escapeWaitOp, rwlWrite, hserved, hlock, Nat.not_lt.mpr hlo, Nat.not_lt.mpr hhi]

theorem regRead_escapeWait {d : Dev} (hserved : regServed d 0x3018 = true) :
    regRead d 0x3018 = d.regs.escapeWait % 2 ^ 14 := by
  rw [regRead_served hserved rfl]
  simp [regFields, regPack]

/-- Which registers are served is no matter of the setup registers. -/
theorem regServed_onRegs (d : Dev) (f : Regs → Regs) (offset : Nat) :
    regServed (d.onRegs f) offset = regServed d offset := rfl

/-- The value that a write of LNK_ESCAPE_WAIT leaves is read back. -/
theorem regRead_regWriteOp_escapeWait {d : Dev} {v : Nat} (hlock : d.regs.lock = false)
    (hserved : regServed d 0x3018 = true) (hlo : 10 ≤ bitsOf v 0 14) (hhi : bitsOf v 0 14 ≤ 10000) :
    regRead (regWriteOp d 0x3018 v) 0x3018 = bitsOf v 0 14 := by
  rw [regWriteOp_escapeWait hlock hserved hlo hhi, regRead_escapeWait (by rwa [regServed_onRegs]), Dev.onRegs_regs]
  exact Nat.mod_mod _ _

/-- Settles O49: a register's fields never overlap, so its packed value gives each of them back. -/
theorem registerReads : Obligations.RegisterReads := by
  unfold Obligations.RegisterReads
  refine ⟨fun d offset hserved haligned => ?_, fun d => ⟨regRead_glbId d, regRead_secMboxCmd d⟩,
    fun d offset hlow h => regRead_of_no_fields (regFields_unlisted d hlow h), ?_⟩
  · have hstacked := stacked_regFields d offset
    rw [regRead_served hserved haligned]
    exact ⟨fun f hf => regPack_field hstacked hf, fun bit hbit => field_of_testBit_regPack hstacked hbit⟩
  · intro s v hon hbar hlock hserved hlo hhi
    refine ⟨_, execRegisterWrite_served hon hbar (by decide) (by decide), ?_⟩
    exact regRead_regWriteOp_escapeWait hlock hserved hlo hhi

end Sys2Proof.Machine
end

section
/-! The module's input power: what each command of the 36 V input does (R29, R451, R463, R464, R467), and that
without power no other command acts (R29). -/

namespace Sys2Proof.Machine

/-! ### Commands with power, written over the state they act on -/

theorem Answers.of_next {t : State} {p : State → Prop} (h : p t) : Answers (.next t) p := ⟨t, rfl, h⟩

/-- A guarded command whose guard holds acts on the device. -/
theorem act_when {s : State} {c : Dev → Bool} {f : Dev → Dev → Dev} (hon : s.dev.on = true) (hc : c s.dev = true) :
    (s.act fun d => d.when (c d) (f d)) = .next (s.withDev (f s.dev s.dev)) := by
  rw [State.act_on hon, hc]; rfl

/-- With power a command that may write tier 1 leaves what its operation gives. -/
theorem actMem_of {s : State} {f : Chip → Chip} {k : Chip} (hon : s.dev.on = true) (h : f s.chip = k) :
    s.actMem f = .next (s.withChip k) := by
  subst h
  exact State.actMem_on hon f

/-- A guarded command whose guard holds acts on tier 1 too. -/
theorem actMem_when {s : State} {c : Chip → Bool} {f : Chip → Chip → Chip} (hon : s.dev.on = true)
    (hc : c s.chip = true) : (s.actMem fun k => k.when (c k) (f k)) = .next (s.withChip (f s.chip s.chip)) :=
  actMem_of hon (if_pos hc)

/-! ### The 36 V input -/

theorem execInputPowerOn_starts {s : State} {cv : Nat} (hoff : s.dev.power.state = .off)
    (hlatched : s.dev.power.latched = false) (hovervolt : s.dev.power.overvolt = false) (hlow : 2900 < cv)
    (hhigh : cv ≤ 4200) :
    execInputPowerOn cv s = .next (s.withDev { s.dev with power := { s.dev.power with state := .softStart } }) := by
  rw [execInputPowerOn, State.actPower, if_pos ⟨hoff, hlatched, hovervolt, hlow, hhigh⟩]
  rfl

/-- INPUT_POWER_OFF at a reading or a gap that R451 names removes power, and touches the latches alone beside. -/
theorem execInputPowerOff_powerDown {cv gap : Nat} (s : State) (h : cv < 2800 ∨ 4200 < cv ∨ 50 < gap) :
    ∃ f : Power → Power, execInputPowerOff cv gap s = s.powerDown f ∧ ∀ p, (f p).state = p.state := by
  by_cases hlow : cv < 2800
  · exact ⟨_, if_pos hlow, fun _ => rfl⟩
  by_cases hhigh : 4200 < cv
  · exact ⟨_, (if_neg hlow).trans (if_pos hhigh), fun _ => rfl⟩
  · have hgap : 50 < gap := by omega
    exact ⟨id, (if_neg hlow).trans ((if_neg hhigh).trans (if_pos hgap)), fun _ => rfl⟩

theorem execOvervoltageRecover_starts {s : State} {cv : Nat} (hoff : s.dev.power.state = .off)
    (hovervolt : s.dev.power.overvolt = true) (hlatched : s.dev.power.latched = false) (hlow : 2800 ≤ cv)
    (hhigh : cv < 4100) :
    execOvervoltageRecover cv s =
      .next (s.withDev { s.dev with power := { s.dev.power with overvolt := false, state := .softStart } }) := by
  rw [execOvervoltageRecover, State.actPower, if_pos ⟨hoff, hovervolt, hhigh, hlow⟩]
  simp [State.withDev, hlatched]

theorem execInputOvercurrent_powerDown {s : State} {held deciamps : Nat} (hon : s.dev.on = true)
    (h : 5000 ≤ held ∨ 200 < deciamps) :
    execInputOvercurrent held deciamps s = s.powerDown fun p => { p with latched := true } := if_pos ⟨hon, h⟩

theorem execSoftStartDone_resets {s : State} (h : s.dev.power.state = .softStart) :
    execSoftStartDone s = .next s.moduleReset := if_pos h

/-- Settles O1: each command of the input is a change of the controller's state, a loss of power, or the reset of
power-good. -/
theorem powerCommands : Obligations.PowerCommands := by
  unfold Obligations.PowerCommands
  refine ⟨fun s cv => execInputPowerOn_starts, fun s cv gap h => ?_, fun s cv => execOvervoltageRecover_starts,
    fun s held deciamps hon h => ?_, fun s h => ?_, fun s => rfl, fun s => ?_⟩
  · obtain ⟨f, he, hf⟩ := execInputPowerOff_powerDown s h
    rw [exec_inputPowerOff, he]
    exact .of_next ⟨hf _, rfl, rfl, rfl, rfl, rfl⟩
  · rw [exec_inputOvercurrent, execInputOvercurrent_powerDown hon h]
    exact .of_next ⟨rfl, rfl, rfl, rfl, rfl⟩
  · rw [exec_softStartDone, execSoftStartDone_resets h]
    exact .of_next ⟨rfl, rfl, rfl, rfl, rfl, rfl, rfl⟩
  · exact .of_next ⟨rfl, rfl, rfl, rfl, rfl, rfl⟩

/-- Settles O38: State.reset and a module reset both clear tier 1, and a module reset keeps the fuses, the flash and
the queue. -/
theorem resetClearsTier1 : Obligations.ResetClearsTier1 :=
  ⟨rfl, rfl, rfl, fun _ => ⟨rfl, rfl, rfl, rfl, rfl⟩⟩

/-! ### Without power -/

/-- The form that every guarded kind of command takes: act, actMem, actNv and actRead. -/
theorem next_if_on_of_off {s t : State} (hoff : s.dev.on = false) :
    (.next (if s.dev.on then t else s) : Out) = .next s := by rw [hoff]; rfl

theorem execInputOvercurrent_off {s : State} (hoff : s.dev.on = false) (held deciamps : Nat) :
    execInputOvercurrent held deciamps s = .next s := by simp [execInputOvercurrent, hoff]

theorem execRecoveryImageAccept_off {s : State} (hoff : s.dev.on = false) (image : Bytes) :
    execRecoveryImageAccept image s = .next s := by simp [execRecoveryImageAccept, hoff]

theorem execSelfHealWatchdog_off {s : State} (hoff : s.dev.on = false) : execSelfHealWatchdog s = .next s := by
  simp [execSelfHealWatchdog, hoff]

theorem execRestart_off {s : State} (hoff : s.dev.on = false) : execRestart s = .next s := by simp [execRestart, hoff]

theorem execPldmVerifyComplete_off {s : State} (hoff : s.dev.on = false) : execPldmVerifyComplete s = .next s := by
  simp [execPldmVerifyComplete, hoff]

theorem execCxlIoReadComplete_off {s : State} (hoff : s.dev.on = false) (id : Nat) (ok : Bool) (data : Bytes) :
    execCxlIoReadComplete id ok data s = .next s := by
  unfold execCxlIoReadComplete
  split
  · rfl
  · simp [hoff]

/-- The Self-heal die's trip acts only with power; any other is a command that may write tier 1. -/
theorem execThermalTrip_off {s : State} (hoff : s.dev.on = false) (die : Nat) : execThermalTrip die s = .next s := by
  unfold execThermalTrip
  split
  · simp [hoff]
  · exact State.actMem_off hoff _

/-- Without power no address is looked at, so none is missing. -/
theorem if_on_fault_of_off {s : State} (hoff : s.dev.on = false) (c : Bool) (o : Out) :
    (if s.dev.on && c then .fault .noSuchAddress else o) = o := by simp [hoff]

theorem execHostHdmRead_off {s : State} (hoff : s.dev.on = false) (addr : Nat) : execHostHdmRead addr s = .next s := by
  rw [execHostHdmRead, Bool.and_assoc, if_on_fault_of_off hoff, State.actMem_off hoff]

theorem execHostHdmWrite_off {s : State} (hoff : s.dev.on = false) (addr : Nat) (data : Bytes) (keep : Bool) :
    execHostHdmWrite addr data keep s = .next s := by
  rw [execHostHdmWrite, Bool.and_assoc, if_on_fault_of_off hoff, State.actMem_off hoff]

theorem execPartialBurstWrite_off {s : State} (hoff : s.dev.on = false) (addr : Nat) (data : Bytes) (host : Bool) :
    execPartialBurstWrite addr data host s = .next s := by
  rw [execPartialBurstWrite, if_on_fault_of_off hoff, State.actMem_off hoff]

theorem execMemoryReadComplete_off {s : State} (hoff : s.dev.on = false) (burst : Nat) (error : Bytes)
    (reader : Reader) : execMemoryReadComplete burst error reader s = .next s := by
  rw [execMemoryReadComplete, if_on_fault_of_off hoff, State.act_off hoff]

/-- A write of BAR0 is a mailbox command or a change of the device. -/
theorem execRegisterWrite_off {s : State} (hoff : s.dev.on = false) (offset : Nat) (value : BitVec 64) (size : Nat) :
    execRegisterWrite offset value size s = .next s := by
  unfold execRegisterWrite
  split
  · split
    · exact State.actNv_off hoff _
    · exact State.actNv_off hoff _
    · exact State.actNv_off hoff _
    · exact execRestart_off hoff
    · exact State.act_off hoff _
  · exact State.act_off hoff _

/-- Settles O40: the commands with a meaning of their own are handled by name, and every other command that is not one
of the power input or the connector acts under the guard of power. -/
theorem unpoweredModuleIsInert : Obligations.UnpoweredModuleIsInert := by
  unfold Obligations.UnpoweredModuleIsInert
  intro i s hrow hoff
  cases i
  case inputPowerOn | inputPowerOff | overvoltageRecover | presenceDetect | surpriseRemoval | softStartDone =>
    cases hrow
  case inputOvercurrent => exact execInputOvercurrent_off hoff _ _
  case recoveryImageAccept => exact execRecoveryImageAccept_off hoff _
  case selfHealWatchdog => exact execSelfHealWatchdog_off hoff
  case restart => exact execRestart_off hoff
  case pldmVerifyComplete => exact execPldmVerifyComplete_off hoff
  case cxlIoReadComplete => exact execCxlIoReadComplete_off hoff _ _ _
  case thermalTrip => exact execThermalTrip_off hoff _
  case hostHdmRead => exact execHostHdmRead_off hoff _
  case hostHdmWrite => exact execHostHdmWrite_off hoff _ _ _
  case partialBurstWrite => exact execPartialBurstWrite_off hoff _ _ _
  case memoryReadComplete => exact execMemoryReadComplete_off hoff _ _ _
  case registerWrite => exact execRegisterWrite_off hoff _ _ _
  all_goals exact next_if_on_of_off hoff

end Sys2Proof.Machine
end

section
/-! Boot and the release of the dies (R25, R482, R489 to R494, R530). -/

namespace Sys2Proof.Machine

/-! ### The flash under the boot-select record and the REVOKE fuses -/

/-- The device secret and both firmware slots are the same. -/
def SameImages (a b : Nonvolatile) : Prop := a.uds = b.uds ∧ a.image0 = b.image0 ∧ a.image1 = b.image1

theorem SameImages.refl (a : Nonvolatile) : SameImages a a := ⟨rfl, rfl, rfl⟩

theorem SameImages.trans {a b c : Nonvolatile} (h : SameImages a b) (h' : SameImages b c) : SameImages a c :=
  ⟨h.1.trans h'.1, h.2.1.trans h'.2.1, h.2.2.trans h'.2.2⟩

/-- A write of the boot-select record touches its two copies alone (R488). -/
theorem bootWrite_sameImages (nv : Nonvolatile) (preferred state : Nat) :
    SameImages (bootWrite nv preferred state) nv := by
  unfold bootWrite
  split <;> exact .refl nv

/-- A revocation blows one fuse alone (R490). -/
theorem revokeOther_sameImages (nv : Nonvolatile) (image : Bytes) : SameImages (revokeOther nv image) nv := by
  unfold revokeOther
  split_ifs <;> exact .refl nv

theorem bootFirst_sameImages (nv : Nonvolatile) : SameImages (bootFirst nv).2 nv := by
  unfold bootFirst
  split
  · exact bootWrite_sameImages nv _ _
  · exact bootWrite_sameImages nv _ _
  · exact .refl nv

/-! ### The ROM -/

/-- The mode in which the ROM leaves a module whose slot to start is this (R489, R494). -/
def romMode (nv : Nonvolatile) (slot : Option Nat) : BootMode :=
  match slot with
  | some k => if k = (bootRecord nv).1 ∧ (bootRecord nv).2 ≠ 2 then .firmware else .fallback
  | none => .recovery

theorem romBootOp_mode (r : Root) :
    (romBootOp r).dev.boot.mode = romMode r.nv (bootSlot (bootFirst r.nv).2 (bootFirst r.nv).1) := by
  unfold romBootOp romMode
  dsimp only
  cases bootSlot (bootFirst r.nv).2 (bootFirst r.nv).1 with
  | none => rfl
  | some k => simp

theorem romBootOp_sameImages (r : Root) : SameImages (romBootOp r).nv r.nv := by
  unfold romBootOp
  dsimp only
  cases bootSlot (bootFirst r.nv).2 (bootFirst r.nv).1 with
  | none => exact bootFirst_sameImages r.nv
  | some k => exact (revokeOther_sameImages _ _).trans (bootFirst_sameImages r.nv)

theorem execRomBoot_of_rom {s : State} (hon : s.dev.on = true) (hrom : s.dev.boot.mode = .rom) :
    execRomBoot s = .next (s.withRoot (romBootOp ⟨s.nv, s.dev⟩)) := by
  rw [execRomBoot, State.actNv_on hon, if_pos hrom]
  rfl

/-! ### Recovery -/

/-- Recovery writes slot 0 and no other, whatever the image is (R494). -/
theorem recoveryWrite_images (r : Root) (image : Bytes) :
    (recoveryWrite r image).nv.image0 = image ∧ (recoveryWrite r image).nv.image1 = r.nv.image1 := by
  unfold recoveryWrite
  dsimp only
  split
  · obtain ⟨-, h0, h1⟩ := bootWrite_sameImages (imagePut r.nv 0 image) 0 1
    exact ⟨h0, h1⟩
  · exact ⟨rfl, rfl⟩

/-- A valid image is made PREFERRED 0 with TRY, and is staged (R494). -/
theorem recoveryWrite_valid {r : Root} {image : Bytes} (h : imageFault (imagePut r.nv 0 image) image = none) :
    (recoveryWrite r image).nv = bootWrite (imagePut r.nv 0 image) 0 1 ∧
      (recoveryWrite r image).dev.sec.staged = true ∧ (recoveryWrite r image).dev.boot = r.dev.boot := by
  simp [recoveryWrite, h]

/-- The reset that ends recovery keeps the flash and the queue. -/
theorem recovered_nv (s : State) : s.recovered.nv = s.nv ∧ s.recovered.pending = s.pending := by
  unfold State.recovered
  split <;> exact ⟨rfl, rfl⟩

theorem recovered_of_staged {s : State} (hmode : s.dev.boot.mode = .recovery) (hstaged : s.dev.sec.staged = true) :
    s.recovered = s.moduleReset := if_pos ⟨hmode, hstaged⟩

theorem execRecoveryImageAccept_of_recovery {s : State} (hon : s.dev.on = true)
    (hmode : s.dev.boot.mode = .recovery) (image : Bytes) :
    execRecoveryImageAccept image s = .next (s.withRoot (recoveryWrite ⟨s.nv, s.dev⟩ image)).recovered :=
  if_pos ⟨hon, hmode⟩

theorem recoveryImageAccept_answers {s : State} (hon : s.dev.on = true) (hmode : s.dev.boot.mode = .recovery)
    (image : Bytes) :
    Answers (execRecoveryImageAccept image s) fun t =>
      t.pending = s.pending ∧ t.nv.image0 = image ∧ t.nv.image1 = s.nv.image1 ∧
      (imageFault (imagePut s.nv 0 image) image = none →
        t.nv = bootWrite (imagePut s.nv 0 image) 0 1 ∧ t.dev.boot = {} ∧ t.mem = []) := by
  rw [execRecoveryImageAccept_of_recovery hon hmode]
  refine .of_next ?_
  obtain ⟨hnv, hpending⟩ := recovered_nv (s.withRoot (recoveryWrite ⟨s.nv, s.dev⟩ image))
  obtain ⟨himage0, himage1⟩ := recoveryWrite_images ⟨s.nv, s.dev⟩ image
  refine ⟨hpending, (congrArg _ hnv).trans himage0, (congrArg _ hnv).trans himage1, fun hvalid => ?_⟩
  obtain ⟨hwrite, hstaged, hboot⟩ := recoveryWrite_valid (r := ⟨s.nv, s.dev⟩) hvalid
  have hrecovery : (recoveryWrite ⟨s.nv, s.dev⟩ image).dev.boot.mode = .recovery := by rw [hboot]; exact hmode
  rw [hnv, recovered_of_staged hrecovery hstaged]
  exact ⟨hwrite, rfl, rfl⟩

/-! ### Release of the groups -/

/-- Settles O2: each command's guard holds, and its effect is then read off. -/
theorem bootCommands : Obligations.BootCommands := by
  unfold Obligations.BootCommands
  refine ⟨fun s hon hrom => ?_, fun s image hon hmode => recoveryImageAccept_answers hon hmode image,
    fun s hon hfw hstep hdone => ?_, fun s die hon hfw hdie hreleased hgroup hdue => ?_,
    fun s hon hfw hstep hdone hconfirmed => ?_, fun s hon hwatchdog => ?_, fun s die hon hreleased => ?_⟩
  · rw [exec_romBoot, execRomBoot_of_rom hon hrom]
    exact .of_next ⟨romBootOp_mode _, rfl, rfl, romBootOp_sameImages _⟩
  · rw [exec_dieGroupRelease, execDieGroupRelease, act_when hon (by simp [hfw, hstep, hdone])]
    exact .of_next ⟨rfl, rfl, rfl, rfl, rfl⟩
  · rw [exec_dieReadyTimeout, execDieReadyTimeout]
    refine actMem_when hon ?_
    have hmem : die ∈ dieGroup s.dev.dies.step := List.contains_iff_mem.mp hgroup
    simp [State.chip, hfw, hdie, hreleased, hmem, hdue]
  · rw [exec_bootConfirm, execBootConfirm, State.actNv_on hon, if_pos ⟨hfw, hstep, hdone, hconfirmed⟩]
    rfl
  · rw [exec_selfHealWatchdog, execSelfHealWatchdog, hon, hwatchdog]
    exact .of_next ⟨rfl, rfl, rfl, rfl, rfl, rfl⟩
  · rw [exec_dieReportReady, execDieReportReady, actMem_when hon (by simp [State.chip, hreleased])]

end Sys2Proof.Machine
end

section
/-! The loss of a die and its return (R25, R26, R199, R269, R462, R464, R471, R535). -/

namespace Sys2Proof.Machine

/-! ### What recording an event or a count leaves unchanged -/

/-- A fold of steps that each keep a value keeps it. -/
theorem foldl_keeps {α β γ : Type} (p : β → γ) {f : β → α → β} (hf : ∀ b a, p (f b a) = p b) (l : List α) (b : β) :
    p (l.foldl f b) = p b := by
  induction l generalizing b with
  | nil => rfl
  | cons a l ih => exact (ih (f b a)).trans (hf b a)

theorem logFull_onEvt (d : Dev) (code die tenant status eflags : Nat) (data : Bytes) :
    logFull d code die tenant status eflags data =
      d.onEvt fun _ => (logFull d code die tenant status eflags data).evt := by
  unfold logFull
  extract_lets
  split_ifs <;> rfl

@[simp] theorem logEv_dies (d : Dev) (code die : Nat) (data : Bytes) : (logEv d code die data).dies = d.dies := by
  rw [logEv, logFull_onEvt, Dev.onEvt_dies]

@[simp] theorem logEv_boot (d : Dev) (code die : Nat) (data : Bytes) : (logEv d code die data).boot = d.boot := by
  rw [logEv, logFull_onEvt, Dev.onEvt_boot]

@[simp] theorem logEv_mbr (d : Dev) (code die : Nat) (data : Bytes) : (logEv d code die data).mbr = d.mbr := by
  rw [logEv, logFull_onEvt, Dev.onEvt_mbr]

@[simp] theorem logFull_lp (d : Dev) (code die tenant status eflags : Nat) (data : Bytes) :
    (logFull d code die tenant status eflags data).lp = d.lp := by
  rw [logFull_onEvt, Dev.onEvt_lp]

@[simp] theorem logEv_lp (d : Dev) (code die : Nat) (data : Bytes) : (logEv d code die data).lp = d.lp :=
  logFull_lp d code die 0 0 0 data

theorem fixedCount_onCnt (d : Dev) (die n k : Nat) :
    fixedCount d die n k = d.onCnt fun _ => (fixedCount d die n k).cnt := by
  unfold fixedCount
  split <;> rfl

@[simp] theorem fixedCount_dies (d : Dev) (die n k : Nat) : (fixedCount d die n k).dies = d.dies := by
  rw [fixedCount_onCnt, Dev.onCnt_dies]

@[simp] theorem fixedCount_mbr (d : Dev) (die n k : Nat) : (fixedCount d die n k).mbr = d.mbr := by
  rw [fixedCount_onCnt, Dev.onCnt_mbr]

@[simp] theorem fixedCount_lp (d : Dev) (die n k : Nat) : (fixedCount d die n k).lp = d.lp := by
  rw [fixedCount_onCnt, Dev.onCnt_lp]

theorem blockStart_onEvt (d : Dev) (kind subject tenant : Nat) :
    blockStart d kind subject tenant = d.onEvt fun _ => (blockStart d kind subject tenant).evt := by
  unfold blockStart
  split
  · rfl
  · rw [logFull_onEvt]; rfl

/-- A check of the guaranteed shares starts and ends episodes alone (R447). -/
theorem shareCheck_onEvt (d : Dev) : shareCheck d = d.onEvt fun _ => (shareCheck d).evt := by
  have hkeeps : (shareCheck d).onEvt (fun _ => {}) = d.onEvt fun _ => {} :=
    foldl_keeps (fun d : Dev => d.onEvt fun _ => {}) (fun d p => by
      dsimp only
      split
      · rw [blockStart_onEvt]; rfl
      · rfl) d.mbr.compositions d
  have hrestored := congrArg (fun x : Dev => x.onEvt fun _ => (shareCheck d).evt) hkeeps
  exact hrestored

@[simp] theorem shareCheck_dies (d : Dev) : (shareCheck d).dies = d.dies := by
  rw [shareCheck_onEvt, Dev.onEvt_dies]

@[simp] theorem shareCheck_mbr (d : Dev) : (shareCheck d).mbr = d.mbr := by
  rw [shareCheck_onEvt, Dev.onEvt_mbr]

/-! ### What a die-loss leaves -/

/-- The loss is marked in the die's state and in the health inputs (R25 step 1, R357). -/
theorem dieLostOp_marks {die : Nat} (hdie : die ≠ 30) (k : Chip) :
    (dieLostOp k die).dev.lost die = true ∧ (dieLostOp k die).dev.mbr.dieLosses ≠ [] := by
  have hclover : ¬ die = Config.clover := hdie
  unfold dieLostOp
  dsimp only
  rw [if_neg hclover]
  constructor
  · simp [Dev.lost, Dev.setDie, tget_tput_new]
  · simp

/-! ### The controllers' entry into self-refresh -/

theorem msiSend_lp (d : Dev) (vector : Nat) : (msiSend d vector).lp = d.lp := by
  unfold msiSend
  split <;> rfl

theorem cxlFail_lp (d : Dev) (r : CxlRecord) : (cxlFail d r).lp = d.lp := by
  unfold cxlFail
  split
  · exact msiSend_lp _ _
  · rfl

theorem cxlWarn_lp (d : Dev) (r : CxlRecord) : (cxlWarn d r).lp = d.lp := by
  unfold cxlWarn
  split
  · exact msiSend_lp _ _
  · rfl

theorem cmdFailState_lp (d : Dev) (ring index status : Nat) : (cmdFailState d ring index status).lp = d.lp := rfl

theorem flushFail_lp (d : Dev) (key status : Nat) : (flushFail d key status).lp = d.lp := by
  unfold flushFail
  split
  · rfl
  · refine foldl_keeps Dev.lp (fun d ring => ?_) _ d
    exact foldl_keeps Dev.lp (fun d (c : Cmd) => cmdFailState_lp d ring c.index status) _ d

theorem suspectPage_lp (d : Dev) (key : Nat) (copyBack : Bool) : (suspectPage d key copyBack).lp = d.lp := by
  unfold suspectPage
  extract_lets e st d₁ d₂
  split_ifs
  · rfl
  · exact (logFull_lp _ _ _ _ _ _ _).trans (flushFail_lp d key _)

theorem queueMove_lp (d : Dev) (key priority : Nat) : (queueMove d key priority).lp = d.lp := by
  unfold queueMove
  split <;> rfl

theorem moveRetired_lp (d : Dev) (frame : Nat) : (moveRetired d frame).lp = d.lp := by
  unfold moveRetired
  split
  · split
    · exact queueMove_lp d _ 6
    · exact suspectPage_lp d _ false
  · rfl

theorem retireFrame_entering (d : Dev) (frame : Nat) : (retireFrame d frame).lp.entering = d.lp.entering := by
  unfold retireFrame
  split
  · rfl
  · simp [cxlWarn_lp]

theorem uncorrectableFound_entering (d : Dev) (burst transaction tenant status : Nat) (misdirected : Bool) :
    (uncorrectableFound d burst transaction tenant status misdirected).lp.entering = d.lp.entering := by
  simp [uncorrectableFound, retireFrame_entering, cxlFail_lp]

/-- Reporting bursts that a reader met retires frames and moves pages; it does not touch the controllers' timers. -/
theorem badServed_entering (d : Dev) (bursts : List Nat) (tenant status : Nat) :
    (badServed d bursts tenant status).lp.entering = d.lp.entering :=
  (congrArg Lpddr.entering (foldl_keeps Dev.lp (fun d b => moveRetired_lp d (b / 128)) bursts _)).trans
    (foldl_keeps (fun d : Dev => d.lp.entering) (fun d b => uncorrectableFound_entering d b 2 tenant status _) bursts d)

theorem setBurstError_entering (d : Dev) (burst : Nat) (p : Bytes) :
    (setBurstError d burst p).lp.entering = d.lp.entering := rfl

theorem copyStructures_entering (k : Chip) (src dst n : Nat) :
    (copyStructures k src dst n).dev.lp.entering = k.dev.lp.entering := by
  unfold copyStructures
  refine (foldl_keeps (fun d : Dev => d.lp.entering) (fun d b => ?_) _ _).trans (badServed_entering k.dev _ 0 St.ok)
  exact setBurstError_entering d _ _

theorem restoreCopies_entering (k : Chip) (die : Nat) : (restoreCopies k die).dev.lp.entering = k.dev.lp.entering := by
  unfold restoreCopies
  dsimp only
  split
  · split_ifs
    · exact copyStructures_entering k _ _ _
    · exact copyStructures_entering k _ _ _
    · rfl
  · rfl

theorem writeErrors_entering (a n : Nat) (d : Dev) (p : Nat × Bytes) :
    (writeErrors a n d p).lp.entering = d.lp.entering := by
  unfold writeErrors
  split <;> rfl

theorem zeroNow_entering (k : Chip) (a n : Nat) : (zeroNow k a n).dev.lp.entering = k.dev.lp.entering :=
  foldl_keeps (fun d : Dev => d.lp.entering) (writeErrors_entering a n) _ k.dev

/-! ### The commands -/

theorem execDieLost_of_runs {s : State} {die : Nat} (hon : s.dev.on = true) (hfw : s.dev.firmware = true)
    (hruns : dieRuns s.dev die = true) : execDieLost die s = .next (s.withChip (dieLostOp s.chip die)) := by
  rw [execDieLost, actMem_when hon (by simp [State.chip, hfw, hruns])]

theorem execSelfRefreshTimeout_of_due {s : State} {die : Nat} (hon : s.dev.on = true) (hfw : s.dev.firmware = true)
    (hlost : s.dev.lost die = true) (hentering : tget 0 s.dev.lp.entering die ≠ 0)
    (hdue : s.dev.due (tget 0 s.dev.lp.entering die - 1) 1000 = true) :
    execSelfRefreshTimeout die s = .next (s.withChip
      ((restoreCopies (zeroNow s.chip (dieMem die).1 (dieMem die).2) die).onDev fun d =>
        d.onLp fun x => { x with entering := tput 0 x.entering die 0 })) := by
  rw [execSelfRefreshTimeout, actMem_when hon (by simp [State.chip, hfw, hlost, hentering, hdue])]

/-- A hub die holds no memory, no links and no entries: its release clears its counters alone (Table 01-4, R514). -/
theorem execDieResetRelease_of_hub {s : State} {die : Nat} (hon : s.dev.on = true) (hfw : s.dev.firmware = true)
    (hlost : s.dev.lost die = true) (hheld : tget false s.dev.dies.held die = false)
    (htripped : tget false s.dev.power.tripped die = false) (hlow : 24 ≤ die) (hhigh : die < 28) :
    execDieResetRelease die s = .next (s.withDev
      (shareCheck (countersReleased ((s.dev.setDie die .released).onDies fun x =>
        { x with lostAt := tins x.lostAt die s.dev.now, rebased := tput false x.rebased die true }) die))) := by
  have hteasel : ¬ (die = 28 ∨ die = 29) := by omega
  have hyarrow : ¬ die < 16 := by omega
  have hcampion : ¬ (16 ≤ die ∧ die ≤ 23) := by omega
  rw [execDieResetRelease, actMem_when hon (by simp [State.chip, hfw, hlost, hheld, htripped])]
  simp only [if_neg hteasel, if_neg hyarrow, if_neg hcampion]
  rfl

theorem execThermalTrip_selfHeal {s : State} (hon : s.dev.on = true) :
    execThermalTrip 31 s = s.powerDown fun p => { p with latched := true } := (if_pos rfl).trans (if_pos hon)

/-- The device once the trip of a die is latched and its event written (R462). -/
def tripNoted (d : Dev) (die : Nat) : Dev :=
  thermalEvent (d.onPower fun p => { p with tripped := tput false p.tripped die true }) die

theorem tripNoted_firmware (d : Dev) (die : Nat) : (tripNoted d die).firmware = d.firmware := by
  simp [tripNoted, thermalEvent, Dev.firmware]

theorem dieRuns_tripNoted (d : Dev) (die : Nat) : dieRuns (tripNoted d die) die = dieRuns d die := by
  simp [tripNoted, thermalEvent, dieRuns, Dev.ready]

/-- The note of a trip leaves the firmware and the dies as they are, so the loss follows (R462). -/
theorem execThermalTrip_of_runs {s : State} {die : Nat} (hon : s.dev.on = true) (hdie : die < 31)
    (hfw : s.dev.firmware = true) (hruns : dieRuns s.dev die = true) :
    execThermalTrip die s = .next (s.withChip (dieLostOp (s.chip.onDev fun d => tripNoted d die) die)) := by
  have hother : ¬ die = Config.selfHeal := by simp only [Config.selfHeal]; omega
  have hnoted : s.chip.onDev (fun d =>
      if (d.onPower fun p => { p with tripped := tput false p.tripped die true }).firmware = true then tripNoted d die
      else d.onPower fun p => { p with tripped := tput false p.tripped die true }) =
      s.chip.onDev fun d => tripNoted d die := congrArg (Chip.mk · s.mem) (if_pos hfw)
  have hguard : ((tripNoted s.dev die).firmware && dieRuns (tripNoted s.dev die) die) = true := by
    rw [tripNoted_firmware, dieRuns_tripNoted, hfw, hruns]; rfl
  rw [execThermalTrip, if_neg hother]
  refine actMem_of hon ?_
  dsimp only
  exact (congrArg (fun k : Chip => k.when (k.dev.firmware && dieRuns k.dev die) fun k => dieLostOp k die) hnoted).trans
    (if_pos hguard)

/-- Settles O3: each command's guard holds, and what it does is the operation named; of the die-loss operation the marks
are read off, and of the restored memory that the timers of self-refresh stay. -/
theorem dieCommands : Obligations.DieCommands := by
  unfold Obligations.DieCommands
  refine ⟨fun s die hon hfw hruns => execDieLost_of_runs hon hfw hruns, fun s die hon hfw hruns hdie => ?_,
    fun s die hon hfw hlost hentering hdue => ?_,
    fun s die hon hfw hlost hheld htripped hlow hhigh => execDieResetRelease_of_hub hon hfw hlost hheld htripped hlow hhigh,
    fun s die hon hdie => ?_, fun s die hon hdie hfw hruns => execThermalTrip_of_runs hon hdie hfw hruns,
    fun s die failed hon hdone hch hready => ?_, fun s die hon hready hlow hhigh => ?_,
    fun s die count hon hready hdue => ?_⟩
  · rw [exec_dieLost, execDieLost_of_runs hon hfw hruns]
    obtain ⟨hlost, hlosses⟩ := dieLostOp_marks hdie s.chip
    exact .of_next ⟨hlost, hlosses, rfl, rfl⟩
  · rw [exec_selfRefreshTimeout, execSelfRefreshTimeout_of_due hon hfw hlost hentering hdue]
    have hkept : (restoreCopies (zeroNow s.chip (dieMem die).1 (dieMem die).2) die).dev.lp.entering =
        s.dev.lp.entering := (restoreCopies_entering _ die).trans (zeroNow_entering s.chip _ _)
    exact .of_next ⟨by rw [← hkept]; rfl, rfl, rfl, rfl⟩
  · subst hdie
    rw [exec_thermalTrip, execThermalTrip_selfHeal hon]
    exact .of_next ⟨rfl, rfl, rfl, rfl, rfl⟩
  · rw [exec_selfRefreshExit, execSelfRefreshExit, act_when hon (by simp [hdone, hch, hready])]
    rfl
  · rw [exec_managementBeatLoss, execManagementBeatLoss, act_when hon (by simp [hready, hlow, hhigh])]
    rfl
  · rw [exec_replicaLoopCount, execReplicaLoopCount, act_when hon (by simp [hready, hdue])]

end Sys2Proof.Machine
end

section
/-! What a command of a ring, a command that reads tier 1 and a message of the inbox come to, once their guards hold,
and what a list of checks says (R411, R443). -/

namespace Sys2Proof.Machine

@[simp] theorem State.chip_dev (s : State) : s.chip.dev = s.dev := rfl
@[simp] theorem State.chip_mem (s : State) : s.chip.mem = s.mem := rfl

/-! ### Commands with power -/

/-- With power a command that changes only the device leaves what its operation gives. -/
theorem act_of {s : State} {f : Dev → Dev} {d : Dev} (hon : s.dev.on = true) (h : f s.dev = d) :
    s.act f = .next (s.withDev d) := by
  subst h
  exact State.act_on hon f

/-- With power a command that reads tier 1 leaves what its operation gives. -/
theorem actRead_of {s : State} {f : Chip → Dev} {d : Dev} (hon : s.dev.on = true) (h : f s.chip = d) :
    s.actRead f = .next (s.withDev d) := by
  subst h
  exact State.actRead_on hon f

/-- A command that reads tier 1 and whose operation changes nothing leaves the state. -/
theorem actRead_same {s : State} {f : Chip → Dev} (hon : s.dev.on = true) (h : f s.chip = s.dev) :
    s.actRead f = .next s := actRead_of hon h

/-- A command that may write tier 1 and whose operation changes nothing leaves the state. -/
theorem actMem_same {s : State} {f : Chip → Chip} (hon : s.dev.on = true) (h : f s.chip = s.chip) :
    s.actMem f = .next s := actMem_of hon h

/-! ### Lists of checks -/

theorem firstFail_eq_none_iff {α : Type} {l : List (Bool × α)} : firstFail l = none ↔ ∀ p ∈ l, p.1 = true := by
  induction l with
  | nil => simp [firstFail]
  | cons x l ih =>
    obtain ⟨ok, e⟩ := x
    cases ok with
    | false => simp [firstFail]
    | true => simp [firstFail, ih]

theorem firstFail_append_eq_none_iff {α : Type} {l m : List (Bool × α)} :
    firstFail (l ++ m) = none ↔ firstFail l = none ∧ firstFail m = none := by
  simp only [firstFail_eq_none_iff, List.mem_append, or_imp, forall_and]

/-- Checks that all pass leave the outcome to those that follow. -/
theorem firstFail_append_of_pass {α : Type} {l : List (Bool × α)} (h : firstFail l = none) (m : List (Bool × α)) :
    firstFail (l ++ m) = firstFail m := by
  induction l with
  | nil => rfl
  | cons x l ih =>
    obtain ⟨ok, e⟩ := x
    cases ok with
    | false => cases h
    | true => exact ih h

/-! ### Commands of a ring -/

/-- A command that is ready has its phase and its opcode. -/
theorem phase_opcode_of_ready {d : Dev} {ring index op : Nat} {c : Cmd} (h : d.cmdReady ring index op = some c) :
    c.phase = .ready ∧ fld c.desc 0 1 = op := by
  unfold Dev.cmdReady at h
  split at h
  · split at h
    · rename_i hc
      injection h with h
      subst h
      simpa using hc
    · cases h
  · cases h

/-- A command that changes only the device, whose checks all pass, has its effect. -/
theorem act_cmdChecks {s : State} {ring index op : Nat} {c : Cmd} {checks : Dev → Cmd → List (Bool × (Nat × Nat))}
    {f : Dev → Dev → Cmd → Dev} (hon : s.dev.on = true) (hready : s.dev.cmdReady ring index op = some c)
    (hpass : firstFail (checks s.dev c) = none) :
    (s.act fun d => cmdChecks d ring index op (checks d) (f d)) = .next (s.withDev (f s.dev s.dev c)) :=
  act_of hon (cmdChecks_pass hready hpass)

/-- A command that reads tier 1, whose checks all pass, has its effect. -/
theorem actRead_cmdChecks {s : State} {ring index op : Nat} {c : Cmd}
    {checks : Chip → Cmd → List (Bool × (Nat × Nat))} {f : Chip → Dev → Cmd → Dev} (hon : s.dev.on = true)
    (hready : s.dev.cmdReady ring index op = some c) (hpass : firstFail (checks s.chip c) = none) :
    (s.actRead fun k => cmdChecks k.dev ring index op (checks k) (f k)) = .next (s.withDev (f s.chip s.dev c)) :=
  actRead_of hon (cmdChecks_pass hready hpass)

/-! ### Messages of the inbox -/

/-- A message of the wanted type is acted on and leaves the inbox. -/
theorem actRead_onMsgRead {s : State} {msg type : Nat} {m : Inb} {f : Chip → Inb → Dev} (hon : s.dev.on = true)
    (hmsg : s.dev.msg msg type = some m) :
    (s.actRead fun k => onMsgRead k msg type f) = .next (s.withDev (f (s.chip.onDev fun d => d.take msg) m)) := by
  refine actRead_of hon ?_
  rw [onMsgRead, State.chip_dev, hmsg]

/-- The same for work that writes tier 1. -/
theorem actMem_onMsgMem {s : State} {msg type : Nat} {m : Inb} {f : Chip → Inb → Chip} (hon : s.dev.on = true)
    (hmsg : s.dev.msg msg type = some m) :
    (s.actMem fun k => onMsgMem k msg type f) = .next (s.withChip (f (s.chip.onDev fun d => d.take msg) m)) := by
  refine actMem_of hon ?_
  rw [onMsgMem, State.chip_dev, hmsg]

end Sys2Proof.Machine
end

section
/-! Object records and geometry, forks, placement, seals and shadow reads (R33, R56, R61, R225, R372, R374, R375, R430 to
R434). -/

namespace Sys2Proof.Machine

/-! ### The page size of a geometry (R33) -/

/-- The last check of a geometry is R33's limit. -/
theorem raw_le_of_geomCheck {fmt t hkv dim layers : Nat} (h : geomCheck fmt t hkv dim layers = none) :
    Geom.raw ⟨fmt, t, hkv, dim⟩ ≤ 262144 :=
  of_decide_eq_true (firstFail_eq_none_iff.mp h (decide _, St.fieldInvalid) (by simp))

/-- A geometry whose codes are good and whose raw page is larger fails R33's limit. -/
theorem geomCheck_of_large_raw {fmt t hkv dim layers : Nat} (hfmt : fmt < 8) (ht : t ≤ 3) (hlow : 1 ≤ hkv)
    (hhigh : hkv ≤ 16) (hdim : dim ≤ 5) (hlayers : 1 ≤ layers) (hlayers' : layers ≤ 256)
    (hlarge : 262144 < Geom.raw ⟨fmt, t, hkv, dim⟩) : geomCheck fmt t hkv dim layers = some St.fieldInvalid := by
  have h16 : fmt < 16 := by omega
  have h255 : hkv ≠ 255 := by omega
  simp [geomCheck, firstFail, *]

/-- The geometry is OBJ_CREATE's sixth check (R430). -/
theorem firstFail_createChecks_of_geom {d : Dev} {c : Cmd} {st : Nat}
    (hbefore : firstFail ((createChecks d c).take 5) = none)
    (hgeom : geomCheck (readWhole c.buf).format (readWhole c.buf).tCode (readWhole c.buf).hkv (readWhole c.buf).dCode
      (readWhole c.buf).layers = some st) : firstFail (createChecks d c) = some st := by
  rw [← List.take_append_drop 5 (createChecks d c), firstFail_append_of_pass hbefore]
  simp only [createChecks, hgeom]
  rfl

/-- OBJ_CREATE of a record that fails a check ends with the check's status (R430). -/
theorem execObjCreate_of_fail {s : State} {ring index st : Nat} {c : Cmd} (hon : s.dev.on = true)
    (hready : s.dev.cmdReady ring index 0x10 = some c) (hlen : recordLenOk c = true)
    (hfail : firstFail (createChecks s.dev c) = some st) :
    execObjCreate ring index s = .next (s.withDev (cmdFailState s.dev ring index st)) := by
  rw [execObjCreate]
  refine act_of hon ?_
  simp [hready, hlen, hfail]

/-- Settles O55: R33's limit is a check of the geometry, and the geometry is a check of OBJ_CREATE. -/
theorem pageSizeLimit : Obligations.PageSizeLimit := by
  unfold Obligations.PageSizeLimit
  refine ⟨fun fmt t hkv dim layers => raw_le_of_geomCheck, ?_⟩
  intro s ring index c hon hready hlen hbefore hfmt ht hlow hhigh hdim hlayers hlayers' hlarge
  have hgeom := geomCheck_of_large_raw hfmt ht hlow hhigh hdim hlayers hlayers' hlarge
  exact execObjCreate_of_fail hon hready hlen (firstFail_createChecks_of_geom hbefore hgeom)

/-! ### The commands -/

/-- OBJ_DELETE drops an object that the node holds or is home of, and fails for any other (R432). -/
theorem execObjDelete_of_ready {s : State} {ring index : Nat} {c : Cmd} (hon : s.dev.on = true)
    (hready : s.dev.cmdReady ring index 0x12 = some c) (hid : firstFail (objIdChecks s.dev c.desc 0x10) = none) :
    execObjDelete ring index s = .next (s.withDev
      (if (s.dev.objAt (cObj c)).isNone && (s.dev.home (cObj c)).isNone then
        cmdFail s.dev ring index St.noSuchObject 0x10
       else
        let d := blockEnd ((dropObject s.dev (cObj c)).onMbr fun m =>
          { m with homes := tdel m.homes (cObj c), shadowings := m.shadowings.filter fun p => p.1 / 256 != cObj c }) 6
          (objId (cObj c)) (objTenant (cObj c))
        cmdDone d ring index St.ok (liveRuns s.dev - liveRuns d))) := by
  rw [execObjDelete]
  refine act_of hon ?_
  simp only [hready, hid]
  rfl

/-- SEAL_FLUSH of an object held starts with the full pages it finds (Table 15-18). -/
theorem execSealFlush_of_ready {s : State} {ring index : Nat} {c : Cmd} {o : Obj} (hon : s.dev.on = true)
    (hready : s.dev.cmdReady ring index 0x15 = some c) (hheld : firstFail (objHeld s.dev c 0x10) = none)
    (ho : s.dev.objAt (cObj c) = some o) :
    execSealFlush ring index s = .next (s.withDev
      (if (fullPages s.chip (cObj c) o.geom).isEmpty then cmdDone s.dev ring index St.ok 0
       else s.dev.onCmd ring index fun x =>
        { x with phase := .running, result := (fullPages s.chip (cObj c) o.geom).length,
                 keys := fullPages s.chip (cObj c) o.geom })) := by
  have hidle : ¬ (c.phase = .running ∧ fld c.desc 0 1 = 0x15) := by simp [(phase_opcode_of_ready hready).1]
  rw [execSealFlush]
  refine actRead_of hon ?_
  simp only [State.chip_dev, cmd_of_ready hready, if_neg hidle]
  rw [cmdChecks_pass hready hheld, ho]

/-- Settles O15: each command's checks pass or its guard holds, and what it does is then the branch named. -/
theorem objectCommands : Obligations.ObjectCommands := by
  unfold Obligations.ObjectCommands
  refine ⟨fun s ring index c hon hready hlen hpass => ?_,
    fun s ring index c h hon hready hlen hid hhome hishome hcreating hpass hclose => ?_,
    fun s object node h hon hhome hishome hcreating hunacked hdue => ?_,
    fun s ring index c hon hready hid hheld => ?_, fun s ring index c hon hready hid hobj hhome => ?_,
    fun s ring index c hon hready hpass => ?_, fun s ring index c f hon hfork hcmd => ?_,
    fun s ring index c hon hready hpolicy hdepth hheld => ?_,
    fun s ring index c o hon hready hheld ho hfull => ?_, fun s ring index c o hon hready hheld ho hfull => ?_,
    fun s ring index c hon hcmd hphase hop hdone => ?_, fun s ring index c h hon hready hhome hpass => ?_⟩
  · rw [exec_objCreate, execObjCreate]
    refine act_of hon ?_
    simp [hready, hlen, hpass]
  · rw [exec_objRecord, execObjRecord]
    refine actRead_of hon ?_
    simp [hready, hlen, hid, hhome, hishome, hcreating, hpass, hclose]
  · rw [exec_recordNodeTimeout, execRecordNodeTimeout]
    refine act_of hon ?_
    simp only [hhome]
    exact if_pos (by simp only [hishome, hcreating, hunacked, hdue, Bool.and_self])
  · have hknown : ((s.dev.objAt (cObj c)).isNone && (s.dev.home (cObj c)).isNone) = false := by
      rcases hheld with h | h <;> simp [Option.isNone_eq_false_iff.mpr h]
    rw [exec_objDelete, execObjDelete_of_ready hon hready hid, if_neg (ne_true_of_eq_false hknown)]
    rfl
  · rw [exec_objDelete, execObjDelete_of_ready hon hready hid, if_pos (by simp [hobj, hhome])]
    rfl
  · rw [exec_objFork, execObjFork]
    exact actRead_cmdChecks hon hready hpass
  · rw [exec_forkPageReady, execForkPageReady]
    refine actRead_of hon ?_
    simp only [State.chip_dev, hfork, hcmd]
  · rw [exec_place, execPlace]
    refine act_cmdChecks hon hready ?_
    rw [firstFail_append_eq_none_iff]
    exact ⟨by simp [firstFail, fieldOk, hpolicy, hdepth], hheld⟩
  · rw [exec_sealFlush, execSealFlush_of_ready hon hready hheld ho, hfull]
    rfl
  · rw [exec_sealFlush, execSealFlush_of_ready hon hready hheld ho, if_neg (by simpa using hfull)]
  · rw [exec_sealFlush, execSealFlush]
    refine actRead_of hon ?_
    simp only [State.chip_dev, hcmd]
    exact (if_pos ⟨hphase, hop⟩).trans (if_pos (by rw [hdone]; rfl))
  · rw [exec_shadowStart, execShadowStart]
    refine act_of hon ?_
    simp only [cObj] at hhome
    simp only [hready, hhome, hpass, cObj]

end Sys2Proof.Machine
end

section
/-! Loads and inspections (R52, R212, R306, R432, R435, R436). -/

namespace Sys2Proof

@[simp] theorem length_toLe (n v : Nat) : (toLe n v).length = n := by
  induction n generalizing v with
  | zero => rfl
  | succ n ih => simp [toLe, ih]

@[simp] theorem length_zeros (n : Nat) : (zeros n).length = n := List.length_replicate

end Sys2Proof

namespace Sys2Proof.Machine

/-! ### OBJ_INSPECT (Table 15-20) -/

/-- Table 13-5: a record header has 32 bytes. -/
@[simp] theorem length_recordHeader (h : HomeRec) : (recordHeader h).length = 32 := by simp [recordHeader]

theorem knowsObj_of_home {d : Dev} {obj : Nat} {h : HomeRec} (hh : d.home obj = some h) : knowsObj d obj = true := by
  rw [Dev.home] at hh
  simp [knowsObj, hh]

/-- A node that knows an object which it does not hold has its record. -/
theorem home_isSome_of_knowsObj {d : Dev} {obj : Nat} (hknown : knowsObj d obj = true) (ho : d.objAt obj = none) :
    (d.home obj).isSome = true := by
  rwa [knowsObj, ho, Option.isSome_none, Bool.false_or] at hknown

/-- Whatever record OBJ_INSPECT finds has a header, so it does not fit in no room. -/
theorem execObjInspect_of_no_room {s : State} {ring index : Nat} {c : Cmd} (hon : s.dev.on = true)
    (hready : s.dev.cmdReady ring index 0x1B = some c) (hid : firstFail (objIdChecks s.dev c.desc 0x10) = none)
    (hknown : knowsObj s.dev (cObj c) = true) (hroom : fld c.desc 0x28 4 = 0)
    (htail : ∀ o, s.dev.objAt (cObj c) = some o → (holdsTail s.dev o && !(tailsRead s.dev (cObj c) o.layers)) = false) :
    execObjInspect ring index s = .next (s.withDev (cmdFail s.dev ring index St.lengthInvalid 0x28)) := by
  rw [execObjInspect, actRead_cmdChecks hon hready (by
    simp [firstFail_append_eq_none_iff, hid, firstFail, hknown])]
  cases ho : s.dev.objAt (cObj c) with
  | some o =>
    cases hhome : (s.dev.home (cObj c)).filter (·.isHome) with
    | some h => simp [ho, htail o ho, hhome, hroom, recordBytes]
    | none => simp [ho, htail o ho, hhome, hroom, heldRecord]
  | none =>
    obtain ⟨h, hh⟩ := Option.isSome_iff_exists.mp (home_isSome_of_knowsObj hknown ho)
    cases hhome : h.isHome with
    | true =>
      have hfilter : (some h).filter (·.isHome) = some h := by simp [Option.filter, hhome]
      simp [ho, hh, hfilter, hroom, recordBytes]
    | false =>
      have hfilter : (some h).filter (·.isHome) = none := by simp [Option.filter, hhome]
      simp [ho, hh, hfilter, hroom, recordBytes]

/-- OBJ_INSPECT at a home that holds no shard answers the record and a zero length for each layer. -/
theorem execObjInspect_of_home {s : State} {ring index : Nat} {c : Cmd} {h : HomeRec} (hon : s.dev.on = true)
    (hready : s.dev.cmdReady ring index 0x1B = some c) (hid : firstFail (objIdChecks s.dev c.desc 0x10) = none)
    (ho : s.dev.objAt (cObj c) = none) (hh : s.dev.home (cObj c) = some h) (hhome : h.isHome = true)
    (hroom : (recordBytes h).length + 4 * h.layers ≤ fld c.desc 0x28 4) :
    execObjInspect ring index s = .next (s.withDev (s.dev.onCmd ring index fun x =>
      { x with phase := .done, status := St.ok,
               result := (recordBytes h ++ (List.range h.layers).flatMap fun _ => toLe 4 0).length,
               data := [(fld c.desc 0x20 8, recordBytes h ++ (List.range h.layers).flatMap fun _ => toLe 4 0)] })) := by
  have hfilter : (some h).filter (·.isHome) = some h := by simp [Option.filter, hhome]
  have hlength : (recordBytes h ++ (List.range h.layers).flatMap fun _ => toLe 4 0).length =
      (recordBytes h).length + h.layers * 4 := by simp
  have hfits : ¬ fld c.desc 0x28 4 < (recordBytes h ++ (List.range h.layers).flatMap fun _ => toLe 4 0).length := by
    omega
  rw [execObjInspect, actRead_cmdChecks hon hready (by
    simp [firstFail_append_eq_none_iff, hid, firstFail, knowsObj_of_home hh])]
  simp only [ho, hh, hfilter, Bool.false_and, if_neg hfits]
  rfl

/-! ### The commands -/

/-- Settles O17: each command's checks pass or its guard holds, and what it does is then the branch named. -/
theorem loadAndInspectCommands : Obligations.LoadAndInspectCommands := by
  unfold Obligations.LoadAndInspectCommands
  refine ⟨fun s ring index c hon hready hpass hkind harea => ?_, fun s ring index c hon hready hpass hkind harea => ?_,
    fun s ring index key frame res growing c hon hready haction hload hkey hreg => ?_,
    fun s ring index frame res growing c hon hready haction hload => ?_,
    fun s ring index key frame res c hon hready haction hload hreg => ?_,
    fun s ring index key frame res growing c hon hready haction hload hreg => ?_,
    fun s ring index c o hon hready hwhat hheld ho hpage => ?_,
    fun s ring index c hon hready hid hknown hroom htail => ?_,
    fun s ring index c h hon hready hid ho hhome hishome hroom => ?_⟩
  · obtain ⟨p, hp⟩ := Option.isSome_iff_exists.mp harea
    rw [exec_loadOpen, execLoadOpen, act_cmdChecks hon hready hpass]
    simp only [if_pos hkind, hp]
  · rw [exec_loadOpen, execLoadOpen, act_cmdChecks hon hready hpass]
    simp only [if_pos hkind, harea]
    rfl
  · rw [exec_loadCloseCommit, execLoadCloseCommit]
    refine actRead_of hon ?_
    simp [State.chip, hready, haction, hload, hkey, hreg, Dev.when]
  · rw [exec_loadCloseCommit, execLoadCloseCommit]
    refine actRead_of hon ?_
    simp [hready, haction, hload, Dev.when, St.fieldInvalid]
  · rw [exec_loadCloseDiscard, execLoadCloseDiscard]
    refine act_of hon ?_
    simp [hready, haction, hload, hreg, Dev.when, St.ok]
  · rw [exec_loadCloseDiscard, execLoadCloseDiscard]
    refine act_of hon ?_
    simp [hready, haction, hload, hreg, Dev.when, St.busy]
  · have hpass : firstFail ([fieldOk (fld c.desc 0x15 1 != 3) 0x15] ++ objHeld s.dev c 0x10) = none := by
      rw [firstFail_append_eq_none_iff]
      exact ⟨by simp [firstFail, fieldOk, hwhat], hheld⟩
    have hlast := firstFail_append_of_pass hpass
    rw [exec_pageInspect, execPageInspect,
      actRead_cmdChecks hon hready ((hlast _).trans (by simp [firstFail, ho, hpage, hwhat]))]
    dsimp only
    rw [if_pos hwhat]
    rfl
  · rw [exec_objInspect, execObjInspect_of_no_room hon hready hid hknown hroom fun o ho => by simpa [ho] using htail]
    exact .of_next ⟨⟨rfl, rfl, rfl⟩, rfl⟩
  · rw [exec_objInspect, execObjInspect_of_home hon hready hid ho hhome hishome hroom]
    rfl

end Sys2Proof.Machine
end

section
/-! Appends and seals (R50, R53, R127 to R131, R145, R374), and the recovery of pages (R49, R545, R548). -/

namespace Sys2Proof.Machine

/-! ### Appends -/

/-- An append that its page does not hold up is taken from the inbox and carried out (R127 to R131). -/
theorem onAppend_of_msg {k : Chip} {msg : Nat} {mirror : Bool} {m : Inb} (hmsg : k.dev.msg msg 0x28 = some m)
    (hmirror : apMirror (msgBody m.bytes) = mirror) (hwaits : appendWaits k.dev m.bytes = false) :
    onAppend k msg mirror = appendOp (k.onDev fun d => d.take msg) m := by
  simp only [onAppend, hmsg]
  exact if_pos ⟨hmirror, hwaits⟩

/-- An append to a page under a row operation waits where it is (R219, R221). -/
theorem onAppend_of_waits {k : Chip} {msg : Nat} {m : Inb} (hmsg : k.dev.msg msg 0x28 = some m)
    (hwaits : appendWaits k.dev m.bytes = true) (mirror : Bool) : onAppend k msg mirror = k := by
  simp [onAppend, hmsg, hwaits]

/-- An append that fails a check is answered, and nothing more (R127, R132). -/
theorem appendOp_of_fail {k : Chip} {m : Inb} {st : Nat} (hstale : m.stale = false)
    (hfail : firstFail (appendChecks k.dev (msgBody m.bytes) (senderOf m)) = some st) :
    appendOp k m =
      k.onDev fun d => ackAppend d (msgBody m.bytes) m.conn (actionSub m.action) (msgTenant m.bytes) st 0 := by
  simp [appendOp, hstale, hfail]

/-- Settles O25: each command's guard holds or fails, and what it does is then the branch named. -/
theorem appends : Obligations.Appends := by
  unfold Obligations.Appends
  refine ⟨fun s msg m hon hmsg hmirror hwaits => ?_, fun s msg st m hon hmsg hmirror hwaits hstale hfail => ?_,
    fun s msg m hon hmsg hwaits => ?_, fun s msg m hon hmsg hmirror hwaits => ?_, fun s msg m hon hmsg => ?_,
    fun s ack n a x hon hack hrefused hshard hlisted hdue => ?_, fun s held h hon hheld hmirror hdue => ?_,
    fun s held h hon hheld hmirror => ?_, fun s held n h x hon hheld hwhy hwaits hshard htail => ?_,
    fun s die x rest hon hseals hready hbusy => ?_, fun s die hon hseals => ?_⟩
  · rw [exec_append, execAppend]
    exact actMem_of hon (onAppend_of_msg hmsg hmirror hwaits)
  · have hrefused := appendOp_of_fail (k := s.chip.onDev fun d => d.take msg) hstale hfail
    rw [exec_append, execAppend, actMem_of hon (onAppend_of_msg hmsg hmirror hwaits), hrefused]
    rfl
  · rw [exec_append, execAppend]
    exact actMem_same hon (onAppend_of_waits hmsg hwaits false)
  · rw [exec_appendMirrorCopy, execAppendMirrorCopy]
    exact actMem_of hon (onAppend_of_msg hmsg hmirror hwaits)
  · rw [exec_appendAck, execAppendAck]
    exact actRead_onMsgRead hon hmsg
  · rw [exec_mirrorCopyResend, execMirrorCopyResend]
    refine act_of hon ?_
    simp [hack, hrefused, hshard, hlisted, Dev.due, hdue, Dev.when]
  · rw [exec_appendDeadline, execAppendDeadline]
    refine actMem_of hon ?_
    simp [hheld, hmirror, Dev.due, hdue, St.deadlineExpired]
  · rw [exec_appendDeadline, execAppendDeadline]
    refine actMem_same hon ?_
    simp [hheld, hmirror]
  · rw [exec_heldAppendRelease, execHeldAppendRelease]
    refine actMem_of hon ?_
    simp [hheld, hwhy, hwaits, hshard, htail]
  · rw [exec_sealComplete, execSealComplete]
    refine actMem_of hon ?_
    simp [hseals, hready, hbusy]
  · rw [exec_sealComplete, execSealComplete]
    refine actMem_same hon ?_
    simp [hseals]

/-! ### Recovery -/

/-- Settles O30: each command's guard holds or fails, and what it does is then the branch named. -/
theorem pageRecovery : Obligations.PageRecovery := by
  unfold Obligations.PageRecovery
  refine ⟨fun s msg m hon hmsg hseals => ?_, fun s msg m hon hmsg hseals => ?_,
    fun s msg key m r hon hmsg hstale hhead htag hfetch => ?_, fun s msg m hon hmsg hstale hhead htag => ?_,
    fun s key r hon hr hactive hfetching hinstalling hsuspect => ?_,
    fun s key r hon hr hactive hfetching hinstalling hdue => ?_, fun s key r hon hr hactive hdue => ?_⟩
  · rw [exec_pageFetch, execPageFetch]
    refine actRead_of hon ?_
    simp only [State.chip_dev, hmsg]
    exact if_neg (ne_true_of_eq_false hseals)
  · rw [exec_pageFetch, execPageFetch]
    refine actRead_same hon ?_
    simp only [State.chip_dev, hmsg]
    exact if_pos hseals
  · rw [exec_pageImage, execPageImage, actMem_onMsgMem hon hmsg]
    simp [hstale, hhead, htag, hfetch]
  · rw [exec_pageImage, execPageImage, actMem_onMsgMem hon hmsg]
    simp [hstale, hhead, htag]
  · rw [exec_recoveryAttempt, execRecoveryAttempt]
    refine actRead_of hon ?_
    simp [hr, hactive, hfetching, hinstalling, hsuspect]
  · rw [exec_pageFetchTimeout, execPageFetchTimeout]
    refine act_of hon ?_
    simp [hr, hactive, hfetching, hinstalling, Dev.due, hdue, Dev.when]
  · rw [exec_recoveryRetry, execRecoveryRetry]
    refine act_of hon ?_
    simp [hr, hactive, Dev.due, hdue, Dev.when, startRecovery]

end Sys2Proof.Machine
end

section
/-! Prefetch of tier-2 pages: what leaves the queue is not issued, even when room made for another prefetch releases the
copy it had (R168, R169). -/

namespace Sys2Proof.Machine

/-- The keys of the prefetch copies in the state that a command answers. -/
def copiesAfter : Out → List Nat
  | .next t => t.dev.obj.copies.map (·.key)
  | _ => []

/-- A powered node that holds object 5 of tenant 7 on slice 0. The first two pages of its layer 0, of one and two frames,
are sealed in tier 2; the first has a prefetch copy. All of the prefetch area but that copy and one free frame beside it
is in use. A prefetch of the second page is queued before one of the first. -/
def copyReleased : State :=
  { dev := {
      dies := { st := [(0, .ready), (Config.clover, .ready)] }
      hif := { link := .full }
      regs := { nodeId := 0x2E11 }
      mbr := { compositions := [(2, { id := 9, tenant := 7, slices := [0] })] }
      obj := {
        objs := [(mkObj 7 5, { format := 0, tCode := 0, hkv := 2, dCode := 0, layers := 2, composition := 9, home := 0x2E11
                               groups := [(0, 0)]
                               shards := [(0, { isOpen := true, primary := some 0x2E11, tail := some 0x2E11, state := 1 })] })]
        pathUp := true
        extents := [(0, 40960000)]
        pages := [(mkKey 7 5 0 0, { frame := 100, count := 1, tier := 2, state := .sealed, refs := 1 }),
          (mkKey 7 5 0 1, { frame := 200, count := 2, tier := 2, state := .sealed, refs := 1 })]
        prefetchArea := [(0, [2])]
        runs := [(runKey 1 (2 * granFrames + 1), { count := 1, tenant := 7, use := .copy 0 }),
          (runKey 1 (2 * granFrames + 2), { count := granFrames - 2, tenant := 7, use := .load 0 }),
          (runKey 2 100, { count := 1, tenant := 7, use := .image (mkKey 7 5 0 0) }),
          (runKey 2 200, { count := 2, tenant := 7, use := .image (mkKey 7 5 0 1) })]
        copies := [{ id := 0, key := mkKey 7 5 0 0, srcFrame := 100, srcTier := 2, frame := 2 * granFrames + 1, count := 1
                     asked := { tenantObject := mkObj 7 5, key := mkKey 7 5 0 0, stage := false, near := 1 }
                     arrived := true, ready := true }]
        nextCopy := 1
        prefetch := [(0, [{ tenantObject := mkObj 7 5, key := mkKey 7 5 0 1, stage := false, near := 1 },
          { tenantObject := mkObj 7 5, key := mkKey 7 5 0 0, stage := false, near := 1 }])] } } }

/-- The first page's prefetch is over and leaves the queue; the second page's releases the copy and still finds no two
frames free, for a released run is free only once it is scrubbed. Nothing is issued. -/
theorem prefetchReadIssue_copyReleased : copiesAfter (exec (.prefetchReadIssue 0) copyReleased) = [] := by
  decide +kernel

/-- Refutes O31: clause (7) picks from the queue as it was before what is over was dropped. When room made for one
prefetch releases the copy of another page, that page's prefetch, which was over, is picked there and copies the page
again; PREFETCH_READ_ISSUE has dropped it and issues nothing. -/
theorem not_tierAndPrefetch : ¬ Obligations.TierAndPrefetch := by
  unfold Obligations.TierAndPrefetch
  rintro ⟨-, -, -, -, -, -, hissue, -⟩
  have hcopies := congrArg copiesAfter (hissue copyReleased 0 (by decide +kernel) (by decide +kernel)
    (by decide +kernel) (by decide +kernel))
  rw [prefetchReadIssue_copyReleased] at hcopies
  exact absurd hcopies (by decide +kernel)

end Sys2Proof.Machine
end

section
/-! The arithmetic of attention: the partials of tree nodes (R74, R79 to R81) and the refusal of a bad SCORE_SCALE
(R70). -/

namespace Sys2Proof.Machine

/-! ### Tree nodes -/

/-- R79: of two empty partials the merge is the right one. -/
theorem mergePartial_empty_empty (dim : Nat) :
    mergePartial (emptyPartial dim) (emptyPartial dim) = emptyPartial dim := by
  have hnan : (emptyPartial dim).isNaN = false := rfl
  have hempty : (emptyPartial dim).isEmpty = true := rfl
  simp [mergePartial, hnan, hempty]

theorem foldl_mergePartial_of_all_empty {dim : Nat} {ps : List Partial} (h : ∀ p ∈ ps, p = emptyPartial dim) :
    ps.foldl mergePartial (emptyPartial dim) = emptyPartial dim := by
  induction ps with
  | nil => rfl
  | cons p ps ih =>
    obtain ⟨rfl, hps⟩ := List.forall_mem_cons.mp h
    rw [List.foldl_cons, mergePartial_empty_empty, ih hps]

/-- R80: a page group whose pages are all empty for a row folds to the empty partial. -/
theorem foldPartials_of_all_empty {dim : Nat} {ps : List Partial} (h : ∀ p ∈ ps, p = emptyPartial dim) :
    foldPartials dim ps = emptyPartial dim := by
  cases ps with
  | nil => rfl
  | cons p ps =>
    obtain ⟨rfl, hps⟩ := List.forall_mem_cons.mp h
    exact foldl_mergePartial_of_all_empty hps

/-- A group that lies under a child of a tree node lies under the node. -/
theorem div_two_pow_succ_of_div {g k i j : Nat} (hg : g / 2 ^ k = j) (hj : j / 2 = i) : g / 2 ^ (k + 1) = i := by
  rw [Nat.pow_succ, ← Nat.div_div_eq_div_mul, hg, hj]

/-- A tree node is empty when every page group under it is. -/
theorem treeValue_of_all_empty {dim : Nat} {group : Nat → Partial} {k i : Nat}
    (h : ∀ g, g / 2 ^ k = i → group g = emptyPartial dim) : treeValue dim group k i = emptyPartial dim := by
  induction k generalizing i with
  | zero => exact h i (by simp)
  | succ k ih =>
    have hleft := ih (i := 2 * i) fun g hg => h g (div_two_pow_succ_of_div hg (by omega))
    have hright := ih (i := 2 * i + 1) fun g hg => h g (div_two_pow_succ_of_div hg (by omega))
    rw [treeValue, hleft, hright, mergePartial_empty_empty]

/-- The rows of a node above the page groups are the merges of its children's, left child first. -/
theorem nodeRows_succ (c : Ctx) (rows dim k i : Nat) :
    nodeRows c rows dim (k + 1) i =
      List.zipWith mergePartial (nodeRows c rows dim k (2 * i)) (nodeRows c rows dim k (2 * i + 1)) := by
  simp [nodeRows, treeValue]

/-- A node is empty in every row in which each page under it is. -/
theorem nodeRows_of_all_empty {c : Ctx} {rows dim k i : Nat}
    (h : ∀ p ∈ c.partials, p.1 / 16 / 2 ^ k = i → ∀ r < rows, p.2.getD r (emptyPartial dim) = emptyPartial dim) :
    nodeRows c rows dim k i = List.replicate rows (emptyPartial dim) := by
  refine List.eq_replicate_iff.mpr ⟨by simp [nodeRows], fun x hx => ?_⟩
  obtain ⟨r, hr, rfl⟩ := List.mem_map.mp hx
  refine treeValue_of_all_empty fun g hg => foldPartials_of_all_empty fun x hx => ?_
  obtain ⟨p, hp, rfl⟩ := List.mem_map.mp hx
  obtain ⟨hmem, hgroup⟩ := List.mem_filter.mp hp
  have hunder : p.1 / 16 / 2 ^ k = i := by rw [eq_of_beq hgroup, hg]
  exact h p hmem hunder r (List.mem_range.mp hr)

/-- Settles O53: a node's rows follow the recursion of its value, and empty partials merge to the empty one. -/
theorem treeNodes : Obligations.TreeNodes := by
  unfold Obligations.TreeNodes
  exact fun c rows dim k i => ⟨nodeRows_succ c rows dim k i, nodeRows_of_all_empty⟩

/-! ### SCORE_SCALE -/

/-- A lease's renewal leaves the requests as they are. -/
@[simp] theorem Dev.onSlot_request (d : Dev) (i : Nat) (f : Slot → Slot) (j : Nat) :
    (d.onSlot i f).request j = d.request j := rfl

/-- R70: a scale that is negative, zero, subnormal, infinite or NaN is no good one. -/
theorem scaleOk_eq_false {x : Nat} (h : 2 ^ 31 ≤ x ∨ x / 2 ^ 23 % 256 = 0 ∨ x / 2 ^ 23 % 256 = 255) :
    scaleOk x = false := by
  have hexp : bitsOf x 23 8 = x / 2 ^ 23 % 256 := rfl
  rcases h with h | h | h
  · rw [scaleOk, decide_eq_false (Nat.not_lt.mpr h), Bool.false_and, Bool.false_and]
  · rw [scaleOk, hexp, h, bne_self_eq_false, Bool.and_false, Bool.false_and]
  · rw [scaleOk, hexp, h, bne_self_eq_false, Bool.and_false]

/-- On a slot with no request running, the second part of Table 04-5 fails a bad scale at its check 7. -/
theorem firstFail_requestChecks2_of_scale {d : Dev} {b : Bytes} (hidle : d.request (aqSlot b % 65536) = none)
    (hscale : scaleOk (fld b 0x28 4) = false) : firstFail (requestChecks2 d b) = some St.fieldInvalid := by
  simp [requestChecks2, firstFail, hidle, hscale]

/-- A request that fails the second part of Table 04-5 renews its slot's lease and is refused (R98, R104). -/
theorem requestOp_of_fail2 {k : Chip} {b : Bytes} {w : Sender} {back : Back} {arrived st : Nat} {outLen : Option Nat}
    (hpass : firstFail (requestChecks1 k.dev b w) = none)
    (hfail : firstFail (requestChecks2 (k.dev.onSlot (aqSlot b % 65536) fun x =>
      { x with leaseAt := max x.leaseAt arrived, guardAt := none }) b) = some st) :
    requestOp k b w back arrived outLen false =
      refuseRequest (k.dev.onSlot (aqSlot b % 65536) fun x =>
        { x with leaseAt := max x.leaseAt arrived, guardAt := none }) b w.tenant back st arrived := by
  simp [requestOp, hpass, hfail]

/-- R70: a request with a bad scale, on a slot with none running, is refused with FIELD_INVALID. -/
theorem requestOp_of_scale {k : Chip} {b : Bytes} {w : Sender} {back : Back} {arrived : Nat} {outLen : Option Nat}
    (hpass : firstFail (requestChecks1 k.dev b w) = none) (hidle : k.dev.request (aqSlot b % 65536) = none)
    (hscale : scaleOk (fld b 0x28 4) = false) :
    requestOp k b w back arrived outLen false =
      refuseRequest (k.dev.onSlot (aqSlot b % 65536) fun x =>
        { x with leaseAt := max x.leaseAt arrived, guardAt := none }) b w.tenant back St.fieldInvalid arrived :=
  requestOp_of_fail2 hpass (firstFail_requestChecks2_of_scale (by rwa [Dev.onSlot_request]) hscale)

/-- R437: a local command whose MSG_TYPE and output length pass is set running and has its effect. -/
theorem actRead_localOp {s : State} {ring index kind type need : Nat} {c : Cmd} {f : Chip → Cmd → Dev} {d : Dev}
    (hon : s.dev.on = true) (hready : s.dev.cmdReady ring index 0x1D = some c) (hkind : fld c.desc 0x10 1 = kind)
    (hpass : localChecks c type need = none)
    (h : f (s.chip.onDev fun d => d.onCmd ring index fun x => { x with phase := .running }) c = d) :
    (s.actRead fun k => localOp k ring index kind type need f) = .next (s.withDev d) := by
  refine actRead_of hon ?_
  simp [localOp, hready, hkind, hpass, h]

/-- Settles O54: the scale is part of check 7 of Table 04-5, whichever way the request came. -/
theorem scaleRefused : Obligations.ScaleRefused := by
  unfold Obligations.ScaleRefused
  refine fun s hon => ⟨fun msg m hmsg hstale hpass hidle hscale => ?_,
    fun ring index c hready hkind htype hpass hidle hscale => ?_⟩
  · have hrefused := requestOp_of_scale (k := s.chip.onDev fun d => d.take msg) (back := backOf m) (arrived := m.at_)
      (outLen := none) hpass hidle (scaleOk_eq_false hscale)
    rw [exec_attnRequest, execAttnRequest, actRead_onMsgRead hon hmsg, hstale, hrefused]
    rfl
  · have hlocal : localChecks c 0x23 0 = none := by simp [localChecks, firstFail, htype]
    rw [exec_localRequest, execLocalRequest]
    exact actRead_localOp hon hready hkind hlocal (requestOp_of_scale hpass hidle (scaleOk_eq_false hscale))

end Sys2Proof.Machine
end

section
/-! The engines of attention: the rows that TREE_NODE_EMIT gives (R81, R119). -/

namespace Sys2Proof.Machine

/-- How many rows each part of each listed request has emitted, in the state that a command answers. -/
def emittedRows : Out → List (List (Option Nat))
  | .next t => t.dev.attn.requests.map fun q => q.2.parts.map fun p => p.rows.map List.length
  | _ => []

/-- A context with no page left to resolve, of KV head 0 on die 0. -/
def walkedCtx : Ctx := { die := 0, head := 0, todo := [] }

/-- The part of node 0 of level 0, not emitted yet. -/
def firstPart : Part := { die := 0, head := 0, level := 0, index := 0 }

/-- A dense request with that context and that part, whose body gives so many query tokens and a group of one. -/
def walkedRequest (tokens : Byte) : Request :=
  { serial := 0, body := setAt (zeros 96) 0xB [tokens, 1], back := { conn := 0 }, arrived := 0, deadline := 1000, epoch := 0
    composition := 0, ctxs := [walkedCtx], parts := [firstPart] }

/-- A powered node whose table of requests lists slot 0 twice: a request of one query token, and one of none. -/
def slotListedTwice : State :=
  { dev := { attn := { requests := [(0, walkedRequest 1), (0, walkedRequest 0)] } } }

/-- TREE_NODE_EMIT forms the rows from the request found at the slot, and both entries get that one row. -/
theorem treeNodeEmit_slotListedTwice :
    emittedRows (exec (.treeNodeEmit 0 0) slotListedTwice) = [[some 1], [some 1]] := by
  decide +kernel

/-- Refutes O24: clause (8) forms a part's rows from the body of each entry that it changes, where TREE_NODE_EMIT forms
them once, from the request found at the slot. The two agree where the table lists the slot once, which the clause does
not ask: where it is listed twice they differ. -/
theorem not_attentionEngines : ¬ Obligations.AttentionEngines := by
  unfold Obligations.AttentionEngines
  rintro ⟨-, -, -, -, -, -, -, hemit, -⟩
  have hrows := congrArg emittedRows (hemit slotListedTwice 0 0 (walkedRequest 1) firstPart walkedCtx (by decide +kernel)
    (by decide +kernel) (by decide +kernel) (by decide +kernel) (by decide +kernel) (by decide +kernel)
    (by decide +kernel) (by decide +kernel))
  rw [treeNodeEmit_slotListedTwice] at hrows
  exact absurd hrows (by decide +kernel)

end Sys2Proof.Machine
end

section
/-! Jobs of row operations and local attention commands (R94, R95, R97, R211, R214, R437). -/

namespace Sys2Proof.Machine

/-- R437: a local command whose MSG_TYPE is not of its kind fails its first check. -/
theorem actRead_localOp_of_type {s : State} {ring index kind type need : Nat} {c : Cmd} {f : Chip → Cmd → Dev}
    (hon : s.dev.on = true) (hready : s.dev.cmdReady ring index 0x1D = some c) (hkind : fld c.desc 0x10 1 = kind)
    (htype : fld c.buf 0 1 ≠ type) :
    (s.actRead fun k => localOp k ring index kind type need f) =
      .next (s.withDev (cmdFail s.dev ring index St.fieldInvalid 0x10)) := by
  have hfail : localChecks c type need = some (St.fieldInvalid, 0x10) := by simp [localChecks, firstFail, htype]
  refine actRead_of hon ?_
  simp [localOp, hready, hkind, hfail]

/-- R437: a body of the wanted type, with room for the reply, passes a local command's own checks. -/
theorem localChecks_of_fits {c : Cmd} {type need : Nat} (htype : fld c.buf 0 1 = type)
    (hroom : need ≤ fld c.desc 0x30 4) : localChecks c type need = none := by
  simp [localChecks, firstFail, htype, hroom]

/-- Settles O18: a job's checks are its tenant's and Table 08-4's, and a local command that passes its own has the effect
of the message it stands for. -/
theorem localCommands : Obligations.LocalCommands := by
  unfold Obligations.LocalCommands
  refine ⟨fun s ring index c hon hready htenant hpass => ?_, fun s ring index c hon hready htenant => ?_,
    fun s ring index c hon hready hkind htype hroom => ?_, fun s ring index c hon hready hkind htype => ?_,
    fun s ring index c hon hready hkind htype hroom => ?_, fun s ring index c hon hready hkind htype => ?_⟩
  · rw [exec_bankopJob, execBankopJob]
    refine act_of hon ?_
    simp [hready, htenant, firstFail, hpass]
  · rw [exec_bankopJob, execBankopJob]
    refine act_of hon ?_
    simp [hready, htenant, firstFail, St.tenantMismatch]
  · rw [exec_localReserve, execLocalReserve]
    exact actRead_localOp hon hready hkind (localChecks_of_fits htype hroom) rfl
  · rw [exec_localRequest, execLocalRequest]
    exact actRead_localOp hon hready hkind (localChecks_of_fits htype (Nat.zero_le _)) rfl
  · rw [exec_localRelease, execLocalRelease]
    exact actRead_localOp hon hready hkind (localChecks_of_fits htype hroom) rfl
  · rw [exec_localRequest, execLocalRequest]
    exact actRead_localOp_of_type hon hready hkind htype

end Sys2Proof.Machine
end

section
/-! Admission: reservations, their replies and leases, and requests (R94, R97 to R100, R104, R105, R166, R376). -/

namespace Sys2Proof.Machine

/-- A message of the wanted type is acted on by a command that changes only the device, and leaves the inbox. -/
theorem act_onMsg {s : State} {msg type : Nat} {m : Inb} {f : Dev → Inb → Dev} (hon : s.dev.on = true)
    (hmsg : s.dev.msg msg type = some m) :
    (s.act fun d => onMsg d msg type f) = .next (s.withDev (f (s.dev.take msg) m)) := by
  refine act_of hon ?_
  rw [onMsg, hmsg]

/-- A message that is taken up leaves attention as it is. -/
@[simp] theorem Dev.take_attn (d : Dev) (id : Nat) : (d.take id).attn = d.attn := rfl

/-- A reservation that fails a check other than its tenant's is answered with the check's status and the request's tag,
and nothing more. -/
theorem reserveOp_of_fail {d : Dev} {b : Bytes} {w : Sender} {st : Nat}
    (hfail : firstFail (reserveChecks d b w) = some st) (htenant : st ≠ St.tenantMismatch) (back : Back) :
    reserveOp d b w back false = answer d back st (reserveReply st 0 0 (fld b 0x1C 4) 0 0 0) := by
  simp [reserveOp, hfail, htenant]

/-- R376: a reply that names no reservation of the node's own is stray. -/
theorem ownReply_of_stray {d : Dev} {b : Bytes} (hown : d.attn.own.any (·.requestId == fld b 4 4) = false) :
    ownReply d b = d.onTr fun x => { x with strayReplies := x.strayReplies + 1 } :=
  if_neg (ne_true_of_eq_false hown)

/-- R376: the reply of success to an own reservation gives it its slot's handle. -/
theorem ownReply_of_ok {d : Dev} {b : Bytes} (hown : d.attn.own.any (·.requestId == fld b 4 4) = true)
    (hok : fld b 1 1 = St.ok) (hreserve : bitOf (fld b 2 1) 0 = false) :
    ownReply d b = d.onAttn fun x =>
      { x with own := modWhere (·.requestId == fld b 4 4) (fun o => { o with handle := some (fld b 8 4) }) x.own } := by
  simp [ownReply, hown, hok, hreserve]

/-- R98: a guard that has run out on a slot with no request frees the slot. -/
theorem execSlotGuardExpiry_of_due {s : State} {slot g : Nat} (hon : s.dev.on = true)
    (hguard : (s.dev.slot slot).guardAt = some g) (hidle : s.dev.request slot = none) (hdue : g + 10000000 ≤ s.dev.now) :
    execSlotGuardExpiry slot s = .next (s.withDev (freeSlot s.dev slot)) := by
  rw [execSlotGuardExpiry]
  refine act_of hon ?_
  simp [hguard, hidle, Dev.due, hdue]

/-- Forgetting prefetch states leaves attention as it is (R166). -/
@[simp] theorem forgetLayers_attn (d : Dev) (obj : Nat) : (forgetLayers d obj).attn = d.attn := by
  unfold forgetLayers
  split
  · rfl
  · rfl

/-- A slot's change to what no slot is at reset is what is read there. -/
theorem slot_onSlot_of_ne {d : Dev} {i : Nat} {f : Slot → Slot} (h : f (d.slot i) ≠ {}) :
    (d.onSlot i f).slot i = f (d.slot i) := tget_tput_new h

/-- R98, R99: of a freed slot nothing is left but its generation, one on. -/
theorem freeSlot_slot (d : Dev) (i : Nat) : (freeSlot d i).slot i = { gens := (d.slot i).gens + 1 } := by
  have hfreed : (freeSlot d i).slot i = (d.onSlot i fun s => { gens := s.gens + 1 }).slot i := by
    simp [freeSlot, Dev.slot]
  exact hfreed.trans (slot_onSlot_of_ne (by simp))

/-- Freeing a slot changes no request. -/
theorem freeSlot_requests (d : Dev) (i : Nat) : (freeSlot d i).attn.requests = d.attn.requests := by
  simp [freeSlot, Dev.onSlot]

/-- Settles O23: each message is taken up by its operation, and each expiry's guard holds. -/
theorem attentionAdmission : Obligations.AttentionAdmission := by
  unfold Obligations.AttentionAdmission
  refine ⟨fun s msg m hon hmsg => ?_, fun s msg st m hon hmsg hstale hfail htenant => ?_,
    fun s msg m hon hmsg => ?_, fun s msg m hon hmsg hown => ?_, fun s msg m hon hmsg hown hok hreserve => ?_,
    fun s slot hon hreserved hidle hguard hdue => ?_, fun s slot g hon hguard hidle hdue => ?_,
    fun s slot g hon hguard hidle hdue => ?_, fun s msg m hon hmsg => ?_⟩
  · rw [exec_attnReserve, execAttnReserve]
    exact act_onMsg hon hmsg
  · rw [exec_attnReserve, execAttnReserve, act_onMsg hon hmsg, hstale, reserveOp_of_fail hfail htenant]
  · rw [exec_attnRelease, execAttnRelease]
    exact act_onMsg hon hmsg
  · rw [exec_attnReserveReply, execAttnReserveReply, act_onMsg hon hmsg, ownReply_of_stray (by rwa [Dev.take_attn])]
  · rw [exec_attnReserveReply, execAttnReserveReply, act_onMsg hon hmsg,
      ownReply_of_ok (by rwa [Dev.take_attn]) hok hreserve]
  · rw [exec_slotLeaseExpiry, execSlotLeaseExpiry]
    refine act_of hon ?_
    simp [hreserved, hidle, hguard, Dev.due, hdue]
  · rw [exec_slotGuardExpiry]
    exact execSlotGuardExpiry_of_due hon hguard hidle hdue
  · rw [exec_slotGuardExpiry, execSlotGuardExpiry_of_due hon hguard hidle hdue]
    exact ⟨_, rfl, freeSlot_slot s.dev slot, freeSlot_requests s.dev slot, rfl, rfl, rfl⟩
  · rw [exec_attnRequest, execAttnRequest]
    exact actRead_onMsgRead hon hmsg

end Sys2Proof.Machine
end

section
/-! Reads of host memory and of tier 2 that end, and the path to tier 2 (R154, R165, R173, R399, R400, R494). -/

namespace Sys2Proof.Machine

/-! ### Commands with power that may write fuses or flash -/

/-- With power a command that may write fuses or flash leaves what its operation gives. -/
theorem actNv_of {s : State} {f : Root → Root} {r : Root} (hon : s.dev.on = true) (h : f ⟨s.nv, s.dev⟩ = r) :
    s.actNv f = .next (s.withRoot r) := by
  subst h
  exact State.actNv_on hon f

/-! ### Reads of host memory -/

/-- Outside recovery no module reset follows a command (R494). -/
theorem recovered_of_not_recovery {s : State} (hmode : s.dev.boot.mode ≠ .recovery) : s.recovered = s :=
  if_neg fun h => hmode h.1

/-- What the host answers to an outstanding read ends it, and a staged image ends recovery (R399, R494). -/
theorem execCxlIoReadComplete_of_read {s : State} {id : Nat} {q : IoRead} (hon : s.dev.on = true)
    (hread : s.dev.hif.reads.find? (fun r => r.id == id) = some q) (hup : s.dev.hostUp = true) (ok : Bool)
    (data : Bytes) :
    execCxlIoReadComplete id ok data s = .next (s.withRoot (ioEnd ⟨s.nv, s.dev⟩ q ok data)).recovered := by
  simp [execCxlIoReadComplete, hread, hon, hup, State.withRoot]

/-- The bytes of a command's buffer make a command that waits for them ready (R400). -/
theorem bufferArrive_of_reading {d : Dev} {ring index : Nat} {c : Cmd} (hcmd : d.cmd ring index = some c)
    (hreading : c.phase = .reading) (data : Bytes) :
    bufferArrive d ring index true data = d.onCmd ring index fun c => { c with phase := .ready, buf := data } := by
  simp [bufferArrive, hcmd, hreading]

/-- The end of a sound read of a command's buffer takes the read off the list and makes the command ready (R400). -/
theorem ioEnd_of_command {r : Root} {q : IoRead} {ring index : Nat} {c : Cmd}
    (hpurpose : q.purpose = .command ring index) (hcmd : r.dev.cmd ring index = some c)
    (hreading : c.phase = .reading) (data : Bytes) :
    ioEnd r q true data =
      ⟨r.nv, (r.dev.onHif fun h => { h with reads := dropWhere (fun r => r.id == q.id) h.reads }).onCmd ring index
        fun c => { c with phase := .ready, buf := padTo q.len data }⟩ := by
  have harrive := bufferArrive_of_reading
    (d := r.dev.onHif fun h => { h with reads := dropWhere (fun r => r.id == q.id) h.reads }) hcmd hreading
    (padTo q.len data)
  simp only [ioEnd, hpurpose, harrive]

/-! ### The path to tier 2 -/

/-- Without CXL there is no path to tier 2, whatever the switch reports (Table 06-5). -/
theorem tier2Up_of_not_cxlUp {d : Dev} (h : d.cxlUp = false) : tier2Up d = false := by
  rw [tier2Up, h, Bool.and_false]

/-- A change that neither finds nor leaves a path to tier 2 has no further effect (R173). -/
theorem withPath_of_down {k : Chip} {f : Dev → Dev} (hbefore : tier2Up k.dev = false)
    (hafter : tier2Up (f k.dev) = false) : withPath k f = k.onDev f := by
  simp [withPath, Chip.onDev, hbefore, hafter]

/-! ### The commands -/

/-- Settles O8: each command finds its read or its move and its guard holds, and what it does is then the branch
named. -/
theorem hostReads : Obligations.HostReads := by
  unfold Obligations.HostReads
  refine ⟨fun s id ok data q hon hread hup => ?_,
    fun s id ring index ok data q c hon hread hup hpurpose hcmd hreading hok hmode => ?_,
    fun s id q hon hread hdue => ?_, fun s id ok data r hon hread hok => ?_, fun s id ok data r hon hread hok => ?_,
    fun s id r hon hread hdue => ?_, fun s move f n ok m hon hmove hdst hwrites harrived hok => ?_,
    fun s up hon => ?_, fun s up hon hcxl => ?_⟩
  · exact execCxlIoReadComplete_of_read hon hread hup ok data
  · subst hok
    have hfirmware : s.dev.boot.mode ≠ .recovery := by simp [hmode]
    rw [exec_cxlIoReadComplete, execCxlIoReadComplete_of_read hon hread hup,
      ioEnd_of_command hpurpose hcmd hreading]
    exact congrArg _ (recovered_of_not_recovery hfirmware)
  · rw [exec_cxlIoReadTimeout, execCxlIoReadTimeout]
    refine actNv_of hon ?_
    simp [hread, hdue]
  · rw [exec_uioReadComplete, execUioReadComplete]
    refine actMem_of hon ?_
    simp [hread, hok, Config.clover]
  · rw [exec_uioReadComplete, execUioReadComplete]
    refine actMem_of hon ?_
    simp [hread, hok, Config.clover]
  · rw [exec_tier2ReadTimeout, execTier2ReadTimeout]
    refine actMem_of hon ?_
    simp [hread, hdue, Chip.when]
  · rw [exec_uioWriteComplete, execUioWriteComplete]
    refine act_of hon ?_
    simp [hmove, hdst, hwrites, harrived, hok, Config.clover]
  · rw [exec_tier2PathChange, execTier2PathChange]
    exact actMem_of hon rfl
  · have hafter : tier2Up (s.dev.onObj fun x => { x with pathUp := up }) = false := tier2Up_of_not_cxlUp hcxl
    rw [exec_tier2PathChange, execTier2PathChange,
      actMem_of hon (withPath_of_down (tier2Up_of_not_cxlUp hcxl) hafter)]
    rfl

end Sys2Proof.Machine
end

section
/-! Tier 1 under every command: which commands leave it as it was, that every step keeps its canonical form, where a
command stops, and what a store of the node's engines writes (R176, R201, R392, R395, R467, R546). -/

namespace Sys2Proof.Machine

/-! ### Commands that neither store nor reset -/

/-- The form that every guarded command which leaves tier 1 alone takes: act, actRead and actNv. -/
theorem mem_of_next_if_on {s t u : State} (h : (.next (if s.dev.on then u else s) : Out) = .next t)
    (hu : u.mem = s.mem) : t.mem = s.mem := by
  injection h with h
  subst h
  split
  · exact hu
  · rfl

/-- A burst read counts and reports; it stores nothing. -/
theorem execMemoryReadComplete_mem {s t : State} {burst : Nat} {error : Bytes} {reader : Reader}
    (h : execMemoryReadComplete burst error reader s = .next t) : t.mem = s.mem := by
  unfold execMemoryReadComplete at h
  split at h
  · cases h
  · exact (State.act_frame h).1

/-- The commands of neither list write no byte of tier 1. -/
theorem exec_mem_of_no_store {i : Instr} {s t : State} (hstore : storeRow i = false) (hreset : resetRow i = false)
    (h : exec i s = .next t) : t.mem = s.mem := by
  cases i
  case dieReadyTimeout | dieReportReady | tier2Extents | dieLost | selfRefreshTimeout | dieResetRelease
      | memEnableComplete | perstAssert | hostLinkDown | hostLinkUp | nodeDrain | hostHdmRead | hostHdmWrite | hostBirsp
      | backInvalidateTimeout | uioReadComplete | tier2ReadTimeout | tier2PathChange | granuleKindChangeDone
      | drainStepBound | drainComplete | tableEdit | holeRepair | prefixLookup | prefixCopyScan | forkCopyDone
      | attnPartial | append | appendMirrorCopy | appendDeadline | heldAppendRelease | sealComplete | rmaWrite
      | pageImage | migrationMove | freedRunScrub | rowOpComplete | partialBurstWrite | matchScrub
      | matchEnableDone => cases hstore
  case inputPowerOff | inputOvercurrent | surpriseRemoval | softStartDone | thermalTrip | selfHealWatchdog | restart
      | registerWrite | recoveryImageAccept | pldmVerifyComplete | cxlIoReadComplete => cases hreset
  case inputPowerOn | overvoltageRecover | presenceDetect =>
    injection h with h
    subst h
    rfl
  case memoryReadComplete => exact execMemoryReadComplete_mem h
  all_goals exact mem_of_next_if_on h rfl

/-- Settles O42: every command of neither list acts on the device, the fuses or the flash alone. -/
theorem tier1Frame : Obligations.Tier1Frame := by
  unfold Obligations.Tier1Frame
  intro i s t hstore hreset h
  have hmem : t.mem = s.mem := exec_mem_of_no_store hstore hreset h
  exact ⟨hmem, fun a => by rw [hmem]⟩

/-! ### Outcomes that keep the canonical form -/

theorem Keeps.of_next {t : State} {p : State → Prop} (h : p t) : Keeps (.next t) p := by
  intro u hu
  injection hu with hu
  exact hu ▸ h

theorem Keeps.of_fault {r : Fault} {p : State → Prop} : Keeps (.fault r) p := by
  intro t h
  cases h

/-- A command that acts only under a condition keeps what both its outcomes keep. -/
theorem Keeps.ite {c : Prop} [Decidable c] {o o' : Out} {p : State → Prop} (ho : Keeps o p) (ho' : Keeps o' p) :
    Keeps (if c then o else o') p := by
  split <;> assumption

section

variable {s : State}

theorem act_memOk (hs : s.MemOk) (f : Dev → Dev) : Keeps (s.act f) State.MemOk := by
  intro t h
  exact (congrArg Memory.wf (State.act_frame h).1).trans hs

theorem actNv_memOk (hs : s.MemOk) (f : Root → Root) : Keeps (s.actNv f) State.MemOk := by
  intro t h
  exact (congrArg Memory.wf (State.actNv_frame h).1).trans hs

/-- A command that may write tier 1 keeps its form when its operation does. -/
theorem actMem_memOk (hs : s.MemOk) {f : Chip → Chip} (hf : ∀ k : Chip, k.MemOk → (f k).MemOk) :
    Keeps (s.actMem f) State.MemOk :=
  fun _ h => State.actMem_memOk h hs hf

/-- The same for a command that acts only under a condition. -/
theorem actMem_when_memOk (hs : s.MemOk) {c : Chip → Bool} {f : Chip → Chip → Chip}
    (hf : ∀ k₀ k : Chip, k.MemOk → (f k₀ k).MemOk) : Keeps (s.actMem fun k => k.when (c k) (f k)) State.MemOk :=
  actMem_memOk hs fun k₀ hk => when_memOk hk (hf k₀)

/-! ### Commands that may reset the module -/

/-- A module reset clears tier 1. -/
theorem moduleReset_memOk (s : State) : s.moduleReset.MemOk := rfl

theorem recovered_memOk {s : State} (hs : s.MemOk) : s.recovered.MemOk := by
  unfold State.recovered
  split
  · exact moduleReset_memOk s
  · exact hs

/-- Without power tier 1 holds nothing (R467). -/
theorem powerDown_memOk (s : State) (f : Power → Power) : Keeps (s.powerDown f) State.MemOk := .of_next rfl

theorem execInputPowerOff_memOk (hs : s.MemOk) (cv gap : Nat) : Keeps (execInputPowerOff cv gap s) State.MemOk :=
  .ite (powerDown_memOk s _) (.ite (powerDown_memOk s _) (.ite (powerDown_memOk s _) (.of_next hs)))

theorem execRestart_memOk (hs : s.MemOk) : Keeps (execRestart s) State.MemOk := by
  refine .ite (.of_next ?_) (.of_next hs)
  split
  · exact moduleReset_memOk s
  · exact hs

theorem execRegisterWrite_memOk (hs : s.MemOk) (offset : Nat) (value : BitVec 64) (size : Nat) :
    Keeps (execRegisterWrite offset value size s) State.MemOk := by
  unfold execRegisterWrite
  split
  · split
    · exact actNv_memOk hs _
    · exact actNv_memOk hs _
    · exact actNv_memOk hs _
    · exact execRestart_memOk hs
    · exact act_memOk hs _
  · exact act_memOk hs _

theorem execCxlIoReadComplete_memOk (hs : s.MemOk) (id : Nat) (ok : Bool) (data : Bytes) :
    Keeps (execCxlIoReadComplete id ok data s) State.MemOk := by
  unfold execCxlIoReadComplete
  split
  · exact .of_next hs
  · exact .ite (.of_next (recovered_memOk hs)) (.of_next hs)

theorem execThermalTrip_memOk (hs : s.MemOk) (die : Nat) : Keeps (execThermalTrip die s) State.MemOk := by
  refine .ite (.ite (powerDown_memOk s _) (.of_next hs)) (actMem_memOk hs fun k hk => ?_)
  exact when_memOk (onDev_memOk hk _) fun k hk => dieLostOp_memOk hk die

/-- A command that may reset the module keeps tier 1 or clears it. -/
theorem exec_memOk_of_resetRow {i : Instr} (hrow : resetRow i = true) (hs : s.MemOk) :
    Keeps (exec i s) State.MemOk := by
  cases i
  case inputPowerOff => exact execInputPowerOff_memOk hs _ _
  case inputOvercurrent => exact .ite (powerDown_memOk s _) (.of_next hs)
  case surpriseRemoval => exact .of_next rfl
  case softStartDone => exact .ite (.of_next (moduleReset_memOk s)) (.of_next hs)
  case thermalTrip => exact execThermalTrip_memOk hs _
  case selfHealWatchdog =>
    refine .of_next ?_
    split
    · exact moduleReset_memOk s
    · exact hs
  case restart => exact execRestart_memOk hs
  case registerWrite => exact execRegisterWrite_memOk hs _ _ _
  case recoveryImageAccept => exact .ite (.of_next (recovered_memOk hs)) (.of_next hs)
  case pldmVerifyComplete => exact .ite (.of_next (recovered_memOk hs)) (.of_next hs)
  case cxlIoReadComplete => exact execCxlIoReadComplete_memOk hs _ _ _
  all_goals cases hrow

/-! ### Commands that may store -/

theorem execDieResetRelease_memOk (hs : s.MemOk) (die : Nat) : Keeps (execDieResetRelease die s) State.MemOk := by
  refine actMem_memOk hs fun k hk => when_memOk hk fun k hk => onDev_memOk ?_ _
  split
  · exact teaselRefill_memOk hk die
  · exact hk

theorem execSelfRefreshTimeout_memOk (hs : s.MemOk) (die : Nat) : Keeps (execSelfRefreshTimeout die s) State.MemOk :=
  actMem_memOk hs fun _ hk => when_memOk hk fun _ hk => onDev_memOk (restoreCopies_memOk (zeroNow_memOk hk _ _) die) _

theorem execHostHdmRead_memOk (hs : s.MemOk) (addr : Nat) : Keeps (execHostHdmRead addr s) State.MemOk := by
  refine .ite .of_fault (actMem_memOk hs fun k hk => ?_)
  dsimp only
  split_ifs
  · exact hk
  · exact onDev_memOk hk _
  · exact hostRead_memOk hk _
  · exact onDev_memOk hk _

theorem execHostHdmWrite_memOk (hs : s.MemOk) (addr : Nat) (data : Bytes) (keep : Bool) :
    Keeps (execHostHdmWrite addr data keep s) State.MemOk := by
  refine .ite .of_fault (actMem_memOk hs fun k hk => ?_)
  have hwritten := hostWrite_memOk hk (addr / 64 * 64) (padTo 64 data)
  dsimp only
  split_ifs
  · exact hk
  · exact onDev_memOk hk _
  · exact hwritten
  · exact onDev_memOk hwritten _

theorem execPartialBurstWrite_memOk (hs : s.MemOk) (addr : Nat) (data : Bytes) (host : Bool) :
    Keeps (execPartialBurstWrite addr data host s) State.MemOk := by
  refine .ite .of_fault (actMem_memOk hs fun k hk => ?_)
  split_ifs
  · exact hostWrite_memOk hk _ _
  · exact hk
  · exact hk
  · split
    · exact nodeWrite_memOk hk _ _
    · exact onDev_memOk hk _

theorem execUioReadComplete_memOk (hs : s.MemOk) (id : Nat) (ok : Bool) (data : Bytes) :
    Keeps (execUioReadComplete id ok data s) State.MemOk := by
  refine actMem_memOk hs fun k hk => ?_
  split
  · exact onDev_memOk hk _
  · refine onDev_memOk ?_ _
    split
    · exact uioGood_memOk (onDev_memOk hk _) _ _
    · exact uioFail_memOk (onDev_memOk hk _) _

theorem execTier2ReadTimeout_memOk (hs : s.MemOk) (id : Nat) : Keeps (execTier2ReadTimeout id s) State.MemOk := by
  refine actMem_memOk hs fun k hk => ?_
  split
  · exact onDev_memOk hk _
  · exact when_memOk hk fun k hk => onDev_memOk (uioFail_memOk hk _) _

theorem execTableEdit_memOk (hs : s.MemOk) (ring index : Nat) : Keeps (execTableEdit ring index s) State.MemOk := by
  refine actMem_memOk hs fun k hk => ?_
  split
  · exact hk
  · dsimp only
    split_ifs
    · exact onDev_memOk hk _
    · exact onDev_memOk hk _
    · exact onDev_memOk hk _
    · exact editRun_memOk _ _ _ _ _ _ (onDev_memOk hk _)

theorem execHoleRepair_memOk (hs : s.MemOk) (die part : Nat) : Keeps (execHoleRepair die part s) State.MemOk := by
  refine actMem_memOk hs fun k hk => ?_
  split
  · exact hk
  · dsimp only
    split
    · exact hk
    · refine iteInduction (motive := Chip.MemOk) (fun _ => ?_) fun _ => onDev_memOk hk _
      exact foldl_memOk (fun _ _ hk => writeEntries_memOk hk _ _) _ (onDev_memOk hk _)

theorem execPrefixLookup_memOk (hs : s.MemOk) (ring index : Nat) :
    Keeps (execPrefixLookup ring index s) State.MemOk := by
  refine actMem_memOk hs fun k hk => ?_
  split
  · exact hk
  · dsimp only
    split
    · split
      · split
        · exact headerAsk_memOk hk _ _ _
        · exact lookupResume_memOk hk _ _ _ _
      · exact hk
    · split_ifs
      · exact onDev_memOk hk _
      · exact onDev_memOk hk _
      · exact onDev_memOk hk _
      · exact lookupRun_memOk _ _ _ _ _ _ _ _ _ _ hk

theorem execPrefixCopyScan_memOk (hs : s.MemOk) (die : Nat) : Keeps (execPrefixCopyScan die s) State.MemOk := by
  refine actMem_memOk hs fun k hk => ?_
  split
  · exact foldl_memOk (fun _ _ hk => scanServe_memOk die hk _) _ (onDev_memOk hk _)
  · exact hk

theorem execForkCopyDone_memOk (hs : s.MemOk) (ring index key : Nat) :
    Keeps (execForkCopyDone ring index key s) State.MemOk := by
  refine actMem_memOk hs fun k hk => ?_
  split
  · exact hk
  · exact when_memOk hk fun k hk => forkCopyEnd_memOk hk _ _

/-- A message whose trigger tag names a counter that fires waits; else its work keeps the form. -/
theorem tagged_memOk (hs : s.MemOk) {id type off type' : Nat} {f : Chip → Inb → Chip}
    (hf : ∀ k m, k.MemOk → (f k m).MemOk) :
    Keeps (s.actMem fun k => if tagWaits k.dev id type off then k else onMsgMem k id type' f) State.MemOk := by
  refine actMem_memOk hs fun k hk => ?_
  split
  · exact hk
  · exact onMsgMem_memOk hk _ _ hf

theorem execAppendDeadline_memOk (hs : s.MemOk) (held : Nat) : Keeps (execAppendDeadline held s) State.MemOk := by
  refine actMem_memOk hs fun k hk => ?_
  split
  · exact hk
  · exact when_memOk hk fun k hk => appendDone_memOk hk _ _ _ _ _ _

theorem execHeldAppendRelease_memOk (hs : s.MemOk) (held : Nat) :
    Keeps (execHeldAppendRelease held s) State.MemOk := by
  refine actMem_memOk hs fun k hk => ?_
  split
  · exact hk
  · dsimp only
    split
    · exact hk
    · split
      · refine iteInduction (motive := Chip.MemOk) (fun _ => ?_) fun _ => ?_
        · exact appendDone_memOk hk _ _ _ _ _ _
        · exact appendGo_memOk hk _ _ _ _ _ _
      · exact appendGo_memOk hk _ _ _ _ _ _

theorem execSealComplete_memOk (hs : s.MemOk) (die : Nat) : Keeps (execSealComplete die s) State.MemOk := by
  refine actMem_memOk hs fun k hk => ?_
  split
  · exact hk
  · exact when_memOk hk fun k hk => sealOp_memOk hk _ _

theorem execPageImage_memOk (hs : s.MemOk) (msg : Nat) : Keeps (execPageImage msg s) State.MemOk := by
  refine actMem_memOk hs fun k hk => onMsgMem_memOk hk _ _ fun k m hk => ?_
  dsimp only
  split
  · exact hk
  · split
    · exact shadowImage_memOk hk _
    · split
      · exact mk_memOk (recoveryImage_memOk hk _ _ _) _
      · exact hk

theorem execMigrationMove_memOk (hs : s.MemOk) (die : Nat) : Keeps (execMigrationMove die s) State.MemOk := by
  refine actMem_memOk hs fun k hk => when_memOk hk fun k hk => ?_
  dsimp only
  split
  · exact onDev_memOk hk _
  · exact moveStart_memOk (onDev_memOk hk _) _

theorem execFreedRunScrub_memOk (hs : s.MemOk) (frame : Nat) : Keeps (execFreedRunScrub frame s) State.MemOk := by
  refine actMem_memOk hs fun k hk => ?_
  split
  · exact hk
  · refine when_memOk hk fun k hk => ?_
    dsimp only
    split
    · exact when_memOk hk fun k hk => scrubTier1_memOk hk _ _ _
    · exact onDev_memOk hk _

theorem memOk_of_readCopy {k k' : Chip} {slot : Nat} {o : Option Bytes} (hk : k.MemOk)
    (hread : readCopy k slot = (o, k')) : k'.MemOk := by
  have hkept := readCopy_memOk hk slot
  rwa [hread] at hkept

theorem execMatchScrub_memOk (hs : s.MemOk) (die : Nat) : Keeps (execMatchScrub die s) State.MemOk := by
  refine actMem_memOk hs fun k hk => when_memOk hk fun k hk => ?_
  dsimp only
  split
  case h_1 k' hread => exact onDev_memOk (memOk_of_readCopy (onDev_memOk hk _) hread) _
  case h_2 b k' hread =>
    have hk' : k'.MemOk := memOk_of_readCopy (onDev_memOk hk _) hread
    split
    · exact hk'
    · exact onDev_memOk hk' _

theorem execMatchEnableDone_memOk (hs : s.MemOk) : Keeps (execMatchEnableDone s) State.MemOk := by
  refine actMem_memOk hs fun k hk => when_memOk hk fun k hk => ?_
  dsimp only
  split
  · exact onDev_memOk hk _
  · exact onDev_memOk (foldl_memOk (fun _ _ hk => clearArea_memOk hk _) _ hk) _

theorem execDieReadyTimeout_memOk (hs : s.MemOk) (die : Nat) : Keeps (execDieReadyTimeout die s) State.MemOk :=
  actMem_when_memOk hs fun _ _ hk => onDev_memOk (dieLostOp_memOk hk die) _

theorem execDieReportReady_memOk (hs : s.MemOk) (die : Nat) : Keeps (execDieReportReady die s) State.MemOk :=
  actMem_when_memOk hs fun _ _ hk => lookupsReady_memOk (onDev_memOk hk _) die

theorem execTier2Extents_memOk (hs : s.MemOk) (ring index : Nat) :
    Keeps (execTier2Extents ring index s) State.MemOk :=
  actMem_memOk hs fun _ hk => withPath_memOk hk _

theorem execDieLost_memOk (hs : s.MemOk) (die : Nat) : Keeps (execDieLost die s) State.MemOk :=
  actMem_when_memOk hs fun _ _ hk => dieLostOp_memOk hk die

theorem execMemEnableComplete_memOk (hs : s.MemOk) (die failed : Nat) :
    Keeps (execMemEnableComplete die failed s) State.MemOk :=
  actMem_when_memOk hs fun _ _ hk => onDev_memOk (zeroNow_memOk hk _ _) _

theorem execPerstAssert_memOk (hs : s.MemOk) : Keeps (execPerstAssert s) State.MemOk :=
  actMem_memOk hs fun _ hk => hostDownOp_memOk hk

theorem execHostLinkDown_memOk (hs : s.MemOk) : Keeps (execHostLinkDown s) State.MemOk :=
  actMem_when_memOk hs fun _ _ hk => hostDownOp_memOk hk

theorem execHostLinkUp_memOk (hs : s.MemOk) (gts width : Nat) : Keeps (execHostLinkUp gts width s) State.MemOk :=
  actMem_when_memOk hs fun _ _ hk => withPath_memOk hk _

theorem execNodeDrain_memOk (hs : s.MemOk) : Keeps (execNodeDrain s) State.MemOk :=
  actMem_when_memOk hs fun _ _ hk => drainAdvance_memOk (mk_memOk hk _)

theorem execHostBirsp_memOk (hs : s.MemOk) (line : Nat) : Keeps (execHostBirsp line s) State.MemOk :=
  actMem_when_memOk hs fun _ _ hk => memReleased_memOk (onDev_memOk hk _)

theorem execBackInvalidateTimeout_memOk (hs : s.MemOk) (line : Nat) :
    Keeps (execBackInvalidateTimeout line s) State.MemOk :=
  actMem_when_memOk hs fun _ _ hk => coherenceFails_memOk (onDev_memOk hk _)

theorem execTier2PathChange_memOk (hs : s.MemOk) (up : Bool) : Keeps (execTier2PathChange up s) State.MemOk :=
  actMem_memOk hs fun _ hk => withPath_memOk hk _

theorem execGranuleKindChangeDone_memOk (hs : s.MemOk) (slice : Nat) :
    Keeps (execGranuleKindChangeDone slice s) State.MemOk :=
  actMem_when_memOk hs fun _ _ hk => granuleDone_memOk hk slice

theorem execDrainStepBound_memOk (hs : s.MemOk) : Keeps (execDrainStepBound s) State.MemOk :=
  actMem_when_memOk hs fun _ _ hk => drainAdvance_memOk hk

theorem execDrainComplete_memOk (hs : s.MemOk) : Keeps (execDrainComplete s) State.MemOk :=
  actMem_when_memOk hs fun _ _ hk => onDev_memOk (drainAdvance_memOk hk) _

theorem execAppend_memOk (hs : s.MemOk) (msg : Nat) : Keeps (execAppend msg s) State.MemOk :=
  actMem_memOk hs fun _ hk => onAppend_memOk hk msg false

theorem execAppendMirrorCopy_memOk (hs : s.MemOk) (msg : Nat) : Keeps (execAppendMirrorCopy msg s) State.MemOk :=
  actMem_memOk hs fun _ hk => onAppend_memOk hk msg true

theorem execRowOpComplete_memOk (hs : s.MemOk) (slice bank : Nat) :
    Keeps (execRowOpComplete slice bank s) State.MemOk :=
  actMem_when_memOk hs fun _ _ hk => rowOpDone_memOk hk slice bank

theorem execAttnPartial_memOk (hs : s.MemOk) (msg : Nat) : Keeps (execAttnPartial msg s) State.MemOk :=
  tagged_memOk hs fun _ _ hk => partOp_memOk hk _

theorem execRmaWrite_memOk (hs : s.MemOk) (msg : Nat) : Keeps (execRmaWrite msg s) State.MemOk :=
  tagged_memOk hs fun _ _ hk => rmaWriteOp_memOk hk _

theorem exec_memOk_of_storeRow {i : Instr} (hrow : storeRow i = true) (hs : s.MemOk) :
    Keeps (exec i s) State.MemOk := by
  cases i
  case dieReadyTimeout => exact execDieReadyTimeout_memOk hs _
  case dieReportReady => exact execDieReportReady_memOk hs _
  case tier2Extents => exact execTier2Extents_memOk hs _ _
  case dieLost => exact execDieLost_memOk hs _
  case selfRefreshTimeout => exact execSelfRefreshTimeout_memOk hs _
  case dieResetRelease => exact execDieResetRelease_memOk hs _
  case memEnableComplete => exact execMemEnableComplete_memOk hs _ _
  case perstAssert => exact execPerstAssert_memOk hs
  case hostLinkDown => exact execHostLinkDown_memOk hs
  case hostLinkUp => exact execHostLinkUp_memOk hs _ _
  case nodeDrain => exact execNodeDrain_memOk hs
  case hostHdmRead => exact execHostHdmRead_memOk hs _
  case hostHdmWrite => exact execHostHdmWrite_memOk hs _ _ _
  case hostBirsp => exact execHostBirsp_memOk hs _
  case backInvalidateTimeout => exact execBackInvalidateTimeout_memOk hs _
  case uioReadComplete => exact execUioReadComplete_memOk hs _ _ _
  case tier2ReadTimeout => exact execTier2ReadTimeout_memOk hs _
  case tier2PathChange => exact execTier2PathChange_memOk hs _
  case granuleKindChangeDone => exact execGranuleKindChangeDone_memOk hs _
  case drainStepBound => exact execDrainStepBound_memOk hs
  case drainComplete => exact execDrainComplete_memOk hs
  case tableEdit => exact execTableEdit_memOk hs _ _
  case holeRepair => exact execHoleRepair_memOk hs _ _
  case prefixLookup => exact execPrefixLookup_memOk hs _ _
  case prefixCopyScan => exact execPrefixCopyScan_memOk hs _
  case forkCopyDone => exact execForkCopyDone_memOk hs _ _ _
  case attnPartial => exact execAttnPartial_memOk hs _
  case append => exact execAppend_memOk hs _
  case appendMirrorCopy => exact execAppendMirrorCopy_memOk hs _
  case appendDeadline => exact execAppendDeadline_memOk hs _
  case heldAppendRelease => exact execHeldAppendRelease_memOk hs _
  case sealComplete => exact execSealComplete_memOk hs _
  case rmaWrite => exact execRmaWrite_memOk hs _
  case pageImage => exact execPageImage_memOk hs _
  case migrationMove => exact execMigrationMove_memOk hs _
  case freedRunScrub => exact execFreedRunScrub_memOk hs _
  case rowOpComplete => exact execRowOpComplete_memOk hs _ _
  case partialBurstWrite => exact execPartialBurstWrite_memOk hs _ _ _
  case matchScrub => exact execMatchScrub_memOk hs _
  case matchEnableDone => exact execMatchEnableDone_memOk hs
  all_goals exact absurd hrow Bool.false_ne_true

end

/-- Every command keeps the canonical form. -/
theorem exec_memOk {i : Instr} {s : State} (hs : s.MemOk) : Keeps (exec i s) State.MemOk := by
  intro t h
  cases hreset : resetRow i with
  | true => exact exec_memOk_of_resetRow hreset hs t h
  | false =>
    cases hstore : storeRow i with
    | true => exact exec_memOk_of_storeRow hstore hs t h
    | false => exact (congrArg Memory.wf (exec_mem_of_no_store hstore hreset h)).trans hs

/-- A tick leaves tier 1 as it is. -/
theorem tick_mem (s : State) : s.tick.mem = s.mem := by
  unfold State.tick
  split <;> rfl

/-- Settles O44: a step is a tick, or a command on a state with the same memory. -/
theorem memoryStaysCanonical : Obligations.MemoryStaysCanonical := by
  unfold Obligations.MemoryStaysCanonical
  intro s t hs h
  unfold step at h
  split at h
  case h_1 =>
    injection h with h
    subst h
    exact (congrArg Memory.wf (tick_mem s)).trans hs
  case h_2 c rest _ => exact exec_memOk (s := { s with pending := rest }) hs t h

/-! ### Where a command stops -/

/-- A command that answers a next state under a condition and under its opposite answers one. -/
theorem exists_next_ite {c : Prop} [Decidable c] {o o' : Out} (ho : ∃ t, o = .next t) (ho' : ∃ t, o' = .next t) :
    ∃ t, (if c then o else o') = .next t := by
  split <;> assumption

theorem execRestart_next (s : State) : ∃ t, execRestart s = .next t := exists_next_ite ⟨_, rfl⟩ ⟨_, rfl⟩

theorem execRegisterWrite_next (offset : Nat) (value : BitVec 64) (size : Nat) (s : State) :
    ∃ t, execRegisterWrite offset value size s = .next t := by
  unfold execRegisterWrite
  split
  · split
    · exact ⟨_, rfl⟩
    · exact ⟨_, rfl⟩
    · exact ⟨_, rfl⟩
    · exact execRestart_next s
    · exact ⟨_, rfl⟩
  · exact ⟨_, rfl⟩

theorem execCxlIoReadComplete_next (id : Nat) (ok : Bool) (data : Bytes) (s : State) :
    ∃ t, execCxlIoReadComplete id ok data s = .next t := by
  unfold execCxlIoReadComplete
  split
  · exact ⟨_, rfl⟩
  · exact exists_next_ite ⟨_, rfl⟩ ⟨_, rfl⟩

theorem execThermalTrip_next (die : Nat) (s : State) : ∃ t, execThermalTrip die s = .next t :=
  exists_next_ite (exists_next_ite ⟨_, rfl⟩ ⟨_, rfl⟩) ⟨_, rfl⟩

/-- A command that names no address stops in no state. -/
theorem exec_next_of_no_address {i : Instr} (hrow : addressRow i = false) (s : State) : ∃ t, exec i s = .next t := by
  cases i
  case hostHdmRead | hostHdmWrite | partialBurstWrite | memoryReadComplete => cases hrow
  case inputPowerOff =>
    exact exists_next_ite ⟨_, rfl⟩ (exists_next_ite ⟨_, rfl⟩ (exists_next_ite ⟨_, rfl⟩ ⟨_, rfl⟩))
  case inputOvercurrent | softStartDone | recoveryImageAccept | pldmVerifyComplete =>
    exact exists_next_ite ⟨_, rfl⟩ ⟨_, rfl⟩
  case thermalTrip => exact execThermalTrip_next _ s
  case restart => exact execRestart_next s
  case registerWrite => exact execRegisterWrite_next _ _ _ s
  case cxlIoReadComplete => exact execCxlIoReadComplete_next _ _ _ s
  all_goals exact ⟨_, rfl⟩

/-- A command that looks its address up faults where tier 1 has none, and else goes on. -/
theorem next_or_fault {c : Prop} [Decidable c] {o : Out} (ho : ∃ t, o = .next t) :
    (∃ t, (if c then .fault .noSuchAddress else o) = .next t) ∨
      (if c then .fault .noSuchAddress else o) = .fault .noSuchAddress := by
  split
  · exact .inr rfl
  · exact .inl ho

theorem exec_next_or_fault_of_address {i : Instr} (hrow : addressRow i = true) (s : State) :
    (∃ t, exec i s = .next t) ∨ exec i s = .fault .noSuchAddress := by
  cases i
  case hostHdmRead | hostHdmWrite | partialBurstWrite | memoryReadComplete => exact next_or_fault ⟨_, rfl⟩
  all_goals exact absurd hrow Bool.false_ne_true

/-- Settles O41: the four commands that look an address up fault under one guard, and every other command answers a next
state on every path. -/
theorem onlyMissingAddressesStop : Obligations.OnlyMissingAddressesStop := by
  unfold Obligations.OnlyMissingAddressesStop
  refine ⟨fun i s hrow => exec_next_of_no_address hrow s, fun i s hrow => exec_next_or_fault_of_address hrow s, ?_⟩
  intro i s r hrefused
  cases hrow : addressRow i with
  | false =>
    obtain ⟨t, ht⟩ := exec_next_of_no_address hrow s
    cases ht.symm.trans hrefused
  | true =>
    rcases exec_next_or_fault_of_address hrow s with ⟨t, ht⟩ | hfault
    · cases ht.symm.trans hrefused
    · cases hfault.symm.trans hrefused

/-! ### A store of the node's engines -/

/-- Where the array holds no error, no burst of a range carries one. -/
theorem errorsIn_of_no_errors {d : Dev} (h : d.lp.errors = []) (a n : Nat) : errorsIn d a n = [] := by
  simp [errorsIn, h]

/-- Where the array holds no error, no store is held up by one (R546). -/
theorem writeBlocked_of_no_errors {d : Dev} (h : d.lp.errors = []) (a n : Nat) : writeBlocked d a n = [] := by
  simp [writeBlocked, badBursts, errorsIn_of_no_errors h]

/-- Over bursts without errors a store changes the bytes it writes, and no more (R546). -/
theorem storeNow_of_no_errors {k : Chip} (h : k.dev.lp.errors = []) (a : Nat) (b : Bytes) :
    storeNow k a b = ⟨k.dev, memWrite k.mem a b⟩ := by
  simp [storeNow, errorsIn_of_no_errors h]

/-- A store that waits neither for the host nor for a row operation is made at once (R221, R395). -/
theorem nodeWrite_of_free {k : Chip} {a : Nat} {b : Bytes} (hlines : filteredLines k.dev a b.length = [])
    (hwaits : writeWaits k.dev a b.length = false) : nodeWrite k a b = storeNow k a b := by
  simp [nodeWrite, hlines, hwaits]

theorem tier1Bytes_eq : tier1Bytes = 3298534883328 := rfl

/-- PARTIAL_BURST_WRITE of the node's engines over sound bursts is their store (R546). -/
theorem execPartialBurstWrite_of_engine {s : State} {addr : Nat} {data : Bytes} (hon : s.dev.on = true)
    (hend : addr + data.length ≤ 3298534883328) (hready : addrReady s.dev addr = true)
    (hblocked : writeBlocked s.dev addr data.length = []) :
    execPartialBurstWrite addr data false s = .next (s.withChip (nodeWrite s.chip addr data)) := by
  have hexists : ¬ tier1Bytes < addr + data.length := by rw [tier1Bytes_eq]; omega
  rw [execPartialBurstWrite, if_neg (by simp [hexists])]
  refine actMem_of hon ?_
  simp [hready, hblocked]

/-- Settles O46: with nothing to wait for and no error in the bursts, the store is a write of its bytes. -/
theorem engineStore : Obligations.EngineStore := by
  unfold Obligations.EngineStore
  intro s addr data hs hon hend hready hlines hwaits hsound
  have hstored : nodeWrite s.chip addr data = ⟨s.dev, memWrite s.mem addr data⟩ :=
    (nodeWrite_of_free hlines hwaits).trans (storeNow_of_no_errors hsound addr data)
  rw [exec_partialBurstWrite,
    execPartialBurstWrite_of_engine hon hend hready (writeBlocked_of_no_errors hsound _ _), hstored]
  refine .of_next ⟨fun a hfirst hlast => ?_, fun a hout => memByte_memWrite_other hs addr data hout,
    memWrite_wf hs addr data, rfl, rfl⟩
  obtain ⟨i, rfl⟩ := Nat.exists_eq_add_of_le hfirst
  rw [Nat.add_sub_cancel_left]
  exact memByte_memWrite_inside hs addr data i (by omega)

end Sys2Proof.Machine
end

section
/-! The LPDDR6 controllers: burst reads, partial writes, refresh, temperature, calibration and patrol (R176, R180, R184,
R190 to R195, R198, R392, R546). -/

namespace Sys2Proof.Machine

/-- A burst whose channel is in service is read, counted and checked (R180). -/
theorem execMemoryReadComplete_of_ready {s : State} {burst : Nat} (hon : s.dev.on = true)
    (hburst : 32 * burst < 3298534883328) (hready : addrReady s.dev (32 * burst) = true) (error : Bytes)
    (reader : Reader) :
    execMemoryReadComplete burst error reader s = .next (s.withDev
      (burstRead (count (setBurstError s.dev burst (padTo 36 error)) (addrDie (32 * burst))
        (0x0C00 + chanOfDie (32 * burst)) 1) burst reader)) := by
  have hexists : ¬ tier1Bytes ≤ 32 * burst := by rw [tier1Bytes_eq]; omega
  rw [execMemoryReadComplete, if_neg (by simp [hexists])]
  exact act_when hon hready

/-- Behind the end of tier 1 there is no burst (R176). -/
theorem execMemoryReadComplete_of_missing {s : State} {burst : Nat} (hon : s.dev.on = true)
    (hburst : 3298534883328 ≤ 32 * burst) (error : Bytes) (reader : Reader) :
    execMemoryReadComplete burst error reader s = .fault .noSuchAddress := by
  rw [execMemoryReadComplete, if_pos (by simp [hon, tier1Bytes_eq, hburst])]

/-- No store reaches behind the end of tier 1 (R176). -/
theorem execPartialBurstWrite_of_missing {s : State} {addr : Nat} {data : Bytes} (hon : s.dev.on = true)
    (hend : 3298534883328 < addr + data.length) (host : Bool) :
    execPartialBurstWrite addr data host s = .fault .noSuchAddress := by
  rw [execPartialBurstWrite, if_pos (by simp [hon, tier1Bytes_eq, hend])]

/-- A store through the HDM window is the host's write (R201). -/
theorem execPartialBurstWrite_of_host {s : State} {addr : Nat} {data : Bytes} (hon : s.dev.on = true)
    (hend : addr + data.length ≤ 3298534883328) (hhdm : s.dev.hdm = true) (hcoherent : s.dev.hif.cohFailed = false) :
    execPartialBurstWrite addr data true s = .next (s.withChip (hostWrite s.chip addr data)) := by
  have hexists : ¬ tier1Bytes < addr + data.length := by rw [tier1Bytes_eq]; omega
  rw [execPartialBurstWrite, if_neg (by simp [hexists])]
  refine actMem_of hon ?_
  simp [hhdm, hcoherent]

/-- A count changes no controller. -/
@[simp] theorem count_lp (d : Dev) (die event k : Nat) : (count d die event k).lp = d.lp := by
  unfold count ctrEach
  split <;> rfl

/-- A count changes the kind of no granule. -/
theorem isBankOp_count (d : Dev) (die event k gran : Nat) : isBankOp (count d die event k) gran = isBankOp d gran := by
  simp [isBankOp]

/-- A sub-channel whose last patrol read is less than 2,000 ticks back reads nothing (R194). -/
theorem execPatrolRead_of_early {s : State} {sub : Nat} (hon : s.dev.on = true)
    (hearly : s.dev.now < tget 0 s.dev.lp.patrolTick sub + 2000) : execPatrolRead sub s = .next s := by
  have hdue : s.dev.due (tget 0 s.dev.lp.patrolTick sub) 2000 = false := by simp [Dev.due, hearly]
  rw [execPatrolRead]
  refine actRead_same hon ?_
  simp [hdue]

/-- Settles O33: each command's address or guard is looked at, and what it does is then the branch named; of a patrol read
that what it records changes no granule's kind. -/
theorem memoryCommands : Obligations.MemoryCommands := by
  unfold Obligations.MemoryCommands
  refine ⟨fun s burst error reader hon hburst hready => execMemoryReadComplete_of_ready hon hburst hready error reader,
    fun s burst error reader hon hburst => execMemoryReadComplete_of_missing hon hburst error reader,
    fun s addr data host hon hend => execPartialBurstWrite_of_missing hon hend host,
    fun s addr data host hon hend hhost hhdm hcoherent => ?_,
    fun s addr data host hon hend hhost hready hblocked => ?_,
    fun s bank hon hup hdue hbusy howed => ?_, fun s bank hon hup hdue hbusy => ?_,
    fun s bank hon hup hbusy => ?_, fun s bank hon hup hbusy => ?_,
    fun s device celsius hon hup hdue hcool => ?_, fun s device celsius hon hup hdue hhot => ?_,
    fun s channel hon hup hdue => ?_, fun s channel celsius hon hup hdue => ?_,
    fun s channel celsius hon hearly hsteady => ?_, fun s sub hon hsub hup hdue hchecked hfree => ?_,
    fun s sub hon hearly => execPatrolRead_of_early hon hearly⟩
  · subst hhost
    exact execPartialBurstWrite_of_host hon hend hhdm hcoherent
  · subst hhost
    exact execPartialBurstWrite_of_engine hon hend hready hblocked
  · rw [exec_refreshDue, execRefreshDue, act_when hon (by simp [hup, hdue]), if_pos hbusy, if_neg (by omega)]
  · rw [exec_refreshDue, execRefreshDue, act_when hon (by simp [hup, hdue]), if_neg (by simp [hbusy])]
  · rw [exec_refreshManagementRequest, execRefreshManagementRequest, act_when hon hup, if_neg (by simp [hbusy])]
  · rw [exec_refreshManagementRequest, execRefreshManagementRequest, act_when hon hup, if_pos hbusy]
  · rw [exec_deviceTempRead, execDeviceTempRead, act_when hon (by simp [hup, Dev.due, hdue]), if_neg (by omega)]
  · rw [exec_deviceTempRead, execDeviceTempRead, act_when hon (by simp [hup, Dev.due, hdue]), if_pos hhot]
  · rw [exec_impedanceRecal, execImpedanceRecal, act_when hon (by simp [hup, Dev.due, hdue])]
  · rw [exec_dqTracking, execDqTracking, act_when hon (by simp [hup, Dev.due, hdue])]
  · rw [exec_dqTracking, execDqTracking]
    refine act_of hon ?_
    have hdue : ¬ tget 0 s.dev.lp.trackAt channel + 10000 ≤ s.dev.now := by omega
    simp [Dev.when, Dev.due, hdue, hsteady]
  · rw [exec_patrolRead, execPatrolRead]
    refine actRead_of hon ?_
    have hreads : ¬ (!decide (sub < 256) || !chanUp s.dev (sub / 2) ||
        !s.dev.due (tget 0 s.dev.lp.patrolTick sub) 2000) = true := by simp [hsub, hup, Dev.due, hdue]
    refine (if_neg hreads).trans ((if_neg (ne_true_of_eq_false hfree)).trans (if_neg ?_))
    rw [isBankOp_count, isBankOp_count]
    exact ne_true_of_eq_false hchecked

end Sys2Proof.Machine
end

section
/-! The writes of the setup registers that are accepted, and what memory enable and match enable start and end (R196,
R266, R280, R299, R526 to R528, R531, R532, R537, R538). -/

namespace Sys2Proof.Machine

/-! ### Accepted writes -/

/-- A register write of the host, with BAR0 served, has its register's effect. -/
theorem act_when_bar {s : State} {f : Dev → Dev} {d : Dev} (hon : s.dev.on = true) (hbar : s.dev.bar = true)
    (h : f s.dev = d) : (s.act fun d => d.when d.bar f) = .next (s.withDev d) :=
  act_of hon ((if_pos hbar).trans h)

/-- A write of a served register that locks, before the lock and with no case of R528, acts. -/
theorem rwlWrite_of_accepted {d : Dev} {offset : Nat} {bad : Bool} (hlock : d.regs.lock = false)
    (hserved : regServed d offset = true) (hgood : bad = false) (f : Dev → Dev) : rwlWrite d offset bad f = f d := by
  simp [rwlWrite, hlock, hserved, hgood]

/-- R531: a write that clears no bit, and sets only bits of dies whose memory is ready. -/
theorem glbEnableOp_of_accepted {d : Dev} {v : Nat} (hlock : d.regs.lock = false) (hserved : regServed d 0x10 = true)
    (hkeeps : keepsBits 16 d.regs.arrays (v % 2 ^ 16) = true)
    (hmay : (newBits 16 d.regs.arrays (v % 2 ^ 16)).all
      (fun n => tget false d.lp.done n && tget 0 d.lp.readyCh n != 0) = true) :
    glbEnableOp d v = d.onRegs fun r => { r with arrays := v % 2 ^ 16 } := by
  unfold glbEnableOp
  exact rwlWrite_of_accepted hlock hserved (by rw [hkeeps, hmay]; rfl) _

/-- R532: a write that sets LOCK. -/
theorem setupLockOp_of_set {d : Dev} {v : Nat} (hlock : d.regs.lock = false) (hserved : regServed d 0x18 = true)
    (hset : bitOf v 0 = true) :
    setupLockOp d v = (d.onRegs fun r => { r with lock := true }).onSec fun x =>
      { x with lockDigest := sha256 ((lockedValues d.regs).flatMap (toLe 8)) } := by
  unfold setupLockOp
  exact (rwlWrite_of_accepted hlock hserved rfl _).trans (if_pos hset)

/-- R299: a write that sets VALID with a BASE. -/
theorem connSpillOp_of_valid {d : Dev} {v : Nat} (hlock : d.regs.lock = false) (hserved : regServed d 0x1000 = true)
    (hinvalid : d.regs.spillValid = false) (hbase : v / 2 ^ 21 * 2 ^ 21 ≠ 0) (hvalid : bitOf v 0 = true) :
    connSpillOp d v = d.onRegs fun r => { r with spillBase := v / 2 ^ 21 * 2 ^ 21, spillValid := true } := by
  have hgood : (v / 2 ^ 21 * 2 ^ 21 == 0) = false := beq_false_of_ne hbase
  unfold connSpillOp
  dsimp only
  rw [hinvalid, hvalid, hgood]
  exact rwlWrite_of_accepted hlock hserved rfl _

/-- R196: a write that clears no bit, and sets only bits of dies that are ready. -/
theorem memEnableOp_of_accepted {d : Dev} {v : Nat} (hlock : d.regs.lock = false)
    (hserved : regServed d 0x2000 = true) (hkeeps : keepsBits 16 d.regs.memEnable (v % 2 ^ 16) = true)
    (hready : (newBits 16 d.regs.memEnable (v % 2 ^ 16)).all d.ready = true) :
    memEnableOp d v = (d.onRegs fun r => { r with memEnable := v % 2 ^ 16 }).onLp fun x =>
      { x with
        running := (newBits 16 d.regs.memEnable (v % 2 ^ 16)).foldl (fun t n => tput 0 t n (d.now + 1)) x.running } := by
  unfold memEnableOp
  exact rwlWrite_of_accepted hlock hserved (by rw [hkeeps, hready]; rfl) _

/-- R537: a write of a PER_HOP and a BASE in range. -/
theorem ccTargetOp_of_range {d : Dev} {v : Nat} (hlock : d.regs.lock = false) (hserved : regServed d 0x3020 = true)
    (hhop : bitsOf v 32 10 ≤ 1000) (hlow : 100 ≤ bitsOf v 0 17) (hhigh : bitsOf v 0 17 ≤ 100000) :
    ccTargetOp d v = d.onRegs fun r => { r with ccPerHop := bitsOf v 32 10, ccBase := bitsOf v 0 17 } := by
  unfold ccTargetOp
  exact rwlWrite_of_accepted hlock hserved (by simp [hhop, hlow, hhigh]) _

/-- R537: a write of a WAIT in range. -/
theorem escapeWaitOp_of_range {d : Dev} {v : Nat} (hlock : d.regs.lock = false) (hserved : regServed d 0x3018 = true)
    (hlow : 10 ≤ bitsOf v 0 14) (hhigh : bitsOf v 0 14 ≤ 10000) :
    escapeWaitOp d v = d.onRegs fun r => { r with escapeWait := bitsOf v 0 14 } := by
  unfold escapeWaitOp
  exact rwlWrite_of_accepted hlock hserved (by simp [hlow, hhigh]) _

/-- R538: a write that sets ENABLE, with a Teasel die ready and room for the two copies. -/
theorem matEnableOp_of_set {d : Dev} {v : Nat} (hlock : d.regs.lock = false) (hserved : regServed d 0x5008 = true)
    (hoff : d.regs.matEnable = false) (hset : bitOf v 0 = true) (hready : d.ready 28 = true)
    (hareas : (matAreas d).length = 2) :
    matEnableOp d v =
      (d.onRegs fun r => { r with matEnable := true }).onMat fun m => { m with startAt := some d.now } := by
  unfold matEnableOp
  dsimp only
  rw [hset, hoff, hready, hareas]
  exact (rwlWrite_of_accepted hlock hserved rfl _).trans (if_pos (by rw [hoff]; rfl))

/-! ### Links that go down -/

theorem sampleDeq_regs (d : Dev) (queue age : Nat) : (sampleDeq d queue age).regs = d.regs := rfl

theorem countLost_regs (d : Dev) (m : FMsg) : (countLost d m).regs = d.regs := by
  unfold countLost
  split
  · rfl
  · split <;> rfl

theorem msgCredit_regs (d : Dev) (m : FMsg) : (msgCredit d m).regs = d.regs := by
  unfold msgCredit Dev.when
  split
  · rfl
  · split <;> rfl

theorem msgSweep_regs (d : Dev) : (msgSweep d).regs = d.regs :=
  (foldl_keeps Dev.regs msgCredit_regs _ _).trans (foldl_keeps Dev.regs countLost_regs _ d)

/-- A link that leaves ACTIVE touches the fabric's state alone (R280). -/
theorem linkLeave_regs (d : Dev) (n : Nat) : (linkLeave d n).regs = d.regs := by
  unfold linkLeave
  split
  · exact (msgSweep_regs _).trans (foldl_keeps Dev.regs (fun d _ => sampleDeq_regs d _ _) _ _)
  · rfl

theorem noteSuspect_regs (d : Dev) (n : Nat) : (noteSuspect d n).regs = d.regs := by
  unfold noteSuspect
  split <;> rfl

@[simp] theorem shareCheck_regs (d : Dev) : (shareCheck d).regs = d.regs := by
  rw [shareCheck_onEvt, Dev.onEvt_regs]

/-- No setup register changes by itself when a link goes down. -/
theorem linkDown_regs (d : Dev) (n : Nat) (dest : LinkState) (trigger : Nat) :
    (linkDown d n dest trigger).regs = d.regs := by
  unfold linkDown
  extract_lets was d₁ d₂
  have h₁ : d₁.regs = d.regs := by
    unfold d₁
    split
    · rfl
    · exact noteSuspect_regs d n
  have h₂ : d₂.regs = d.regs := (linkLeave_regs d₁ n).trans h₁
  split
  · exact (shareCheck_regs _).trans ((logEv_regs _ _ _ _).trans h₂)
  · exact h₂

/-! ### LNK_ENABLE -/

theorem bitOf_eq_testBit (v i : Nat) : bitOf v i = v.testBit i := by
  rw [Nat.testBit_eq_decide_div_mod_eq, bitOf, beq_eq_decide]

/-- A number below 2^n with no bit below n is 0. -/
theorem eq_zero_of_bitIdx_nil {n v : Nat} (hv : v < 2 ^ n) (h : bitIdx n v = []) : v = 0 := by
  refine Nat.eq_of_testBit_eq fun i => ?_
  rw [Nat.zero_testBit]
  by_cases hi : i < n
  · have hbit := List.filter_eq_nil_iff.mp h i (List.mem_range.mpr hi)
    rwa [bitOf_eq_testBit, Bool.not_eq_true] at hbit
  · exact Nat.testBit_lt_two_pow (hv.trans_le (Nat.pow_le_pow_right (by decide) (Nat.le_of_not_lt hi)))

/-- A value that brings no bit which the register does not have, over a register of no bits, is 0. -/
theorem no_new_bits_of_zero {v : Nat} (hnew : (bitIdx 32 (v % 2 ^ 32)).filter (fun n => !(bitOf 0 n)) = []) :
    v % 2 ^ 32 = 0 := by
  refine eq_zero_of_bitIdx_nil (n := 32) (Nat.mod_lt _ (by decide)) ?_
  simpa [bitOf] using hnew

/-- A write of LNK_ENABLE whose new bits may all be set takes the value, and no other setup register. -/
theorem lnkEnableOp_links {d : Dev} {v : Nat}
    (hmay : ((bitIdx 32 (v % 2 ^ 32)).filter (fun n => !(bitOf d.regs.links n))).all (linkMayEnable d) = true) :
    (lnkEnableOp d v).regs.links = v % 2 ^ 32 := by
  rw [lnkEnableOp, if_pos hmay]
  rfl

/-- A write of LNK_ENABLE that brings no new bit takes the links of the cleared bits down, and the register takes the
value (R280). Where no bit was set it is a write of 0, and the routing tables stay. -/
theorem lnkEnableOp_of_no_new {d : Dev} {v : Nat}
    (hnew : (bitIdx 32 (v % 2 ^ 32)).filter (fun n => !(bitOf d.regs.links n)) = []) :
    lnkEnableOp d v =
      (((bitIdx 32 d.regs.links).filter fun n => !(bitOf (v % 2 ^ 32) n)).foldl (fun d n => linkDown d n .disabled 7)
        d).onRegs fun r => { r with links := v % 2 ^ 32 } := by
  have hlinks : (((bitIdx 32 d.regs.links).filter fun n => !(bitOf (v % 2 ^ 32) n)).foldl
      (fun d n => linkDown d n .disabled 7) d).regs.links = d.regs.links :=
    congrArg Regs.links (foldl_keeps Dev.regs (fun d n => linkDown_regs d n .disabled 7) _ d)
  have htables : ¬ (d.regs.links = 0 ∧ v % 2 ^ 32 ≠ 0) := fun ⟨hnone, hsome⟩ =>
    hsome (no_new_bits_of_zero (by rwa [hnone] at hnew))
  rw [← hlinks] at htables
  simp only [lnkEnableOp, hnew, List.all_nil, List.foldl_nil, if_true]
  rw [if_neg htables]

/-! ### Memory enable and match enable -/

/-- Zeroing a range of the array changes, of the controllers' state, the errors alone. -/
theorem zeroNow_lp {α : Type} {p : Lpddr → α} (hp : ∀ (x : Lpddr) (errors : Tab Bytes), p { x with errors := errors } = p x)
    (k : Chip) (a n : Nat) : p (zeroNow k a n).dev.lp = p k.dev.lp := by
  refine foldl_keeps (fun d : Dev => p d.lp) (fun d b => ?_) _ k.dev
  unfold writeErrors
  split <;> exact hp _ _

/-- MEM_ENABLE_COMPLETE of a running initialisation sets the die's channels and clears its memory (R196). -/
theorem memEnableComplete_answers {s : State} {die : Nat} (hon : s.dev.on = true) (hready : s.dev.ready die = true)
    (hrunning : tget 0 s.dev.lp.running die ≠ 0) (failed : Nat) :
    Answers (exec (.memEnableComplete die failed) s) fun t =>
      t.dev.lp.done = tput false s.dev.lp.done die true ∧
      t.dev.lp.readyCh = tput 0 s.dev.lp.readyCh die (255 - failed % 256) ∧
      t.dev.lp.failedCh = tput 0 s.dev.lp.failedCh die (failed % 256) ∧
      t.mem = memClear s.mem (4 * die * sliceBytes) (4 * sliceBytes) ∧ t.nv = s.nv ∧ t.pending = s.pending := by
  have hdone := zeroNow_lp (p := Lpddr.done) (fun _ _ => rfl) s.chip (4 * die * sliceBytes) (4 * sliceBytes)
  have hreadyCh := zeroNow_lp (p := Lpddr.readyCh) (fun _ _ => rfl) s.chip (4 * die * sliceBytes) (4 * sliceBytes)
  have hfailedCh := zeroNow_lp (p := Lpddr.failedCh) (fun _ _ => rfl) s.chip (4 * die * sliceBytes) (4 * sliceBytes)
  rw [exec_memEnableComplete, execMemEnableComplete, actMem_when hon (by simp [hready, hrunning])]
  refine .of_next ⟨?_, ?_, ?_, rfl, rfl, rfl⟩
  · exact (congrArg Lpddr.done (logEv_lp _ _ _ _)).trans (congrArg (tput false · die true) hdone)
  · exact (congrArg Lpddr.readyCh (logEv_lp _ _ _ _)).trans (congrArg (tput 0 · die (255 - failed % 256)) hreadyCh)
  · exact (congrArg Lpddr.failedCh (logEv_lp _ _ _ _)).trans (congrArg (tput 0 · die (failed % 256)) hfailedCh)

/-- MATCH_ENABLE_DONE with room for both copies sets READY, with empty tables in the areas found (R538). -/
theorem matchEnableDone_answers {s : State} (hon : s.dev.on = true) (henable : s.dev.regs.matEnable = true)
    (hready : s.dev.mat.ready = false) (hfailed : s.dev.mat.failed = false) (hareas : 2 ≤ (matAreas s.dev).length) :
    Answers (exec .matchEnableDone s) fun t =>
      t.dev.mat.ready = true ∧ t.dev.mat.areas = matAreas s.dev ∧ t.dev.mat.entries = [] ∧ t.dev.mat.overflow = 0 ∧
      t.nv = s.nv ∧ t.pending = s.pending := by
  have hroom : ¬ (matAreas s.chip.dev).length < 2 := Nat.not_lt.mpr hareas
  rw [exec_matchEnableDone, execMatchEnableDone, actMem_when hon (by simp [henable, hready, hfailed])]
  dsimp only
  rw [if_neg hroom]
  exact .of_next ⟨rfl, rfl, rfl, rfl, rfl, rfl⟩

/-- Settles O5: each write passes the checks of R528 and has the effect of its register, and each enable that completes
sets what its table gives. -/
theorem setupRegisters : Obligations.SetupRegisters := by
  unfold Obligations.SetupRegisters
  refine ⟨fun s offset size value hon hbar hsize haligned hoff hmbox => ?_,
    fun s value hon hbar hlock hserved hkeeps hmay => ?_, fun s value hon hbar hlock hserved hset => ?_,
    fun s value hon hbar hlock hserved hinvalid hbase hvalid => ?_,
    fun s value hon hbar hlock hserved hkeeps hready => ?_, fun s die failed hon hready hrunning => ?_,
    fun s value hon hbar hmode hmay => ?_, fun s value hon hbar hmode hnew => ?_,
    fun s value hon hbar hlock hserved hlow hhigh => ?_, fun s value hon hbar hlock hserved hhop hlow hhigh => ?_,
    fun s value hon hbar hlock hserved hoff hset hready hareas => ?_, fun s hon henable hready hfailed hareas => ?_⟩
  · rw [exec_registerWrite, execRegisterWrite_served hon hbar hoff (by omega), if_neg (by omega)]
  · rw [exec_glbEnableArrays, execGlbEnableArrays]
    exact act_when_bar hon hbar (glbEnableOp_of_accepted hlock hserved hkeeps hmay)
  · rw [exec_glbSetupLock, execGlbSetupLock, act_when_bar hon hbar (setupLockOp_of_set hlock hserved hset)]
    exact .of_next ⟨rfl, rfl, rfl, rfl⟩
  · rw [exec_hifConnSpillValid, execHifConnSpillValid]
    exact act_when_bar hon hbar (connSpillOp_of_valid hlock hserved hinvalid hbase hvalid)
  · rw [exec_memEnable, execMemEnable]
    exact act_when_bar hon hbar (memEnableOp_of_accepted hlock hserved hkeeps hready)
  · exact memEnableComplete_answers hon hready hrunning failed
  · rw [exec_lnkEnableSet, execLnkEnableSet]
    exact ⟨_, act_when_bar hon hbar (if_neg hmode), lnkEnableOp_links hmay, rfl, rfl, rfl⟩
  · rw [exec_lnkEnableClear, execLnkEnableClear]
    exact act_when_bar hon hbar ((if_neg hmode).trans (lnkEnableOp_of_no_new (List.isEmpty_iff.mp hnew)))
  · rw [exec_lnkEscapeWaitWrite, execLnkEscapeWaitWrite]
    exact act_when_bar hon hbar (escapeWaitOp_of_range hlock hserved hlow hhigh)
  · rw [exec_lnkCcTargetWrite, execLnkCcTargetWrite]
    exact act_when_bar hon hbar (ccTargetOp_of_range hlock hserved hhop hlow hhigh)
  · rw [exec_matEnable, execMatEnable]
    exact act_when_bar hon hbar (matEnableOp_of_set hlock hserved hoff hset hready hareas)
  · exact matchEnableDone_answers hon henable hready hfailed hareas

end Sys2Proof.Machine
end

section
/-! Configuration: granules, tier-2 extents, compositions, routes, service weights and the associative match (R183, R229,
R238, R242, R251, R274, R322, R378, R379, R424, R425, R428, R429). -/

namespace Sys2Proof.Machine

/-! ### Granules -/

/-- The rows of a granule are filled by a job of row operations, and nothing else changes (R214). -/
theorem granuleFill_onRow (d : Dev) (slice : Nat) :
    granuleFill d slice = d.onRow fun _ => (granuleFill d slice).row := by
  unfold granuleFill
  split
  · unfold Dev.when
    split <;> rfl
  · rfl

/-- A change back to ordinary fills nothing. -/
theorem granuleFill_of_ordinary {d : Dev} {slice : Nat} {ch : GranuleChange}
    (hch : tfind d.lp.changing slice = some ch) (hkind : ch.toBankOp = false) : granuleFill d slice = d := by
  unfold granuleFill
  split
  case h_1 heq =>
    rw [hch] at heq
    injection heq with heq
    rw [heq] at hkind
    cases hkind
  case h_2 => rfl

/-- The change of a slice once its first granule has its new kind and others are left (R183). -/
def granuleNext (d : Dev) (slice g : Nat) (rest : List Nat) (ch : GranuleChange) : Dev :=
  d.onLp fun l =>
    { l with bankOp := tput false l.bankOp (slice * 48 + g) ch.toBankOp
             changing := tins l.changing slice { ch with todo := rest, filled := false } }

/-- A granule of a change that others follow, settled and if need be filled, has its new kind, and the change goes on. -/
theorem granuleDone_of_settled {k : Chip} {slice g : Nat} {rest : List Nat} {ch : GranuleChange}
    (hch : tfind k.dev.lp.changing slice = some ch) (htodo : ch.todo = g :: rest) (hrest : rest ≠ [])
    (hfilled : (ch.toBankOp && !ch.filled) = false)
    (hsettled : rangeSettled k.dev ((slice * 48 + g) * gib) gib = true) :
    granuleDone k slice =
      (if ch.toBankOp then k else zeroNow k ((slice * 48 + g) * gib) gib).onDev fun d =>
        granuleFill (granuleNext d slice g rest ch) slice := by
  have hmore : rest.isEmpty = false := by simpa using hrest
  simp only [granuleDone, hch, htodo, hfilled, hsettled, hmore, Bool.not_true, if_false, Bool.false_eq_true]
  rfl

/-- A granule that is not settled keeps its kind, and its lines are invalidated (R183). -/
theorem granuleDone_of_unsettled {k : Chip} {slice g : Nat} {rest : List Nat} {ch : GranuleChange}
    (hch : tfind k.dev.lp.changing slice = some ch) (htodo : ch.todo = g :: rest)
    (hfilled : (ch.toBankOp && !ch.filled) = false)
    (hsettled : rangeSettled k.dev ((slice * 48 + g) * gib) gib = false) :
    granuleDone k slice =
      k.onDev fun d => (filteredLines d ((slice * 48 + g) * gib) gib).foldl sendBisnp d := by
  simp [granuleDone, hch, htodo, hfilled, hsettled]

theorem execGranuleKindChangeDone_of_ready {s : State} {slice : Nat} {k : Chip} (hon : s.dev.on = true)
    (hslice : slice < 64) (hready : s.dev.ready (dieOfSlice slice) = true) (h : granuleDone s.chip slice = k) :
    exec (.granuleKindChangeDone slice) s = .next (s.withChip k) := by
  rw [exec_granuleKindChangeDone, execGranuleKindChangeDone, actMem_when hon (by simp [hslice, hready]), h]

/-- GRANULE_CONFIG that finds granules of the other kind starts their change (R424). -/
theorem granuleConfig_answers {s : State} {ring index : Nat} {c : Cmd} (hon : s.dev.on = true)
    (hready : s.dev.cmdReady ring index 0x01 = some c) (hpass : firstFail (granuleChecks s.dev c) = none)
    (hidle : tfind s.dev.lp.changing (fld c.desc 0x10 1) = none)
    (htodo : (grans c).filter (fun g => isBankOp s.dev (fld c.desc 0x10 1 * 48 + g) != (fld c.desc 0x13 1 == 1)) ≠ []) :
    Answers (exec (.granuleConfig ring index) s) fun t =>
      RunsOn t ring index c ∧
      t.dev.lp.changing = tins s.dev.lp.changing (fld c.desc 0x10 1)
        { ring := ring, index := index, toBankOp := fld c.desc 0x13 1 == 1
          todo := (grans c).filter fun g => isBankOp s.dev (fld c.desc 0x10 1 * 48 + g) != (fld c.desc 0x13 1 == 1)
          named := fld c.desc 0x12 1 } ∧
      SameRest s t := by
  have hnone : ¬ (tfind s.dev.lp.changing (fld c.desc 0x10 1)).isSome = true := by simp [hidle]
  have hsome : ¬ ((grans c).filter fun g =>
      isBankOp s.dev (fld c.desc 0x10 1 * 48 + g) != (fld c.desc 0x13 1 == 1)).isEmpty = true := by simpa using htodo
  have hrunning : (cmdRuns s.dev ring index).cmd ring index = some { c with phase := .running } :=
    cmd_onCmd (cmd_of_ready hready) fun _ => rfl
  rw [exec_granuleConfig, execGranuleConfig, act_cmdChecks hon hready hpass]
  dsimp only
  rw [if_neg hnone, if_neg hsome, granuleFill_onRow]
  exact .of_next ⟨hrunning, rfl, rfl, rfl, rfl⟩

/-! ### Extents -/

/-- A change of the path depends on what its operation makes of the device alone. -/
theorem withPath_congr {k : Chip} {f g : Dev → Dev} (h : f k.dev = g k.dev) : withPath k f = withPath k g := by
  have honDev : k.onDev f = k.onDev g := congrArg (Chip.mk · k.mem) h
  rw [withPath, withPath, honDev]

/-- TIER2_EXTENTS whose list is good and brings no new extent takes effect at once (R425). -/
theorem execTier2Extents_of_kept {s : State} {ring index : Nat} {c : Cmd} (hon : s.dev.on = true)
    (hready : s.dev.cmdReady ring index 0x02 = some c) (hcount : fld c.desc 0x10 1 ≤ 64)
    (hgood : (List.range (extentList c).length).find? (fun i => !(extentOk c.buf i)) = none)
    (hwindow : ((extentList c).map (·.2)).sum ≤ 262144 * gib) (hkeeps : extentKeeps s.dev (extentList c) = none)
    (hkept : (List.range (extentList c).length).filter (fun i => !(extentKept s.dev (extentList c) i)) = [])
    (hroom : uioRoom s.dev 0 = true) :
    execTier2Extents ring index s = .next (s.withChip
      (withPath s.chip fun d => extentsDone (cmdRuns d ring index) ring index c)) := by
  rw [execTier2Extents]
  refine actMem_of hon (withPath_congr ?_)
  rw [State.chip_dev, cmdChecks_pass hready (by simp [firstFail, fieldOk, hcount])]
  simp [hgood, Nat.not_lt.mpr hwindow, hkeeps, hkept, hroom]

/-! ### Compositions -/

theorem execCompositionRestartDone_of_idle {s : State} {n ring index : Nat} {l : List Nat} {c : Cmd}
    (hon : s.dev.on = true) (hrestarting : (comp s.dev n).restarting = some (l, c.desc, ring, index))
    (hfw : s.dev.firmware = true) (hidle : (s.dev.attn.requests.any fun q => q.2.composition == n) = false)
    (hcmd : s.dev.cmd ring index = some c) {d : Dev}
    (hd : dropSlots (s.dev.onMbr fun m =>
      { m with compositions := tmod {} m.compositions n fun k => { k with restarting := none } })
      (fun x => x.composition == n) = d)
    (hpass : firstFail (bindState d c) = none) :
    execCompositionRestartDone n s = .next (s.withDev (bindApply d ring index c l true)) := by
  rw [execCompositionRestartDone]
  refine act_of hon ?_
  simp only [hrestarting]
  refine (if_pos (by rw [hfw, hidle]; rfl)).trans ?_
  simp only [hcmd, Option.map_some, Option.getD_some, hd, hpass]

/-- COMPOSITION_FENCE of a bound composition of its tenant adds the fence and ends the requester's requests (R378). -/
theorem execCompositionFence_of_bound {s : State} {ring index : Nat} {c : Cmd} (hon : s.dev.on = true)
    (hready : s.dev.cmdReady ring index 0x04 = some c) (hindex : fld c.desc 0x10 1 < 64)
    (hbound : (comp s.dev (fld c.desc 0x10 1)).slices ≠ [])
    (htenant : (comp s.dev (fld c.desc 0x10 1)).tenant = fld c.desc 8 2) :
    execCompositionFence ring index s = .next (s.withDev
      (cmdDone (requestsEnd (s.dev.onMbr fun m =>
          { m with compositions := tmod {} m.compositions (fld c.desc 0x10 1) fun k =>
              { k with fences := k.fences.filter (fun y => y != fld c.desc 0x14 4) ++ [fld c.desc 0x14 4] } })
        St.epochStale fun i q =>
          q.composition == fld c.desc 0x10 1 && !(s.dev.slot i).local_ && (s.dev.slot i).requester == fld c.desc 0x14 4)
        ring index St.ok 0)) := by
  have hslices : (comp s.dev (fld c.desc 0x10 1)).slices.isEmpty = false := by simpa using hbound
  rw [execCompositionFence, act_cmdChecks hon hready (by
    simp [firstFail, fieldOk, hindex, hslices, htenant, cTenant])]
  rfl

/-! ### Routes and weights -/

/-- A search of a mapped list by position looks at the values mapped. -/
theorem find_range_getD {α : Type} (n : Nat) (f : Nat → α) (dflt : α) (p : α → Bool) :
    (List.range ((List.range n).map f).length).find? (fun i => p (((List.range n).map f).getD i dflt)) =
      (List.range n).find? fun i => p (f i) := by
  rw [List.length_map, List.length_range]
  refine List.find?_congr fun i hi => ?_
  simp [List.getD, List.getElem?_range (List.mem_range.mp hi)]

/-- ROUTE_TABLE with good entries writes them to the table it names (R274, R428). -/
theorem routeTable_answers {s : State} {ring index : Nat} {c : Cmd} (hon : s.dev.on = true)
    (hready : s.dev.cmdReady ring index 0x08 = some c) (hsome : 1 ≤ fld c.desc 0x14 2)
    (hlast : fld c.desc 0x14 2 + fld c.desc 0x12 2 ≤ 1024) (htable : fld c.desc 0x10 1 < 2)
    (hlinks : s.dev.regs.links ≠ 0)
    (hgood : (List.range (fld c.desc 0x14 2)).find? (fun i => bitsOf (fld c.buf (8 * i) 8) 43 15 != 0) = none) :
    Answers (exec (.routeTable ring index) s) fun t =>
      Ended t ring index c 0 0 ∧
      t.dev.fab.group = (if fld c.desc 0x10 1 = 0 then putAll 0 s.dev.fab.group (fld c.desc 0x12 2)
        ((List.range (fld c.desc 0x14 2)).map fun i => fld c.buf (8 * i) 8) else s.dev.fab.group) ∧
      t.dev.fab.member = (if fld c.desc 0x10 1 = 0 then s.dev.fab.member else putAll 0 s.dev.fab.member
        (fld c.desc 0x12 2) ((List.range (fld c.desc 0x14 2)).map fun i => fld c.buf (8 * i) 8)) ∧
      SameRest s t := by
  have hfirst : fld c.desc 0x12 2 < 1024 := by omega
  have hentries := find_range_getD (fld c.desc 0x14 2) (fun i => fld c.buf (8 * i) 8) 0 (fun e => bitsOf e 43 15 != 0)
  rw [hgood] at hentries
  rw [exec_routeTable, execRouteTable, act_cmdChecks hon hready (by
    simp [firstFail, fieldOk, hsome, hlast, htable, hfirst, hlinks])]
  simp only [hentries]
  refine .of_next ⟨cmd_cmdDone (cmd_of_ready hready) _ _, ?_, ?_, rfl, rfl, rfl⟩
  · show (if _ then _ else _ : Fabric).group = _
    split <;> rfl
  · show (if _ then _ else _ : Fabric).member = _
    split <;> rfl

/-- SCHED_CONFIG of a port's service weights, with a good record, writes the five weights (R322). -/
theorem execSchedConfig_of_weights {s : State} {ring index : Nat} {c : Cmd} (hon : s.dev.on = true)
    (hready : s.dev.cmdReady ring index 0x09 = some c) (hpass : firstFail (schedChecks c) = none)
    (hkind : fld c.desc 0x10 1 = 1)
    (hgood : (List.range (fld c.desc 0x14 2)).find? (fun i => !(serviceOk (cut c.buf (8 * i) 8))) = none) :
    execSchedConfig ring index s = .next (s.withDev
      (cmdDone (shareCheck (s.dev.onFab fun f =>
        { f with
          weights := (List.range 5).foldl (fun t i => tput 0 t (fld c.desc 0x11 1 * 8 + 3 + i) (fld c.buf i 1))
            f.weights })) ring index St.ok 0)) := by
  have hrecords := find_range_getD (fld c.desc 0x14 2) (fun i => (fld c.desc 0x12 2 + i, cut c.buf (8 * i) 8)) (0, [])
    (fun r => !(serviceOk r.2))
  rw [hgood] at hrecords
  rw [execSchedConfig, act_cmdChecks hon hready hpass]
  simp only [hkind, Nat.one_ne_zero, if_false, if_true, hrecords]

/-! ### The associative match -/

theorem maskProfile_answers {s : State} {ring index : Nat} {c : Cmd} (hon : s.dev.on = true)
    (hready : s.dev.cmdReady ring index 0x0A = some c) (hlow : 1 ≤ fld c.desc 0x10 1)
    (hhigh : fld c.desc 0x10 1 ≤ 63) (hmat : s.dev.mat.ready = true) :
    Answers (exec (.maskProfile ring index) s) fun t =>
      Ended t ring index c 0 0 ∧
      t.dev.mat.profiles = tput 0 s.dev.mat.profiles (fld c.desc 0x10 1) (fld c.desc 0x14 20) ∧
      t.dev.mat.assigned =
        (bitIdx 32 (fld c.desc 0x28 4)).foldl (fun t l => tput 0 t l (fld c.desc 0x10 1)) s.dev.mat.assigned ∧
      t.dev.mat.entries = s.dev.mat.entries ∧ SameRest s t := by
  rw [exec_maskProfile, execMaskProfile, act_cmdChecks hon hready (by simp [firstFail, hlow, hhigh, hmat])]
  exact .of_next ⟨cmd_cmdDone (cmd_of_ready hready) _ _, rfl, rfl, rfl, rfl, rfl, rfl⟩

/-- TABLE_EDIT of a fresh command applies its records from the first (R429). -/
theorem execTableEdit_of_fresh {s : State} {ring index : Nat} {c : Cmd} (hon : s.dev.on = true)
    (hready : s.dev.cmdReady ring index 0x0B = some c) (hlow : 1 ≤ fld c.desc 0x10 2)
    (hhigh : fld c.desc 0x10 2 ≤ 4096) (hlength : fld c.desc 0x20 4 = 64 * fld c.desc 0x10 2)
    (hmat : s.dev.mat.ready = true) (hfresh : s.dev.mat.edits = []) :
    execTableEdit ring index s = .next (s.withChip
      (editRun ring index (fld c.desc 0x10 2) c.buf (fld c.desc 0x10 2 + 1) 0
        (s.chip.onDev fun d => d.onMat fun m => { m with edits := [] }))) := by
  have hcount : ¬ (fld c.desc 0x10 2 = 0 ∨ 4096 < fld c.desc 0x10 2) := by omega
  rw [execTableEdit]
  refine actMem_of hon ?_
  simp only [State.chip_dev, hready, if_neg hcount, hlength, hmat, hfresh, List.find?_nil]
  simp [Chip.onDev, Dev.onMat, hfresh, dropWhere]

/-- HOLE_REPAIR of a run of partition 1 (the prefixes) that has no hole left carries one into it (R242). -/
theorem execHoleRepair_of_partition_one {s : State} {die run : Nat} {runs : List Nat} (hon : s.dev.on = true)
    (hdie : die = 28 ∨ die = 29) (hrun : tget [] s.dev.mat.repairs ((die - 28) * 2 + 1) = run :: runs)
    (hfull : (runHoles (dieTab s.dev die) (holeSpacing s.dev) run).isEmpty = true) :
    execHoleRepair die 1 s = .next (s.withChip
      (writeEntries (s.chip.onDev fun d => d.onMat fun m =>
          { m with repairs := tmod [] m.repairs ((die - 28) * 2 + 1) fun l => l.drop 1 }) die
        (repairWrites (dieTab s.dev die) (partRange s.dev 1).1 (partRange s.dev 1).2 (holeSpacing s.dev) run))) := by
  have hnamed : ¬ (die < 28 ∨ 29 < die ∨ 1 < 1) := by omega
  rw [execHoleRepair]
  refine actMem_of hon ?_
  simp only [State.chip_dev, if_neg hnamed, hrun, List.head?_cons]
  exact if_pos hfull

/-- PREFIX_LOOKUP of a fresh command looks its keys up from the first (R238). -/
theorem execPrefixLookup_of_fresh {s : State} {ring index : Nat} {c : Cmd} (hon : s.dev.on = true)
    (hready : s.dev.cmdReady ring index 0x0C = some c)
    (hfresh : (s.dev.mat.lookups.any fun l => l.ring == ring && l.index == index) = false)
    (hlow : 1 ≤ fld c.desc 0x10 2) (hhigh : fld c.desc 0x10 2 ≤ 4096)
    (hlength : fld c.desc 0x20 4 = 16 * fld c.desc 0x10 2) (hroom : 16 * fld c.desc 0x10 2 ≤ fld c.desc 0x30 4) :
    execPrefixLookup ring index s = .next (s.withChip
      (lookupRun ring index c (fld c.desc 0x10 2) none none (lookupFuel (fld c.desc 0x10 2)) 0 0 [] s.chip)) := by
  have hcount : ¬ (fld c.desc 0x10 2 = 0 ∨ 4096 < fld c.desc 0x10 2) := by omega
  rw [execPrefixLookup]
  refine actMem_of hon ?_
  simp only [State.chip_dev, hready, hfresh, if_neg hcount, hlength, Nat.not_lt.mpr hroom, ne_eq, not_true, if_false,
    Bool.false_eq_true]

theorem scanServe_of_cmd {die : Nat} {k : Chip} {l : Lookup} {c : Cmd} (hcmd : k.dev.cmd l.ring l.index = some c) :
    scanServe die k l = lookupRun l.ring l.index c (fld c.desc 0x10 2) (some die) none (lookupFuel (fld c.desc 0x10 2))
      l.next l.hits l.out k := by
  simp [scanServe, hcmd]

/-- PREFIX_COPY_SCAN serves the one lookup that has waited since the scan began (R251). -/
theorem execPrefixCopyScan_of_one {s : State} {die : Nat} {l : Lookup} {c : Cmd} (hon : s.dev.on = true)
    (hlost : s.dev.lost die = true) (hone : s.dev.mat.lookups = [l]) (hscanning : l.scanning = true)
    (hasks : l.asks = none) (hcmd : s.dev.cmd l.ring l.index = some c) (hdie : prefixDie (lookupKey c l.next) = die) :
    execPrefixCopyScan die s = .next (s.withChip
      (lookupRun l.ring l.index c (fld c.desc 0x10 2) (some die) none (lookupFuel (fld c.desc 0x10 2)) l.next l.hits
        l.out (s.chip.onDev fun d => d.onMat fun m => { m with lookups := [] }))) := by
  rw [execPrefixCopyScan]
  refine actMem_of hon ?_
  simp only [State.chip_dev, hlost, if_true]
  simp only [hone, hscanning, hasks, hcmd, hdie, Option.isNone_none, beq_self_eq_true, Bool.and_true, List.filter_cons,
    List.filter_nil, if_true, List.foldl_cons, List.foldl_nil]
  rw [scanServe_of_cmd (c := c) hcmd]
  simp [Chip.onDev, Dev.onMat, hone, hscanning, hasks, hcmd, hdie]

/-- Settles O12: each command passes the checks of its opcode, or the guard of what completes it holds, and what it does
is then the branch of its definition that the state names; a granule's change is settled once for the three cases. -/
theorem configurationCommands : Obligations.ConfigurationCommands := by
  unfold Obligations.ConfigurationCommands
  refine ⟨fun s ring index c hon hready hpass hidle htodo => granuleConfig_answers hon hready hpass hidle htodo,
    fun s slice g rest ch hon hslice hready hch htodo hrest hkind hfilled hsettled => ?_,
    fun s slice g rest ch hon hslice hready hch htodo hrest hkind hsettled => ?_,
    fun s slice g rest ch hon hslice hready hch htodo hrest hkind hsettled => ?_,
    fun s ring index c hon hready hcount hgood hwindow hkeeps hkept hroom => ?_,
    fun s ring index c hon hready hpass hunbound => ?_, fun s ring index c hon hready hpass hbound => ?_,
    fun s n ring index l desc c hon hrestarting hfw hidle hcmd hdesc hpass => ?_,
    fun s ring index c hon hready hindex hbound htenant =>
      execCompositionFence_of_bound hon hready hindex hbound htenant,
    fun s ring index c hon hready hsome hlast htable hlinks hgood =>
      routeTable_answers hon hready hsome hlast htable hlinks hgood,
    fun s ring index c hon hready hpass hkind hgood => execSchedConfig_of_weights hon hready hpass hkind hgood,
    fun s ring index c hon hready hlow hhigh hmat => maskProfile_answers hon hready hlow hhigh hmat,
    fun s ring index c hon hready hlow hhigh hlength hmat hfresh =>
      execTableEdit_of_fresh hon hready hlow hhigh hlength hmat hfresh,
    fun s die partition run runs hon hdie hpartition hrun hfull => ?_,
    fun s ring index c hon hready hfresh hlow hhigh hlength hroom =>
      execPrefixLookup_of_fresh hon hready hfresh hlow hhigh hlength hroom,
    fun s die l c hon hlost hone hscanning hasks hcmd hdie =>
      execPrefixCopyScan_of_one hon hlost hone hscanning hasks hcmd hdie⟩
  · rw [execGranuleKindChangeDone_of_ready hon hslice hready
      (granuleDone_of_settled hch htodo hrest (by rw [hfilled, hkind]; rfl) hsettled), if_pos hkind]
    rfl
  · have hdone := granuleDone_of_settled (k := s.chip) hch htodo hrest (by rw [hkind]; rfl) hsettled
    have hlast : ∀ d : Dev, granuleFill (granuleNext d slice g rest ch) slice = granuleNext d slice g rest ch :=
      fun d => granuleFill_of_ordinary (ch := { ch with todo := rest, filled := false }) (tfind_tins_same _ _ _) hkind
    rw [if_neg (ne_true_of_eq_false hkind)] at hdone
    simp only [hlast] at hdone
    exact execGranuleKindChangeDone_of_ready hon hslice hready hdone
  · exact execGranuleKindChangeDone_of_ready hon hslice hready
      (granuleDone_of_unsettled (k := s.chip) hch htodo (by rw [hkind]; rfl) hsettled)
  · exact execTier2Extents_of_kept hon hready hcount hgood hwindow hkeeps hkept hroom
  · rw [exec_compositionBind, execCompositionBind, act_cmdChecks hon hready hpass]
    dsimp only
    rw [if_pos (by rw [hunbound]; rfl)]
  · have hslices : ¬ (comp s.dev (fld c.desc 0x10 1)).slices.isEmpty = true := by simpa using hbound
    rw [exec_compositionBind, execCompositionBind, act_cmdChecks hon hready hpass]
    dsimp only
    rw [if_neg hslices]
    exact .of_next ⟨cmd_onCmd (cmd_of_ready hready) fun _ => rfl, rfl, rfl, rfl, rfl⟩
  · subst hdesc
    exact execCompositionRestartDone_of_idle hon hrestarting hfw hidle hcmd rfl hpass
  · subst hpartition
    exact execHoleRepair_of_partition_one hon hdie hrun hfull

end Sys2Proof.Machine
end

section
/-! Bank-side units, and the accesses of tier 1 that wait for them or for the host (R206 to R221, R394, R395). -/

namespace Sys2Proof.Machine

/-! ### What a count, a back-invalidation and a stored burst leave of the host interface -/

theorem count_onCnt (d : Dev) (die event k : Nat) :
    count d die event k = d.onCnt fun _ => (count d die event k).cnt := by
  unfold count ctrEach
  split <;> rfl

@[simp] theorem count_hif (d : Dev) (die event k : Nat) : (count d die event k).hif = d.hif := by
  rw [count_onCnt, Dev.onCnt_hif]

theorem sendBisnp_waiting (d : Dev) (line : Nat) : (sendBisnp d line).hif.waiting = d.hif.waiting := by
  unfold sendBisnp
  split
  · rfl
  · simp

theorem sendBisnp_hostReads (d : Dev) (line : Nat) : (sendBisnp d line).hif.hostReads = d.hif.hostReads := by
  unfold sendBisnp
  split
  · rfl
  · simp

theorem foldl_sendBisnp_waiting (d : Dev) (ls : List Nat) : (ls.foldl sendBisnp d).hif.waiting = d.hif.waiting :=
  foldl_keeps (·.hif.waiting) sendBisnp_waiting ls d

theorem foldl_sendBisnp_hostReads (d : Dev) (ls : List Nat) :
    (ls.foldl sendBisnp d).hif.hostReads = d.hif.hostReads :=
  foldl_keeps (·.hif.hostReads) sendBisnp_hostReads ls d

theorem writeErrors_hif (a n : Nat) (d : Dev) (p : Nat × Bytes) : (writeErrors a n d p).hif = d.hif := by
  unfold writeErrors
  split <;> rfl

theorem storeNow_hif (k : Chip) (a : Nat) (b : Bytes) : (storeNow k a b).dev.hif = k.dev.hif :=
  foldl_keeps Dev.hif (writeErrors_hif a b.length) _ _

/-! ### Accesses that wait -/

/-- A store that finds a line the host may hold, a row operation or an earlier store of its run writes nothing yet, and
joins the end of the stores that wait (R40, R221, R395). -/
theorem nodeWrite_of_waiting {k : Chip} {a : Nat} {b : Bytes}
    (h : filteredLines k.dev a b.length ≠ [] ∨ writeWaits k.dev a b.length = true) :
    (nodeWrite k a b).mem = k.mem ∧ (nodeWrite k a b).dev.hif.waiting =
      k.dev.hif.waiting ++ [{ addr := a, data := b, lines := filteredLines k.dev a b.length }] := by
  have hguard : ¬ ((filteredLines k.dev a b.length).isEmpty && !(writeWaits k.dev a b.length)) = true := by
    rcases h with hlines | hwaits
    · simp [hlines]
    · simp [hwaits]
  rw [nodeWrite, if_neg hguard]
  exact ⟨rfl, congrArg (· ++ [_]) (foldl_sendBisnp_waiting _ _)⟩

/-- Settles O47: over sound bursts the command is the engine's store, which waits. -/
theorem engineStoreWaits : Obligations.EngineStoreWaits := by
  unfold Obligations.EngineStoreWaits
  intro s addr data hon hend hready hblocked hwaits
  obtain ⟨hmem, hwaiting⟩ := nodeWrite_of_waiting (k := s.chip) hwaits
  rw [exec_partialBurstWrite, execPartialBurstWrite_of_engine hon hend hready hblocked]
  exact .of_next ⟨⟨hmem, rfl, rfl⟩, hwaiting⟩

/-- R219: a read of a subarray under a row operation stays in its channel's queue. -/
theorem readQueued_of_busy {k : Chip} {a : Nat} (hbusy : rangeBusy k.dev a 64 = true) :
    readQueued k a = readWaits k a none := if_pos hbusy

/-- A host read that no waiting store holds back and that finds room in the filter enters its channel's queue; there it
stays while a row operation runs in its subarray (R219, R394). -/
theorem hostRead_of_busy {k : Chip} {a : Nat} (hfree : k.dev.hif.waiting = [])
    (hroom : (tget [] k.dev.hif.filter (addrDie a)).length < 16384) (hbusy : rangeBusy k.dev a 64 = true) :
    ∃ filter, hostRead k a = readWaits (k.onDev fun d => d.onHif fun h => { h with filter := filter }) a none := by
  rw [hostRead, if_neg (by simp [hfree])]
  by_cases hheld : (tget [] k.dev.hif.filter (addrDie a)).contains (a / 64) = true
  · exact ⟨k.dev.hif.filter, (if_pos hheld).trans (readQueued_of_busy hbusy)⟩
  · exact ⟨_, ((if_neg hheld).trans (if_pos hroom)).trans (readQueued_of_busy hbusy)⟩

/-- HOST_HDM_READ of a line whose channel is in service, while host coherence holds, is the host's read (R200, R393). -/
theorem execHostHdmRead_of_ready {s : State} {addr : Nat} (hon : s.dev.on = true) (hhdm : s.dev.hdm = true)
    (hcoherent : s.dev.hif.cohFailed = false) (haddr : addr < 3298534883328)
    (hready : addrReady s.dev (addr / 64 * 64) = true) :
    execHostHdmRead addr s = .next (s.withChip (hostRead s.chip (addr / 64 * 64))) := by
  have hexists : ¬ tier1Bytes ≤ addr := by rw [tier1Bytes_eq]; omega
  rw [execHostHdmRead, if_neg (by simp [hexists])]
  refine actMem_of hon ?_
  simp [hhdm, hcoherent, hready]

/-- Settles O48: the read stays in its channel's queue, and of the block only that queue and the filter change. -/
theorem hostReadWaits : Obligations.HostReadWaits := by
  unfold Obligations.HostReadWaits
  intro s addr hon hhdm hcoherent haddr hready hfree hroom hbusy
  obtain ⟨filter, hread⟩ := hostRead_of_busy (k := s.chip) hfree hroom hbusy
  rw [exec_hostHdmRead, execHostHdmRead_of_ready hon hhdm hcoherent haddr hready, hread]
  exact .of_next ⟨⟨rfl, rfl, rfl⟩, rfl, rfl⟩

/-! ### What is taken up again when a row operation ends -/

/-- With no host read waiting none is taken up again. -/
theorem retryReads_of_none {k : Chip} (h : k.dev.hif.hostReads = []) (queued : Bool) : retryReads k queued = k := by
  have hdrop : ∀ p, dropWhere p k.dev.hif.hostReads = k.dev.hif.hostReads := fun p => by rw [h]; rfl
  rw [retryReads, h, List.filter_nil, List.foldl_nil]
  simp only [Chip.onDev, Dev.onHif, hdrop]

/-- Stores that wait for the host's answer stay in the queue, in their order (R395). -/
theorem releaseFrom_of_held {ws : List WaitWrite} (h : ∀ w ∈ ws, w.lines ≠ []) (k : Chip) :
    releaseFrom k ws = k.onDev fun d => d.onHif fun x => { x with waiting := x.waiting ++ ws } := by
  induction ws generalizing k with
  | nil => simp [releaseFrom, Chip.onDev, Dev.onHif]
  | cons w ws ih =>
    obtain ⟨hw, hws⟩ := List.forall_mem_cons.mp h
    rw [releaseFrom, if_neg (by simp [hw]), ih hws]
    simp [Chip.onDev, Dev.onHif]

/-- With no host read waiting, and every waiting store behind the host's answer, nothing goes on. -/
theorem memReleased_of_held {k : Chip} (hreads : k.dev.hif.hostReads = [])
    (hheld : ∀ w ∈ k.dev.hif.waiting, w.lines ≠ []) : memReleased k = k := by
  have hwrites : releaseWrites k = k := releaseFrom_of_held hheld _
  rw [memReleased, retryReads_of_none hreads, hwrites, retryReads_of_none hreads]

/-! ### The bookkeeping of a row operation -/

@[simp] theorem Dev.onJob_hif (d : Dev) (id : Nat) (f : Job → Job) : (d.onJob id f).hif = d.hif := rfl

/-- What runs in the banks is no part of a job. -/
theorem Dev.job_onRow_running (d : Dev) (f : RowOps → Tab (Nat × RowOp)) (id : Nat) :
    (d.onRow fun x => { x with running := f x }).job id = d.job id := rfl

@[simp] theorem ownJobDone_hif (d : Dev) (j : Job) : (ownJobDone d j).hif = d.hif := by
  unfold ownJobDone
  split <;> rfl

@[simp] theorem notePauses_hif (d : Dev) (slice : Nat) : (notePauses d slice).hif = d.hif :=
  foldl_keeps Dev.hif (fun d j => by dsimp only; split <;> simp) _ d

@[simp] theorem issueRefresh_hif (d : Dev) (bank n : Nat) : (issueRefresh d bank n).hif = d.hif := by simp [issueRefresh]

@[simp] theorem refreshBanks_hif (d : Dev) (slice bank : Nat) : (refreshBanks d slice bank).hif = d.hif :=
  foldl_keeps Dev.hif (fun d b => by dsimp only; split <;> simp) _ d

/-- ROW_OP_COMPLETE of a job's row operation: its effect on the bank, then counts, marks and refreshes that leave the
host interface alone, then what waited goes on (R206, R218 to R221). -/
theorem rowOpDone_of_job {k : Chip} {slice bank id : Nat} {o : RowOp} {j : Job}
    (hrun : tfind k.dev.row.running (16 * slice + bank) = some (id, o)) (hjob : k.dev.job id = some j) :
    ∃ (ended : RowOps → RowOps) (noted : Dev → Dev), (∀ d, (noted d).hif = d.hif) ∧
      rowOpDone k slice bank = memReleased ((rowEffect (k.onDev fun d => d.onRow ended) j o).onDev noted) := by
  refine ⟨?ended, ?noted, ?keeps, ?done⟩
  case done =>
    unfold rowOpDone
    simp only [hrun, Chip.onDev_dev, Dev.job_onRow_running, hjob]
    rfl
  case keeps =>
    intro d
    split
    · rw [refreshBanks_hif, notePauses_hif]
      split <;> simp
    · simp

/-! ### What a row operation leaves in its destination -/

/-! Neither the bytes of a row nor their store depends on what runs in the banks. -/

theorem rowResult_onRow (k : Chip) (f : RowOps → RowOps) (o : RowOp) :
    rowResult (k.onDev fun d => d.onRow f) o = rowResult k o := rfl

theorem storeNow_onRow_mem (k : Chip) (f : RowOps → RowOps) (a : Nat) (b : Bytes) :
    (storeNow (k.onDev fun d => d.onRow f) a b).mem = (storeNow k a b).mem := rfl

theorem rowResult_xor {o : RowOp} (h : o.op = 5) (k : Chip) :
    rowResult k o = List.zipWith (· ^^^ ·) (unitBytes k o.a) (unitBytes k o.b) := by
  simp only [rowResult, h]

/-- What a row operation of no scrub leaves is written to its destination (R206). -/
theorem rowEffect_of_not_scrub {j : Job} (h : ∀ f n, j.use ≠ .scrub f n) (k : Chip) (o : RowOp) :
    rowEffect k j o = rowWrite k (8192 * o.dst) (rowResult k o) := by
  unfold rowEffect
  split
  · exact absurd ‹_› (h _ _)
  · rfl

theorem rowWrite_of_free {k : Chip} {a : Nat} {b : Bytes} (h : filteredLines k.dev a b.length = []) :
    rowWrite k a b = storeNow k a b := by
  simp [rowWrite, h]

/-- A row of which the host may hold a line waits, before every other store (R221, R395). -/
theorem rowWrite_of_filtered {k : Chip} {a : Nat} {b : Bytes} (h : filteredLines k.dev a b.length ≠ []) :
    (rowWrite k a b).mem = k.mem ∧ (rowWrite k a b).dev.hif.waiting =
      { addr := a, data := b, lines := filteredLines k.dev a b.length } :: k.dev.hif.waiting := by
  rw [rowWrite, if_neg (by simpa using h)]
  exact ⟨rfl, congrArg (_ :: ·) (foldl_sendBisnp_waiting _ _)⟩

theorem rowWrite_hostReads (k : Chip) (a : Nat) (b : Bytes) :
    (rowWrite k a b).dev.hif.hostReads = k.dev.hif.hostReads := by
  unfold rowWrite
  dsimp only
  split
  · exact congrArg (·.hostReads) (storeNow_hif k a b)
  · exact foldl_sendBisnp_hostReads _ _

/-- Where no store waited, a row operation's row is stored, or waits for the host's answer. -/
theorem rowWrite_held {k : Chip} (h : k.dev.hif.waiting = []) (a : Nat) (b : Bytes) :
    ∀ w ∈ (rowWrite k a b).dev.hif.waiting, w.lines ≠ [] := by
  by_cases hlines : filteredLines k.dev a b.length = []
  · simp [rowWrite_of_free hlines, storeNow_hif, h]
  · simp [(rowWrite_of_filtered hlines).2, h, hlines]

/-- ROW_OP_COMPLETE on a die that runs ends the row operation of the bank (R206). -/
theorem execRowOpComplete_of_ready {s : State} {slice : Nat} (hon : s.dev.on = true)
    (hready : s.dev.ready (dieOfSlice slice) = true) (bank : Nat) :
    execRowOpComplete slice bank s = .next (s.withChip (rowOpDone s.chip slice bank)) :=
  actMem_when hon hready

/-- Settles O58: the row is computed and written while the bank still holds what it held, and of what follows nothing
goes on that touches tier 1. -/
theorem rowResults : Obligations.RowResults := by
  unfold Obligations.RowResults
  intro s slice bank id o j hon hready hrun hjob huse hfree hreads
  refine ⟨fun hop => rowResult_xor hop s.chip, ?_⟩
  obtain ⟨ended, noted, hnoted, hdone⟩ := rowOpDone_of_job (k := s.chip) hrun hjob
  rw [rowEffect_of_not_scrub huse, rowResult_onRow, memReleased_of_held] at hdone
  case hreads =>
    rw [Chip.onDev_dev, hnoted, rowWrite_hostReads]
    exact hreads
  case hheld =>
    rw [Chip.onDev_dev, hnoted]
    exact rowWrite_held hfree _ _
  rw [exec_rowOpComplete, execRowOpComplete_of_ready hon hready, hdone]
  refine .of_next ⟨rfl, rfl, fun hlines => ?_, fun hlines => ?_⟩
  · exact (congrArg Chip.mem (rowWrite_of_free hlines)).trans (storeNow_onRow_mem _ _ _ _)
  · obtain ⟨hmem, hwaiting⟩ := rowWrite_of_filtered (k := s.chip.onDev fun d => d.onRow ended) hlines
    have hqueue := (congrArg Hif.waiting (hnoted _)).trans hwaiting
    exact ⟨hmem, _, List.mem_of_mem_head? (congrArg List.head? hqueue), rfl, rfl⟩

/-! ### Row operations and their jobs -/

/-- Settles O32: each command's guard holds or fails, and what it does is then the branch of its definition that the state
names. -/
theorem rowOperations : Obligations.RowOperations := by
  unfold Obligations.RowOperations
  refine ⟨fun s slice j o hon hready hslice hlimit hnext => ?_, fun s slice hon hlimit => ?_,
    fun s slice bank hon hready => execRowOpComplete_of_ready hon hready bank, fun s slice bank hon hrun => ?_,
    fun s job ring index j hon hjob huse hdone => ?_⟩
  · rw [exec_rowOpStart, execRowOpStart, act_when hon (by simp [hready, hslice, hlimit])]
    simp only [hnext]
  · rw [exec_rowOpStart, execRowOpStart]
    refine act_of hon (if_neg ?_)
    simp [hlimit]
  · rw [exec_rowOpComplete, execRowOpComplete]
    refine actMem_same hon ?_
    simp [Chip.when, rowOpDone, hrun]
  · rw [exec_bankopJobComplete, execBankopJobComplete]
    refine act_of hon ?_
    simp [hjob, huse, hdone, Dev.when, jobResult, St.ok]

end Sys2Proof.Machine
end

section
/-! Associative match: when an entry matches a search key, which entry a search answers, and what a scrub of the entries
does (R227, R230, R248, R250). -/

namespace Sys2Proof.Machine

/-! ### An entry and a key -/

theorem keyOnes_eq : keyOnes = (BitVec.allOnes 160).toNat := by simp [keyOnes]

/-- The comparison of R227 over words of 160 bits. -/
theorem entryMatches_toNat (v c k m : BitVec 160) (action prio : Nat) :
    entryMatches { value := v.toNat, care := c.toNat, action := action, prio := prio } k.toNat m.toNat = true ↔
      (v ^^^ k) &&& c &&& ~~~m = 0#160 := by
  rw [← BitVec.allOnes_xor, ← BitVec.toNat_inj]
  simp [entryMatches, keyOnes_eq]

/-- A bit is no hindrance to a match when it is masked, not cared for, or equal to the key's (R227). -/
theorem bit_agrees_iff (v k c m : Bool) : ((v ^^ k) && c && !m) = false ↔ m = true ∨ c = false ∨ v = k := by
  revert v k c m
  decide

/-- Settles O51: the comparison is made bit by bit, and each bit has its own say. -/
theorem entryMatches_iff : Obligations.EntryMatches := by
  unfold Obligations.EntryMatches
  intro v c k m action prio
  rw [entryMatches_toNat, BitVec.eq_of_getLsbD_eq_iff, Fin.forall_iff]
  refine forall₂_congr fun i hi => ?_
  rw [← bit_agrees_iff]
  simp [hi]

/-! ### The winner of a search -/

/-- Only of no entries there is no lowest. -/
theorem lowestEntry_eq_none_iff {l : List (Nat × MEntry)} : lowestEntry l = none ↔ l = [] := by
  cases l with
  | nil => simp [lowestEntry]
  | cons p l =>
    rw [lowestEntry]
    cases lowestEntry l with
    | none => simp
    | some q => by_cases hle : p.1 ≤ q.1 <;> simp [hle]

/-- The lowest of some entries is one of them, and none of them has a lower index. -/
theorem lowestEntry_spec {l : List (Nat × MEntry)} {p : Nat × MEntry} (h : lowestEntry l = some p) :
    p ∈ l ∧ ∀ q ∈ l, p.1 ≤ q.1 := by
  induction l generalizing p with
  | nil => cases h
  | cons a l ih =>
    rw [lowestEntry] at h
    cases hl : lowestEntry l with
    | none =>
      obtain rfl := lowestEntry_eq_none_iff.mp hl
      obtain rfl : a = p := by simpa [hl] using h
      simp
    | some b =>
      obtain ⟨hmem, hmin⟩ := ih hl
      by_cases hle : a.1 ≤ b.1
      · obtain rfl : a = p := by simpa [hl, hle] using h
        exact ⟨List.mem_cons_self, List.forall_mem_cons.mpr ⟨le_rfl, fun q hq => hle.trans (hmin q hq)⟩⟩
      · obtain rfl : b = p := by simpa [hl, hle] using h
        exact ⟨List.mem_cons_of_mem _ hmem, List.forall_mem_cons.mpr ⟨by omega, hmin⟩⟩

/-- Settles O52: the winner is the lowest of the entries that the search leaves over, and where none is left over there is
no winner. -/
theorem lowestEntryWins : Obligations.LowestEntryWins := by
  unfold Obligations.LowestEntryWins
  intro d die part key mask
  refine ⟨fun i e hfound => ?_, fun hmiss j f hf hlo hhi => ?_⟩
  · obtain ⟨hmem, hmin⟩ := lowestEntry_spec hfound
    simp only [List.mem_filter, Bool.and_eq_true, decide_eq_true_eq] at hmem hmin
    obtain ⟨htab, ⟨hlo, hhi⟩, hmatch⟩ := hmem
    exact ⟨htab, hlo, hhi, hmatch, fun j f hf hjlo hjhi hjmatch => hmin (j, f) ⟨hf, ⟨hjlo, hjhi⟩, hjmatch⟩⟩
  · have hout := List.filter_eq_nil_iff.mp (lowestEntry_eq_none_iff.mp hmiss) (j, f) hf
    simpa [hlo, hhi] using hout

/-! ### The scrub of the entries -/

/-- Settles O34: of each command the guard fails or holds, and what a scrub does then follows from the copy it reads. -/
theorem matchMaintenance : Obligations.MatchMaintenance := by
  unfold Obligations.MatchMaintenance
  refine ⟨fun s die hon hmat => ?_, fun s die k hon hready hmat hlow hhigh hdue hbad => ?_,
    fun s die k b hon hready hmat hlow hhigh hdue hread hagree => ?_, fun s die failed hon hdone hch hready => ?_⟩
  · rw [exec_matchScrub, execMatchScrub]
    refine actMem_same hon ?_
    simp [hmat]
  · rw [exec_matchScrub, execMatchScrub, actMem_when hon (by simp [hready, hmat, hlow, hhigh, Dev.due, hdue])]
    simp only [State.chip_dev, hbad]
    rfl
  · rw [exec_matchScrub, execMatchScrub, actMem_when hon (by simp [hready, hmat, hlow, hhigh, Dev.due, hdue])]
    simp only [State.chip_dev, hread, hagree, if_true]
  · rw [exec_selfRefreshExit, execSelfRefreshExit]
    exact act_when hon (by simp [hdone, hch, hready])

end Sys2Proof.Machine
end

section
/-! Flits and their replay, the routing of message heads, and the reception and classification of messages (R234, R235,
R259, R263, R272, R276, R277, R281, R284, R324, R329, R349). -/

namespace Sys2Proof.Machine

/-! ### A link after a change -/

/-- Where a changed link is not the link of reset, it reads as what it was changed to. -/
theorem link_onLink_of_ne {d : Dev} {n : Nat} {f : Link → Link} (h : f (d.link n) ≠ {}) :
    (d.onLink n f).link n = f (d.link n) :=
  tget_tput_new h

/-- Two changes that agree on the link they change are one. -/
theorem onLink_congr {d : Dev} {n : Nat} {f g : Link → Link} (h : f (d.link n) = g (d.link n)) :
    d.onLink n f = d.onLink n g := by
  unfold Dev.link at h
  simp [Dev.onLink, tmod, h, Dev.onFab]

theorem active_iff {d : Dev} {n : Nat} : d.active n = true ↔ d.linkUp n = true ∧ (d.link n).state = .active := by
  simp [Dev.active]

/-- A change that keeps the states of links keeps an ACTIVE link ACTIVE. -/
theorem active_onLink {d : Dev} {n : Nat} {f : Link → Link} (h : d.active n = true)
    (hf : ∀ l : Link, (f l).state = l.state) : (d.onLink n f).active n = true := by
  obtain ⟨hup, hstate⟩ := active_iff.mp h
  have hkept : (f (d.link n)).state = .active := (hf _).trans hstate
  have hne : f (d.link n) ≠ {} := fun h => by rw [h] at hkept; cases hkept
  exact active_iff.mpr ⟨hup, by rw [link_onLink_of_ne hne, hkept]⟩

theorem laneCount_onCnt (d : Dev) (link event k : Nat) :
    laneCount d link event k = d.onCnt fun _ => (laneCount d link event k).cnt := count_onCnt _ _ _ _

/-- A count changes no link. -/
theorem active_laneCount (d : Dev) (link event k n : Nat) : (laneCount d link event k).active n = d.active n := by
  rw [laneCount_onCnt]
  rfl

@[simp] theorem retrainNote_state (l : Link) (trigger : Nat) : (retrainNote l trigger).state = l.state := by
  unfold retrainNote
  split <;> rfl

/-- A codeword leaves its link ACTIVE; a retrain that it asks for is a command of its own (R268). -/
theorem active_codewordSeen {d : Dev} {n : Nat} (h : d.active n = true) (bad : Bool) :
    (codewordSeen d n bad).active n = true := by
  have hnext := active_onLink h (f := fun l => { l with rxPos := (l.rxPos + 1) % superframe }) fun _ => rfl
  unfold codewordSeen
  dsimp only
  split
  · split
    · refine active_onLink ((active_laneCount _ _ _ _ _).trans hnext) fun l => ?_
      split
      · simp
      · split <;> simp
    · exact active_onLink hnext fun _ => rfl
  · exact hnext

/-- A flit on an ACTIVE link is noted with its codeword, and then taken in or asked for again (R259, R263). -/
theorem execFlitReceive_of_active {s : State} {link : Nat} (hon : s.dev.on = true) (hactive : s.dev.active link = true)
    (flit : Bytes) (bad : Bool) :
    execFlitReceive link flit bad s = .next (s.withDev
      (if bad || !(flitGood flit) then nakSet (codewordSeen s.dev link bad) link
       else goodFlit (codewordSeen s.dev link bad) link flit)) := by
  obtain ⟨hup, hstate⟩ := active_iff.mp hactive
  rw [execFlitReceive]
  refine act_of hon ?_
  simp [hup, hstate, flitStates, active_codewordSeen hactive]

/-! ### The choice of a port -/

theorem pickSub_now (d : Dev) (port service : Nat) (cs : List Cand) : (pickSub d port service cs).1.now = d.now := by
  unfold pickSub
  dsimp only
  split <;> rfl

/-- R325's choice within a strict service: the message in progress, or its subscribers' turn. -/
def strictTurn (d : Dev) (port : Nat) (cs : List Cand) (service : Nat) : Dev × Option (Cand × Bool) :=
  match ((cs.filter (·.service == service)).find? (·.started), cs.filter (·.service == service)) with
  | (some c, _) => (d, some (c, false))
  | (none, here) =>
    match pickSub d port service here with
    | (d', some c) => (d', some (c, false))
    | (d', none) => (d', none)

theorem strictTurn_now (d : Dev) (port : Nat) (cs : List Cand) (service : Nat) :
    (strictTurn d port cs service).1.now = d.now := by
  unfold strictTurn
  split
  · rfl
  · split
    all_goals next h => exact (congrArg (·.1.now) h).symm.trans (pickSub_now _ _ _ _)

/-- The port's choice grants rounds, and takes no time. -/
theorem pickCand_now (d : Dev) (port : Nat) (cs : List Cand) : (pickCand d port cs).1.now = d.now := by
  have hstrict {service : Nat} {p : Dev × Option (Cand × Bool)} (h : strictTurn d port cs service = p) :
      p.1.now = d.now := h ▸ strictTurn_now d port cs service
  unfold pickCand
  dsimp only
  split
  case h_1 h => exact hstrict (service := 0) h
  split
  case h_1 h => exact hstrict (service := 1) h
  split
  case h_1 h => exact hstrict (service := 2) h
  split
  · rfl
  split
  · rfl
  split
  · rfl
  split
  all_goals next h => exact (congrArg (·.1.now) h).symm.trans (pickSub_now _ _ _ _)

/-! ### The commands -/

/-- Settles O21: each command finds its link, its flit or its message in the case that the state names, and what it does
is then the branch for that case; a link stays ACTIVE while a codeword is noted, and a port's choice takes no time. -/
theorem flitsAndRouting : Obligations.FlitsAndRouting := by
  unfold Obligations.FlitsAndRouting
  refine ⟨fun s link flit bad hon hactive hbad hgood => ?_, fun s link flit bad hon hactive hbad hgood => ?_,
    fun s link flit bad hon hactive hbad => ?_, fun s link hon hactive hdiscarding hdue => ?_,
    fun s link q rest f hon hactive hresend hfind => ?_,
    fun s link p rest hon hactive hresend hfull hpick hctrl => ?_,
    fun s link hon hactive hresend hcands hpick hctrl => ?_, fun s link hon hup hstate => ?_,
    fun s link hon hup hstate => ?_, fun s c g d w hon hup hpick hqueue => ?_,
    fun s head m hon hfind hsound => ?_, fun s head m hon hfind hin hdest hbad => ?_, fun s head m hon hfind => ?_,
    fun s head m hon hfind hdue => ?_, fun s head m hon hfind hearly => ?_, fun s link vc m hon hfind hroute => ?_,
    fun s link vc m hon hfind hframed => ?_, fun s link vc m hon hfind hframed hroom => ?_,
    fun s die teasel h hon hfind hteasel => ?_⟩
  · rw [exec_flitReceive, execFlitReceive_of_active hon hactive]
    simp [hbad, hgood]
  · rw [exec_flitReceive, execFlitReceive_of_active hon hactive]
    simp [hbad, hgood]
  · rw [exec_flitReceive, execFlitReceive_of_active hon hactive]
    simp [hbad]
  · rw [exec_nakResendTimeout, execNakResendTimeout]
    exact act_when hon (by simp [hactive, hdiscarding, Dev.due, hdue])
  · rw [exec_flitSlot, execFlitSlot]
    refine act_of hon ?_
    simp [hactive, (active_iff.mp hactive).2, hresend, hfind]
  · rw [exec_flitSlot, execFlitSlot]
    refine act_of hon ?_
    simp [hactive, (active_iff.mp hactive).2, hresend, Nat.not_lt.mpr hfull, hpick, hctrl]
  · rw [exec_flitSlot, execFlitSlot]
    refine act_of hon ?_
    simp [hactive, (active_iff.mp hactive).2, hresend, hcands, hpick, hctrl]
  · rw [exec_flitSlot, execFlitSlot]
    refine act_of hon ?_
    exact (if_pos ⟨hup, hstate⟩).trans (onLink_congr rfl)
  · rw [exec_flitSlot, execFlitSlot]
    refine act_of hon ?_
    simp [hup, hstate]
  · have hnow : d.now = s.dev.now := by
      simpa [hpick] using pickCand_now s.dev 32 (hostCands s.dev)
    rw [exec_hostPortSchedule, execHostPortSchedule, act_when hon hup]
    simp [hpick, hqueue, hnow]
  · rw [exec_messageHeadRoute, execMessageHeadRoute]
    refine act_of hon ?_
    simp only [hfind]
    refine if_neg ?_
    rcases hsound with hsound | hsound | hsound <;> simp [hsound]
  · rw [exec_messageHeadRoute, execMessageHeadRoute]
    refine act_of hon ?_
    simp only [hfind]
    exact if_pos (by simp [hin, hdest, hbad])
  · rw [exec_headReevaluate, execHeadReevaluate]
    refine act_of hon ?_
    simp only [hfind]
    rfl
  · rw [exec_escapeWaitExpiry, execEscapeWaitExpiry]
    refine act_of hon ?_
    simp only [hfind]
    exact if_pos (decide_eq_true hdue)
  · rw [exec_escapeWaitExpiry, execEscapeWaitExpiry]
    refine act_of hon ?_
    simp only [hfind]
    exact if_neg (by simp [Dev.due, hearly])
  · rw [exec_abortFlit, execAbortFlit]
    refine act_of hon ?_
    simp only [hfind]
    rcases hroute with hroute | hroute <;> simp only [hroute]
  · rw [exec_messageReceive, execMessageReceive]
    refine act_of hon ?_
    simp [hfind, hframed]
  · rw [exec_messageReceive, execMessageReceive]
    refine act_of hon ?_
    simp [hfind, hframed, hroom]
  · rw [exec_messageClassify, execMessageClassify]
    refine actRead_of hon ?_
    simp only [State.chip_dev, hfind, hteasel]

end Sys2Proof.Machine
end

section
/-! Link training, cables and heartbeats: a training step starts from its own state alone, and each command of a link is
the branch for the state it finds (R253, R266, R267, R268, R269, R270). -/

namespace Sys2Proof.Machine

/-! ### Commands whose guard fails -/

/-- A guarded command whose guard fails leaves the state. -/
theorem act_unless {s : State} {c : Dev → Bool} {f : Dev → Dev → Dev} (hon : s.dev.on = true) (hc : c s.dev = false) :
    (s.act fun d => d.when (c d) (f d)) = .next s :=
  act_of hon (by rw [hc, Dev.when_false])

/-! ### Links of running dies -/

theorem linkUp_iff {d : Dev} {n : Nat} : d.linkUp n = true ↔ n < 32 ∧ d.ready (dieOfLink n) = true := by
  simp [Dev.linkUp]

theorem due_iff {d : Dev} {t n : Nat} : d.due t n = true ↔ t + n ≤ d.now := decide_eq_true_iff

/-! ### Training steps (Table 10-8) -/

/-- A training step takes a link of a running die from its state to the next. -/
theorem linkStep_of_state {d : Dev} {n : Nat} {src : LinkState} (hup : d.linkUp n = true)
    (hstate : (d.link n).state = src) (dest : LinkState) :
    linkStep d n src dest = d.onLink n fun l => { l with state := dest, stepAt := d.now } := by
  simp [linkStep, hup, hstate]

/-- A link in another state does not take the step. -/
theorem linkStep_of_ne {d : Dev} {n : Nat} {src : LinkState} (hstate : (d.link n).state ≠ src) (dest : LinkState) :
    linkStep d n src dest = d := by
  simp [linkStep, beq_eq_false_iff_ne.mpr hstate]

/-- R267: a partner that is refused, by a payload not refused before. -/
theorem identifyOp_of_refused {d : Dev} {n : Nat} {p : Bytes} (hnew : (d.link n).refused ≠ some p)
    (hrefused : partnerRefused d (partnerOf p) = true) :
    identifyOp d n p = logEv (d.onLink n fun l => { l with refused := some p, partner := none }) 0x0402 (dieOfLink n)
      (toLe 1 n ++ toLe 1 2) :=
  (if_neg hnew).trans (if_pos hrefused)

/-- R267: a partner that is accepted may make the link ACTIVE. -/
theorem identifyOp_of_accepted {d : Dev} {n : Nat} {p : Bytes} (hnew : (d.link n).refused ≠ some p)
    (haccepted : partnerRefused d (partnerOf p) = false) :
    identifyOp d n p =
      linkMaybeActive (d.onLink n fun l => { l with refused := none, partner := some (partnerOf p) }) n :=
  (if_neg hnew).trans (if_neg (Bool.not_eq_true _ ▸ haccepted))

/-! ### Cables -/

/-- Table 10-2: a cable is refused unless it is passive, or active optical within its power, and states a length. -/
theorem cable_refused_iff {type length power : Nat} :
    (!(type == 1 || (type == 2 && decide (power ≤ 33))) || length == 0) = true ↔
      ¬(type = 1 ∨ (type = 2 ∧ power ≤ 33)) ∨ length = 0 := by
  rw [Bool.or_eq_true, Bool.not_eq_true', ← Bool.not_eq_true]
  simp only [Bool.or_eq_true, Bool.and_eq_true, beq_iff_eq, decide_eq_true_iff]

/-! ### Heartbeats -/

/-- A check of a heartbeat whose interval is over compares it with the one last checked (R270). -/
theorem execHeartbeatCheck_of_due {s : State} {link : Nat} (hon : s.dev.on = true) (hactive : s.dev.active link = true)
    (hdue : (s.dev.link link).checkAt + 1000 ≤ s.dev.now) :
    execHeartbeatCheck link s = .next (s.withDev
      (if (s.dev.link link).rxHb = (s.dev.link link).checkedHb then
        if 15 ≤ (s.dev.link link).misses then linkDown s.dev link .detect 6
        else s.dev.onLink link fun l => { l with misses := l.misses + 1, checkAt := s.dev.now }
      else s.dev.onLink link fun l => { l with misses := 0, checkedHb := l.rxHb, checkAt := s.dev.now })) :=
  act_when hon (by simp [hactive, due_iff.mpr hdue])

/-! ### The commands -/

/-- Settles O20: each command finds its link or its connector in the case that the state names, and what it does is then
the branch for that case. That the LNK_ENABLE bits of a refused cable are cleared (clause 15) is the model's choice
(notes/assumptions/105.md), as is that a command whose guard fails changes nothing (clauses 4, 11 and 17,
notes/assumptions/2.md). -/
theorem linkTraining : Obligations.LinkTraining := by
  unfold Obligations.LinkTraining
  refine ⟨fun s link hon hlt hready hstate => ?_, fun s link hon hlt hready hstate => ?_,
    fun s link hon hlt hready hstate => ?_, fun s link hon hstate => ?_,
    fun s link hon hlt hready hstate htold hdue => ?_,
    fun s link payload hon hlt hready hstate hnew hrefused => ?_,
    fun s link payload hon hlt hready hstate hnew haccepted => ?_,
    fun s link hon hlt hready hstate hfirst => ?_, fun s link hon hlt hready hoverrun hsettings => ?_,
    fun s link trigger hon hactive htrigger hmet => ?_, fun s link trigger hon hunmet => ?_,
    fun s link hon hactive => ?_, fun s link hon hlt hready hdisabled hdetect => ?_,
    fun s connector type length power hon hlt hfirmware hkind hlength => ?_,
    fun s connector type length power hon hlt hfirmware hshut => ?_,
    fun s link hon hlt hready hstate hdue hbeat => ?_, fun s link hon hbeat => ?_,
    fun s link hon hactive hdue hadvanced => ?_, fun s link hon hactive hdue hstill hfew => ?_,
    fun s link hon hactive hdue hstill hmany => ?_⟩
  · rw [exec_linkSignalDetected, execLinkSignalDetected]
    exact act_of hon (linkStep_of_state (linkUp_iff.mpr ⟨hlt, hready⟩) hstate _)
  · rw [exec_linkEqualiseDone, execLinkEqualiseDone]
    exact act_of hon (linkStep_of_state (linkUp_iff.mpr ⟨hlt, hready⟩) hstate _)
  · rw [exec_linkAlignLock, execLinkAlignLock]
    exact act_of hon (linkStep_of_state (linkUp_iff.mpr ⟨hlt, hready⟩) hstate _)
  · rw [exec_linkAlignLock, execLinkAlignLock]
    exact act_of hon (linkStep_of_ne hstate _)
  · rw [exec_linkNoSignalEvent, execLinkNoSignalEvent]
    exact act_when hon (by simp [linkUp_iff.mpr ⟨hlt, hready⟩, hstate, htold, due_iff.mpr hdue])
  · rw [exec_identifyReceived, execIdentifyReceived, act_when hon (by simp [linkUp_iff.mpr ⟨hlt, hready⟩, hstate]),
      identifyOp_of_refused hnew hrefused]
  · rw [exec_identifyReceived, execIdentifyReceived, act_when hon (by simp [linkUp_iff.mpr ⟨hlt, hready⟩, hstate]),
      identifyOp_of_accepted hnew haccepted]
  · rw [exec_identifySend, execIdentifySend]
    exact act_when hon (by simp [linkUp_iff.mpr ⟨hlt, hready⟩, hstate, hfirst])
  · rw [exec_linkTrainingTimeout, execLinkTrainingTimeout,
      act_when hon (by simp [linkUp_iff.mpr ⟨hlt, hready⟩, hoverrun])]
    simp [hsettings]
  · rw [exec_linkRetrain, execLinkRetrain]
    exact act_when hon (by simp [hactive, htrigger, hmet])
  · rw [exec_linkRetrain, execLinkRetrain]
    exact act_unless hon (by simp [hunmet])
  · rw [exec_retrainRequest, execRetrainRequest]
    exact act_when hon hactive
  · rw [exec_linkLossOfSignal, execLinkLossOfSignal]
    exact act_when hon (by simp [linkUp_iff.mpr ⟨hlt, hready⟩, hdisabled, hdetect])
  · have hgood : (!(type == 1 || (type == 2 && decide (power ≤ 33))) || length == 0) = false :=
      Bool.eq_false_iff.mpr fun hrefused => (cable_refused_iff.mp hrefused).elim (absurd hkind) hlength
    rw [exec_cablePresent, execCablePresent, act_when hon (by simp [hlt, hfirmware])]
    simp only [hgood, Bool.false_eq_true, if_false, Bool.not_false, Bool.and_true]
  · have hbad : (!(type == 1 || (type == 2 && decide (power ≤ 33))) || length == 0) = true :=
      cable_refused_iff.mpr hshut
    rw [exec_cablePresent, execCablePresent, act_when hon (by simp [hlt, hfirmware])]
    simp only [hbad, if_true, Bool.not_true, Bool.and_false]
  · rw [exec_heartbeatAdvance, execHeartbeatAdvance]
    exact act_when hon (by simp [linkUp_iff.mpr ⟨hlt, hready⟩, hstate, due_iff.mpr hdue, hbeat])
  · rw [exec_heartbeatAdvance, execHeartbeatAdvance]
    exact act_unless hon (by simp [hbeat])
  · rw [exec_heartbeatCheck, execHeartbeatCheck_of_due hon hactive hdue, if_neg hadvanced]
  · rw [exec_heartbeatCheck, execHeartbeatCheck_of_due hon hactive hdue, if_pos hstill, if_neg (Nat.not_le.mpr hfew)]
  · rw [exec_heartbeatCheck, execHeartbeatCheck_of_due hon hactive hdue, if_pos hstill, if_pos hmany]

end Sys2Proof.Machine
end

section
/-! Fields of byte strings, and the body of a connection control message (R3, R288). -/

namespace Sys2Proof

/-! ### Little-endian fields -/

/-- Reading back the bytes of a number gives what of it fits. -/
theorem leNat_toLe (n v : Nat) : leNat (toLe n v) = v % 256 ^ n := by
  induction n generalizing v with
  | zero => simp [toLe, leNat, Nat.mod_one]
  | succ n ih => rw [toLe, leNat, ih, BitVec.toNat_ofNat, pow_succ' 256 n, Nat.mod_mul]

/-- The leading field of a layout reads back a number that fits. -/
theorem fld_toLe_append {n v : Nat} (h : v < 256 ^ n) (b : Bytes) : fld (toLe n v ++ b) 0 n = v := by
  rw [fld, cut, List.drop_zero, List.take_left' (length_toLe n v), leNat_toLe, Nat.mod_eq_of_lt h]

/-- A field that lies behind the leading one is read from the rest. -/
theorem fld_toLe_append_of_le {n off : Nat} (h : n ≤ off) (v len : Nat) (b : Bytes) :
    fld (toLe n v ++ b) off len = fld b (off - n) len := by
  rw [fld, fld, cut, cut, List.drop_append, length_toLe, List.drop_eq_nil_of_le (by rwa [length_toLe]), List.nil_append]

namespace Machine

/-- Settles O56: the fields of Table 11-3 are laid out in their order, so each is read behind those before it. -/
theorem controlBody : Obligations.ControlBody := by
  unfold Obligations.ControlBody
  intro type status tenant gen request
  have htype : type.toNat < 256 ^ 1 := type.isLt
  have hstatus : status.toNat < 256 ^ 1 := status.isLt
  have htenant : tenant.toNat < 256 ^ 2 := tenant.isLt
  have hgen : gen.toNat < 256 ^ 4 := gen.isLt
  have hrequest : request.toNat < 256 ^ 4 := request.isLt
  simp only [ctrlBody, List.append_assoc]
  refine ⟨by simp, fld_toLe_append htype _, ?_, ?_, ?_, ?_, ?_⟩
  all_goals simp only [fld_toLe_append_of_le, Nat.reduceLeDiff, Nat.reduceSub]
  · exact fld_toLe_append hstatus _
  · exact fld_toLe_append htenant _
  · exact fld_toLe_append hgen _
  · exact fld_toLe_append hrequest _
  · rfl

end Machine

end Sys2Proof
end

section
/-! Memory domains: MDOM_REKEY with a key of 0 (R304, R421, R438). -/

namespace Sys2Proof.Machine

/-- R421: the range of the key is checked before the domain's owner, so a key of 0 ends the command whosever the domain
is (R438). -/
theorem execMdomRekey_of_key_zero {s : State} {ring index : Nat} {c : Cmd} (hon : s.dev.on = true)
    (hready : s.dev.cmdReady ring index 0x21 = some c) (hkey : fld c.desc 0x18 8 = 0) :
    execMdomRekey ring index s = .next (s.withDev (cmdFail s.dev ring index St.fieldInvalid 0x18)) :=
  act_of hon (cmdChecks_fail hready (by simp [firstFail, hkey]))

/-- The status of a command in the state that a command answers. -/
def statusAfter (ring index : Nat) : Out → Option Nat
  | .next t => (t.dev.cmd ring index).map Cmd.status
  | _ => none

theorem statusAfter_cmdFail {s : State} {ring index : Nat} {c : Cmd} (h : s.dev.cmd ring index = some c)
    (status off : Nat) : statusAfter ring index (.next (s.withDev (cmdFail s.dev ring index status off))) = some status :=
  congrArg (Option.map Cmd.status) (cmd_cmdFail h status off)

/-- An MDOM_REKEY of tenant 7 for domain 3 whose key is 0. -/
def rekeyToZero : Cmd :=
  { index := 0, phase := .ready, desc := toLe 1 0x21 ++ zeros 7 ++ toLe 2 7 ++ zeros 8 ++ toLe 2 3 ++ zeros 44 }

/-- A powered node where domain 3 is tenant 8's and that command is ready. -/
def othersDomain : State :=
  { dev := {
      hif := { rings := [(0, { cmds := [rekeyToZero] })] }
      rma := { domains := [(3, { tenant := 8, key := 1 })] } } }

/-- Refutes O19: clause (4) does not ask for a key that is valid. With a key of 0 MDOM_REKEY of another tenant's domain
ends FIELD_INVALID at the key, for its range is checked before the domain's owner. -/
theorem not_remoteMemoryCommands : ¬ Obligations.RemoteMemoryCommands := by
  unfold Obligations.RemoteMemoryCommands
  rintro ⟨-, -, -, hmismatch, -⟩
  have hon : othersDomain.dev.on = true := by decide
  have hready : othersDomain.dev.cmdReady 0 0 0x21 = some rekeyToZero := by decide +kernel
  have hfound : tfind othersDomain.dev.rma.domains (fld rekeyToZero.desc 0x12 2) = some { tenant := 8, key := 1 } := by
    decide +kernel
  have hclaimed := hmismatch othersDomain 0 0 rekeyToZero _ hon hready hfound (by decide +kernel)
  rw [exec_mdomRekey, execMdomRekey_of_key_zero hon hready (by decide +kernel)] at hclaimed
  have hstatus := congrArg (statusAfter 0 0) hclaimed
  rw [statusAfter_cmdFail (cmd_of_ready hready), statusAfter_cmdFail (cmd_of_ready hready)] at hstatus
  exact absurd hstatus (by decide)

end Sys2Proof.Machine
end

section
/-! Connections, acknowledgements and timers: a control message, an ACK or a NAK is acted on as it leaves the inbox, and
each timer of a connection acts once it is due (R286, R287, R289, R290, R294, R296, R299, R300, R303). -/

namespace Sys2Proof.Machine

/-! ### Control messages, ACKs and NAKs of the inbox -/

/-- A control message of the wanted type is acted on and leaves the inbox. -/
theorem act_onCtrl_control {s : State} {msg type : Nat} {m : Inb} {f : Dev → Inb → Dev} {d : Dev}
    (hon : s.dev.on = true) (hfind : s.dev.tr.inbox.find? (·.id == msg) = some m) (hkind : msgType m.bytes = 1)
    (htype : bodyType m.bytes = type) (h : f (s.dev.take msg) m = d) :
    (s.act fun d => onCtrl d msg 1 type f) = .next (s.withDev d) := by
  refine act_of hon ?_
  simp [onCtrl, hfind, hkind, htype, h]

/-- An ACK or a NAK, whose TTYPE alone tells it, is acted on and leaves the inbox. -/
theorem act_onCtrl_transport {s : State} {msg ttype : Nat} {m : Inb} {f : Dev → Inb → Dev} (hon : s.dev.on = true)
    (hfind : s.dev.tr.inbox.find? (·.id == msg) = some m) (hkind : msgType m.bytes = ttype) (hother : ttype ≠ 1) :
    (s.act fun d => onCtrl d msg ttype 0 f) = .next (s.withDev (f (s.dev.take msg) m)) := by
  refine act_of hon ?_
  simp [onCtrl, hfind, hkind, hother]

/-- A message that is taken up leaves the connections as they are. -/
@[simp] theorem Dev.take_conn (d : Dev) (id i : Nat) : (d.take id).conn i = d.conn i := rfl

@[simp] theorem connGen_take (d : Dev) (id i : Nat) : connGen (d.take id) i = connGen d i := rfl

@[simp] theorem Dev.take_now (d : Dev) (id : Nat) : (d.take id).now = d.now := rfl

/-! ### Connections that carry DATA -/

/-- A connection that may carry DATA is OPEN or CLOSING. -/
theorem state_of_connSends {d : Dev} {i : Nat} (h : connSends d i = true) :
    ((d.conn i).state == .open_ || (d.conn i).state == .closing) = true := by
  rw [connSends, Bool.and_eq_true] at h
  exact h.1

/-! ### The commands -/

/-- Settles O22: each command finds its message or its connection in the case that the state names, and what it does is
then the branch for that case. -/
theorem connections : Obligations.Connections := by
  unfold Obligations.Connections
  refine ⟨fun s msg m hon hfind hkind htype => ?_, fun s msg m hon hfind hkind htype hstate => ?_,
    fun s msg m hon hfind hkind htype hsound hstate hgen hpeer htag hstatus => ?_,
    fun s conn hon hstate hdue hready hfew => ?_, fun s conn hon hstate hdue hready hmany => ?_,
    fun s msg m hon hfind hkind htype hsound hstate => ?_, fun s msg m hon hfind hkind htype hbad => ?_,
    fun s msg m hon hfind hkind htype hstate hsent hsound htag hstatus => ?_,
    fun s conn hon hstate hresponder hunused hdue => ?_, fun s conn hon hstate hdue hidle => ?_,
    fun s conn hon hstate hdue => ?_, fun s msg m hon hfind hkind => ?_, fun s msg m hon hfind hkind => ?_,
    fun s conn seq r w hon hfind hretry hdue hsends => ?_, fun s conn hon hstate hunacked hdue => ?_,
    fun s conn q t rest hon hstate habove hdue hfirst hmissing => ?_,
    fun s conn w rest hon hsent hsends hdue hfew => ?_, fun s conn hon hstate hsent hmany => ?_,
    fun s conn crcOk hon hfetching hspill hcrc hroom => ?_, fun s conn crcOk hon hfetching hspill hcrc => ?_⟩
  · rw [exec_connect, execConnect]
    exact act_onCtrl_control hon hfind hkind htype rfl
  · rw [exec_connectReply, execConnectReply]
    refine act_onCtrl_control hon hfind hkind htype ?_
    simp [hstate]
  · rw [exec_connectReply, execConnectReply]
    refine act_onCtrl_control hon hfind hkind htype ?_
    simp [hsound, hstate, hgen, hpeer, htag, hstatus, St.ok]
  · rw [exec_connectResend, execConnectResend,
      act_when hon (by simp [hstate, hready, due_iff.mpr hdue]), if_pos hfew]
  · rw [exec_connectResend, execConnectResend,
      act_when hon (by simp [hstate, hready, due_iff.mpr hdue]), if_neg (Nat.not_lt.mpr hmany)]
    rfl
  · rw [exec_close, execClose]
    refine act_onCtrl_control hon hfind hkind htype ?_
    simp [hsound, hstate]
  · rw [exec_close, execClose]
    refine act_onCtrl_control hon hfind hkind htype ?_
    simp [hbad, St.fieldInvalid]
  · rw [exec_closeReply, execCloseReply]
    refine act_onCtrl_control hon hfind hkind htype ?_
    simp [hsound, hstate, hsent, htag, hstatus, St.ok]
  · rw [exec_connectionIdleClose, execConnectionIdleClose]
    exact act_when hon (by simp [hstate, hresponder, hunused, due_iff.mpr hdue])
  · rw [exec_connectionIdleClose, execConnectionIdleClose]
    exact act_when hon (by simp [hstate, hidle, due_iff.mpr hdue])
  · rw [exec_quarantineExpiry, execQuarantineExpiry]
    exact act_when hon (by simp [hstate, due_iff.mpr hdue])
  · rw [exec_transportAck, execTransportAck]
    exact act_onCtrl_transport hon hfind hkind (by decide)
  · rw [exec_transportNak, execTransportNak]
    exact act_onCtrl_transport hon hfind hkind (by decide)
  · rw [exec_notReadyRetry, execNotReadyRetry]
    refine act_of hon ?_
    simp [hfind, hretry, hdue, hsends]
  · rw [exec_ackDelayExpiry, execAckDelayExpiry]
    exact act_when hon (by simp [hstate, hunacked, due_iff.mpr hdue])
  · rw [exec_gapTimeout, execGapTimeout]
    refine act_of hon ?_
    simp [habove, hstate, hfirst, hmissing, due_iff.mpr hdue]
  · rw [exec_rtoExpiry, execRtoExpiry]
    refine act_of hon ?_
    simp [hsent, state_of_connSends hsends, hsends, hfew, due_iff.mpr hdue]
  · rw [exec_contactLost, execContactLost]
    exact act_when hon (by simp [hstate, hsent, hmany])
  · subst hcrc
    rw [exec_contextFetchDone, execContextFetchDone, act_when hon (by simp only [hspill, hfetching, Bool.and_self])]
    simp [hroom]
  · subst hcrc
    rw [exec_contextFetchDone, execContextFetchDone]
    exact act_when hon (by simp only [hspill, hfetching, Bool.and_self])

end Sys2Proof.Machine
end

section
/-! What a command leaves of the queue, the fuses and the flash (R484, R505, R507), and what a step is. -/

namespace Sys2Proof.Machine

/-! ### One step -/

/-- Settles O35: it is the equation of the step for a queue that is not empty. -/
theorem stepRunsTheFrontCommand : Obligations.StepRunsTheFrontCommand :=
  fun _ _ _ => rfl

theorem step_of_idle {s : State} (h : s.pending = []) : step s = .next s.tick := by rw [step, h]

theorem tick_of_on {s : State} (hon : s.dev.on = true) : s.tick = s.withDev (tickDev s.dev) := if_pos hon

/-- Settles O36: of the block, a tick advances the count of ticks and the counters. -/
theorem idleStepIsATick : Obligations.IdleStepIsATick := by
  unfold Obligations.IdleStepIsATick
  refine ⟨fun s hidle hon => ?_, fun s hidle hoff => ?_⟩
  · rw [step_of_idle hidle, tick_of_on hon]
    exact .of_next ⟨rfl, ⟨rfl, rfl, rfl⟩, hon⟩
  · rw [step_of_idle hidle, State.tick, hoff]
    rfl

/-! ### Commands that write neither fuses nor flash -/

/-- The fuses, the flash and the queue are as they were. -/
def SameRoot (s t : State) : Prop := t.nv = s.nv ∧ t.pending = s.pending

/-- A command that acts under the guard of power keeps what its effect and the state itself have. -/
theorem Keeps.if_on {s u : State} {p : State → Prop} (hu : p u) (hs : p s) :
    Keeps (.next (if s.dev.on then u else s)) p := by
  refine .of_next ?_
  split <;> assumption

theorem powerDown_sameRoot (s : State) (f : Power → Power) : Keeps (s.powerDown f) (SameRoot s) := .of_next ⟨rfl, rfl⟩

theorem moduleReset_sameRoot (s : State) : SameRoot s s.moduleReset := ⟨rfl, rfl⟩

theorem execRestart_sameRoot (s : State) : Keeps (execRestart s) (SameRoot s) := by
  refine .ite (.of_next ?_) (.of_next ⟨rfl, rfl⟩)
  split
  · exact moduleReset_sameRoot s
  · exact ⟨rfl, rfl⟩

/-- The commands that are not of the list write neither fuses nor flash. -/
theorem exec_sameRoot {i : Instr} (hrow : flashRow i = false) (s : State) : Keeps (exec i s) (SameRoot s) := by
  cases i
  case romBoot | bootConfirm | fwStage | fwActivate | svnCommit | cxlIoReadComplete | cxlIoReadTimeout
      | spdmGetDigests | spdmGetCertificate | spdmChallenge | pldmRequestUpdate | pldmFirmwareData
      | pldmActivateFirmware | recoveryImageAccept | pldmVerifyComplete | registerWrite => cases hrow
  case inputPowerOn | overvoltageRecover | presenceDetect => exact .of_next ⟨rfl, rfl⟩
  case inputPowerOff =>
    exact .ite (powerDown_sameRoot s _)
      (.ite (powerDown_sameRoot s _) (.ite (powerDown_sameRoot s _) (.of_next ⟨rfl, rfl⟩)))
  case inputOvercurrent => exact .ite (powerDown_sameRoot s _) (.of_next ⟨rfl, rfl⟩)
  case softStartDone => exact .ite (.of_next (moduleReset_sameRoot s)) (.of_next ⟨rfl, rfl⟩)
  case surpriseRemoval => exact .of_next ⟨rfl, rfl⟩
  case selfHealWatchdog =>
    refine .of_next ?_
    split
    · exact moduleReset_sameRoot s
    · exact ⟨rfl, rfl⟩
  case restart => exact execRestart_sameRoot s
  case thermalTrip =>
    exact .ite (.ite (powerDown_sameRoot s _) (.of_next ⟨rfl, rfl⟩)) (.if_on ⟨rfl, rfl⟩ ⟨rfl, rfl⟩)
  case hostHdmRead | hostHdmWrite | partialBurstWrite | memoryReadComplete =>
    exact .ite .of_fault (.if_on ⟨rfl, rfl⟩ ⟨rfl, rfl⟩)
  all_goals exact .if_on ⟨rfl, rfl⟩ ⟨rfl, rfl⟩

/-- Settles O43: outside the list no command's meaning names the fuses or the flash. -/
theorem flashFrame : Obligations.FlashFrame := by
  unfold Obligations.FlashFrame
  intro i s t hrow h
  exact (exec_sameRoot hrow s t h).1

/-! ### Commands that may write fuses or flash -/

theorem FusesKept.refl (a : Nonvolatile) : FusesKept a a := ⟨rfl, rfl, rfl, id, id, le_rfl, rfl⟩

theorem FusesKept.trans {a b c : Nonvolatile} (h : FusesKept a b) (h' : FusesKept b c) : FusesKept a c := by
  obtain ⟨huds, hkey0, hkey1, hrevoke0, hrevoke1, hsvn, hfru⟩ := h
  obtain ⟨huds', hkey0', hkey1', hrevoke0', hrevoke1', hsvn', hfru'⟩ := h'
  exact ⟨huds.trans huds', hkey0.trans hkey0', hkey1.trans hkey1', hrevoke0' ∘ hrevoke0, hrevoke1' ∘ hrevoke1,
    hsvn.trans hsvn', hfru'.trans hfru⟩

theorem FusesKept.of_eq {a b : Nonvolatile} (h : b = a) : FusesKept a b := h ▸ .refl b

/-- The boot-select record is flash (R488). -/
theorem bootWrite_fuses (nv : Nonvolatile) (preferred state : Nat) : FusesKept nv (bootWrite nv preferred state) := by
  unfold bootWrite
  split <;> exact .refl nv

/-- A firmware slot is flash (R486). -/
theorem imagePut_fuses (nv : Nonvolatile) (slot : Nat) (b : Bytes) : FusesKept nv (imagePut nv slot b) := by
  unfold imagePut
  split <;> exact .refl nv

/-- A revocation blows a fuse and clears none (R490). -/
theorem revokeOther_fuses (nv : Nonvolatile) (image : Bytes) : FusesKept nv (revokeOther nv image) := by
  unfold revokeOther
  split_ifs
  · exact ⟨rfl, rfl, rfl, id, fun _ => rfl, le_rfl, rfl⟩
  · exact ⟨rfl, rfl, rfl, fun _ => rfl, id, le_rfl, rfl⟩
  · exact .refl nv

theorem bootFirst_fuses (nv : Nonvolatile) : FusesKept nv (bootFirst nv).2 := by
  unfold bootFirst
  split
  · exact bootWrite_fuses nv _ _
  · exact bootWrite_fuses nv _ _
  · exact .refl nv

theorem romBootOp_fuses (r : Root) : FusesKept r.nv (romBootOp r).nv := by
  unfold romBootOp
  dsimp only
  cases bootSlot (bootFirst r.nv).2 (bootFirst r.nv).1 with
  | none => exact bootFirst_fuses r.nv
  | some k => exact (bootFirst_fuses r.nv).trans (revokeOther_fuses _ _)

theorem recoveryWrite_fuses (r : Root) (image : Bytes) : FusesKept r.nv (recoveryWrite r image).nv := by
  unfold recoveryWrite
  dsimp only
  split
  · exact (imagePut_fuses r.nv 0 image).trans (bootWrite_fuses _ _ _)
  · exact imagePut_fuses r.nv 0 image

theorem stageFinish_fuses (nv : Nonvolatile) (d : Dev) (data : Bytes) :
    FusesKept nv (stageFinish ⟨nv, d⟩ data).nv := by
  have hput : FusesKept nv (imagePut nv (idleSlot d) data) := imagePut_fuses nv _ data
  unfold stageFinish
  dsimp only
  split
  · exact .refl nv
  · split
    · exact hput
    · dsimp only
      split
      · exact hput.trans (bootWrite_fuses _ 0 1)
      · exact hput

/-- Of the reads that end, only an image's writes the flash (R505). -/
theorem ioEnd_fuses (r : Root) (q : IoRead) (ok : Bool) (data : Bytes) : FusesKept r.nv (ioEnd r q ok data).nv := by
  unfold ioEnd
  dsimp only
  split
  case h_5 =>
    split
    · exact stageFinish_fuses r.nv _ _
    · exact .refl r.nv
  all_goals exact .refl r.nv

theorem activateOp_fuses (r : Root) : FusesKept r.nv (activateOp r).nv := by
  unfold activateOp
  split
  · exact bootWrite_fuses r.nv _ 1
  · exact .refl r.nv

theorem fwActivateOp_fuses (r : Root) : FusesKept r.nv (fwActivateOp r).nv := by
  unfold fwActivateOp
  split
  · exact .refl r.nv
  · exact activateOp_fuses r

/-- The fused SVN is raised to the running one, and not lowered to it (R505). -/
theorem svnCommitOp_fuses (r : Root) : FusesKept r.nv (svnCommitOp r).nv := by
  unfold svnCommitOp
  split
  · exact ⟨rfl, rfl, rfl, id, id, le_max_left _ _, rfl⟩
  · exact .refl r.nv

/-- The fuses only blow, and the queue is as it was. -/
def RootStep (s t : State) : Prop := FusesKept s.nv t.nv ∧ t.pending = s.pending

theorem RootStep.refl (s : State) : RootStep s s := ⟨.refl s.nv, rfl⟩

theorem SameRoot.rootStep {s t : State} (h : SameRoot s t) : RootStep s t := ⟨.of_eq h.1, h.2⟩

section

variable {s : State}

theorem actNv_rootStep {f : Root → Root} (hf : ∀ r : Root, FusesKept r.nv (f r).nv) :
    Keeps (s.actNv f) (RootStep s) :=
  .if_on ⟨hf ⟨s.nv, s.dev⟩, rfl⟩ (.refl s)

/-- The same for a command that acts only under a condition. -/
theorem actNv_ite_rootStep {c : Root → Prop} [∀ r, Decidable (c r)] {f : Root → Root}
    (hf : ∀ r : Root, FusesKept r.nv (f r).nv) : Keeps (s.actNv fun r => if c r then f r else r) (RootStep s) := by
  refine actNv_rootStep fun r => ?_
  split
  · exact hf r
  · exact .refl r.nv

theorem recovered_rootStep {t : State} (h : RootStep s t) : RootStep s t.recovered := by
  obtain ⟨hnv, hpending⟩ := recovered_nv t
  exact ⟨hnv ▸ h.1, hpending.trans h.2⟩

theorem execFwStage_rootStep (length : Nat) : Keeps (execFwStage length s) (RootStep s) := by
  refine actNv_ite_rootStep fun r => ?_
  dsimp only
  split
  · exact imagePut_fuses r.nv _ []
  · exact .refl r.nv

theorem execFwActivate_rootStep : Keeps (execFwActivate s) (RootStep s) := actNv_ite_rootStep fwActivateOp_fuses

theorem execSvnCommit_rootStep : Keeps (execSvnCommit s) (RootStep s) := actNv_ite_rootStep svnCommitOp_fuses

/-- A write of BAR0 is a mailbox command or a change of the device. -/
theorem execRegisterWrite_rootStep (offset : Nat) (value : BitVec 64) (size : Nat) :
    Keeps (execRegisterWrite offset value size s) (RootStep s) := by
  unfold execRegisterWrite
  split
  · split
    · exact execFwStage_rootStep _
    · exact execFwActivate_rootStep
    · exact execSvnCommit_rootStep
    · exact fun t h => (execRestart_sameRoot s t h).rootStep
    · exact .if_on (.refl s) (.refl s)
  · exact .if_on (.refl s) (.refl s)

theorem execCxlIoReadComplete_rootStep (id : Nat) (ok : Bool) (data : Bytes) :
    Keeps (execCxlIoReadComplete id ok data s) (RootStep s) := by
  unfold execCxlIoReadComplete
  split
  · exact .of_next (.refl s)
  · exact .ite (.of_next (recovered_rootStep ⟨ioEnd_fuses ⟨s.nv, s.dev⟩ _ _ _, rfl⟩)) (.of_next (.refl s))

theorem execCxlIoReadTimeout_rootStep (id : Nat) : Keeps (execCxlIoReadTimeout id s) (RootStep s) := by
  refine actNv_rootStep fun r => ?_
  split
  · exact .refl r.nv
  · split
    · exact ioEnd_fuses r _ _ _
    · exact .refl r.nv

theorem execPldmRequestUpdate_rootStep : Keeps (execPldmRequestUpdate s) (RootStep s) := by
  refine actNv_ite_rootStep fun r => ?_
  split
  · exact .refl r.nv
  · exact imagePut_fuses r.nv _ []

theorem execPldmVerifyComplete_rootStep : Keeps (execPldmVerifyComplete s) (RootStep s) := by
  refine .ite (.of_next (recovered_rootStep ⟨?_, rfl⟩)) (.of_next (.refl s))
  dsimp only
  split
  · exact (imagePut_fuses s.nv _ _).trans (bootWrite_fuses _ 0 1)
  · exact imagePut_fuses s.nv _ _

/-- Every command only blows fuses, and leaves the queue. -/
theorem exec_rootStep (i : Instr) (s : State) : Keeps (exec i s) (RootStep s) := by
  cases hrow : flashRow i with
  | false => exact fun t h => (exec_sameRoot hrow s t h).rootStep
  | true =>
    cases i
    case romBoot =>
      rw [exec_romBoot, execRomBoot]
      exact actNv_ite_rootStep romBootOp_fuses
    case bootConfirm =>
      rw [exec_bootConfirm, execBootConfirm]
      exact actNv_ite_rootStep fun r => bootWrite_fuses r.nv _ 0
    case fwStage => exact execFwStage_rootStep _
    case fwActivate => exact execFwActivate_rootStep
    case svnCommit => exact execSvnCommit_rootStep
    case cxlIoReadComplete => exact execCxlIoReadComplete_rootStep _ _ _
    case cxlIoReadTimeout => exact execCxlIoReadTimeout_rootStep _
    case spdmGetDigests | spdmGetCertificate | spdmChallenge => exact .if_on ⟨.refl s.nv, rfl⟩ (.refl s)
    case pldmRequestUpdate => exact execPldmRequestUpdate_rootStep
    case pldmFirmwareData =>
      rw [exec_pldmFirmwareData, execPldmFirmwareData]
      exact actNv_ite_rootStep fun r => imagePut_fuses r.nv _ _
    case pldmActivateFirmware =>
      rw [exec_pldmActivateFirmware, execPldmActivateFirmware]
      exact actNv_ite_rootStep activateOp_fuses
    case recoveryImageAccept =>
      exact .ite (.of_next (recovered_rootStep ⟨recoveryWrite_fuses ⟨s.nv, s.dev⟩ _, rfl⟩)) (.of_next (.refl s))
    case pldmVerifyComplete => exact execPldmVerifyComplete_rootStep
    case registerWrite => exact execRegisterWrite_rootStep _ _ _
    all_goals exact absurd hrow Bool.false_ne_true

end

/-- Settles O39: the queue is no part of what a command acts on. -/
theorem queueKept : Obligations.QueueKept := by
  unfold Obligations.QueueKept
  intro i s t h
  exact (exec_rootStep i s t h).2

/-- A tick leaves the fuses and the flash as they are. -/
theorem tick_nv (s : State) : s.tick.nv = s.nv := by
  unfold State.tick
  split <;> rfl

/-- Settles O45: a step is a tick, or a command on a state with the same fuses and flash. -/
theorem fusesOnlyBlow : Obligations.FusesOnlyBlow := by
  unfold Obligations.FusesOnlyBlow
  intro s t h
  unfold step at h
  split at h
  case h_1 =>
    injection h with h
    subst h
    exact .of_eq (tick_nv s)
  case h_2 c rest _ => exact (exec_rootStep c { s with pending := rest } t h).1

end Sys2Proof.Machine
end

section
/-! The completion entry that a ring is given (R443). -/

namespace Sys2Proof

theorem leNat_lt (b : Bytes) : leNat b < 256 ^ b.length := by
  induction b with
  | nil => simp [leNat]
  | cons x b ih =>
    have hx : x.toNat < 256 := x.isLt
    rw [leNat, List.length_cons, pow_succ]
    omega

/-- A field is below the number of values that its bytes have. -/
theorem fld_lt (b : Bytes) (off len : Nat) : fld b off len < 256 ^ len :=
  (leNat_lt _).trans_le (Nat.pow_le_pow_right (by decide) (List.length_take_le _ _))

theorem zeros_eq_toLe (n : Nat) : zeros n = toLe n 0 := by
  induction n with
  | zero => rfl
  | succ n ih => rw [zeros, List.replicate_succ, ← zeros, ih]; rfl

namespace Machine

/-- Settles O57: the fields of Table 16-3 are laid out in their order, so each is read behind those before it. -/
theorem completionEntryLayout : Obligations.CompletionEntryLayout := by
  unfold Obligations.CompletionEntryLayout
  intro c head failIndex status failOffset result phase
  have hphase : phase.toNat < 256 ^ 1 := phase.isLt.trans (by decide)
  simp only [completionBytes, zeros_eq_toLe, List.append_assoc]
  refine ⟨by simp, fld_toLe_append (fld_lt c.desc 4 4) _, ?_, ?_, ?_, ?_, ?_, ?_, ?_, ?_⟩
  all_goals simp only [fld_toLe_append_of_le, Nat.reduceLeDiff, Nat.reduceSub]
  · exact fld_toLe_append head.isLt _
  · exact fld_toLe_append status.isLt _
  · exact fld_toLe_append (fld_lt c.desc 0 1) _
  · exact fld_toLe_append failOffset.isLt _
  · exact fld_toLe_append failIndex.isLt _
  · exact fld_toLe_append result.isLt _
  · exact fld_toLe_append (by decide) _
  · rw [← List.append_nil (toLe 1 phase.toNat)]
    exact fld_toLe_append hphase []

end Machine

end Sys2Proof
end

section
/-! Membership: reports, suspicions, proposals, votes and grants; updates, pulls, joining and gossip (R345 to R363, R380 to
R382). -/

namespace Sys2Proof

theorem tins_tins {α : Type} (t : Tab α) (k : Nat) (v w : α) : tins (tins t k v) k w = tins t k w := by
  induction t with
  | nil => simp [tins]
  | cons p t ih =>
    by_cases heq : k = p.1
    · simp [tins, heq]
    · by_cases hlt : k < p.1
      · simp [tins, heq, hlt]
      · simp [tins, heq, hlt, ih]

theorem tdel_tins {α : Type} (t : Tab α) (k : Nat) (v : α) : tdel (tins t k v) k = tdel t k := by
  induction t with
  | nil => simp [tins, tdel]
  | cons p t ih =>
    by_cases heq : k = p.1
    · simp [tins, tdel, heq]
    · by_cases hlt : k < p.1
      · simp [tins, tdel, heq, hlt]
      · simp [tins, tdel, heq, hlt, ih]

theorem tput_tins {α : Type} [DecidableEq α] (d : α) (t : Tab α) (k : Nat) (v w : α) :
    tput d (tins t k v) k w = tput d t k w := by
  unfold tput
  split
  · exact tdel_tins t k v
  · exact tins_tins t k v w

/-- Two changes of an entry, the first of which leaves something there, are one. -/
theorem tmod_tmod {α : Type} [DecidableEq α] {d : α} {t : Tab α} {k : Nat} {f : α → α} (h : f (tget d t k) ≠ d)
    (g : α → α) : tmod d (tmod d t k f) k g = tmod d t k fun x => g (f x) := by
  have hget : tget d (tput d t k (f (tget d t k))) k = f (tget d t k) := tget_tput_new h
  have hput : tput d t k (f (tget d t k)) = tins t k (f (tget d t k)) := if_neg h
  rw [tmod, tmod, hget, hput]
  exact tput_tins d t k _ _

end Sys2Proof

namespace Sys2Proof.Machine

/-! ### Messages of membership -/

/-- A membership message in form is acted on and leaves the inbox (R7). -/
theorem vc0Message_of_sound {d : Dev} {msg type : Nat} {m : Inb} {f : Dev → Bytes → Dev} (hfw : d.firmware = true)
    (hmsg : d.msg msg type = some m) (hsound : mbBodyOk (msgBody m.bytes) = true) :
    vc0Message d msg type f = f (d.take msg) m.bytes := by
  simp [vc0Message, onMsg, Dev.when, hfw, hmsg, hsound]

/-- Any other is discarded and counted (R7, R8). -/
theorem vc0Message_of_bad {d : Dev} {msg type : Nat} {m : Inb} {f : Dev → Bytes → Dev} (hfw : d.firmware = true)
    (hmsg : d.msg msg type = some m) (hbad : mbBodyOk (msgBody m.bytes) = false) :
    vc0Message d msg type f = (d.take msg).onTr fun x => { x with stray := inc48 x.stray } := by
  simp [vc0Message, onMsg, Dev.when, hfw, hmsg, hbad]

theorem onVc0_of_sound {s : State} {msg type : Nat} {m : Inb} {f : Dev → Nat → Bytes → Dev} (hon : s.dev.on = true)
    (hfw : s.dev.firmware = true) (hmsg : s.dev.msg msg type = some m) (hsound : mbBodyOk (msgBody m.bytes) = true) :
    onVc0 s msg type f = .next (s.withDev (f (s.dev.take msg) (msgSrc m.bytes) (msgBody m.bytes))) :=
  act_of hon (vc0Message_of_sound hfw hmsg hsound)

theorem onVc0_of_bad {s : State} {msg type : Nat} {m : Inb} {f : Dev → Nat → Bytes → Dev} (hon : s.dev.on = true)
    (hfw : s.dev.firmware = true) (hmsg : s.dev.msg msg type = some m) (hbad : mbBodyOk (msgBody m.bytes) = false) :
    onVc0 s msg type f = .next (s.withDev ((s.dev.take msg).onTr fun x => { x with stray := inc48 x.stray })) :=
  act_of hon (vc0Message_of_bad hfw hmsg hbad)

/-- A node that is not on probation has no roles to move (R362). -/
theorem probationMoves_of_not {k : Chip} {d : Dev} (h : onProbation d = false) : probationMoves k d = d := by
  simp [probationMoves, h]

/-! ### Domains -/

/-- Two changes of a domain's record, the first of which leaves it as no record is at reset, are one. -/
theorem onDomain_onDomain {d : Dev} {domain : Nat} {f : Domain → Domain} (h : f (d.domain domain) ≠ {})
    (g : Domain → Domain) : (d.onDomain domain f).onDomain domain g = d.onDomain domain fun x => g (f x) := by
  have htab : tmod {} (tmod {} d.mbr.domains domain f) domain g = tmod {} d.mbr.domains domain fun x => g (f x) :=
    tmod_tmod h g
  simp only [Dev.onDomain, Dev.onMbr, htab]

@[simp] theorem Dev.onDomain_now (d : Dev) (domain : Nat) (f : Domain → Domain) : (d.onDomain domain f).now = d.now := rfl

/-- A domain with a change warranted is not as at reset. -/
theorem warranted_ne_default (x : Domain) (w : Change × Nat × Nat) (ws : List (Change × Nat × Nat)) :
    { x with warranted := w :: ws } ≠ ({} : Domain) := by
  intro h
  cases congrArg Domain.warranted h

/-- What PROPOSE_DELAY_EXPIRY makes of the node that proposes a change (R354). -/
theorem execProposeDelayExpiry_of_due {s : State} {domain since after k : Nat} {c : Change}
    {rest : List (Change × Nat × Nat)} (hon : s.dev.on = true)
    (hkept : (s.dev.domain domain).warranted.filter (fun w => changeValid s.dev domain w.1) = (c, since, after) :: rest)
    (hplace : witnessIndex s.dev domain = some k) (hfw : s.dev.firmware = true)
    (hidle : (s.dev.domain domain).proposal = none) (hdue : since + 100000 * k ≤ s.dev.now)
    (hafter : after ≤ s.dev.now) (hfrozen : frozen s.dev domain = false)
    (hvotes : (voters s.dev domain).contains s.dev.regs.nodeId = true) :
    execProposeDelayExpiry domain s = .next (s.withDev (
      let w := { c with epoch := (s.dev.domain domain).epoch + 1 }
      let d := s.dev.onDomain domain fun x =>
        { x with warranted := (c, since, after) :: rest, proposal := some { change := w, at_ := s.dev.now } }
      sendAll d (witnessesOf d domain) (changeBody 0x42 domain w 0))) := by
  rw [execProposeDelayExpiry]
  refine act_of hon ?_
  simp only [hplace, hidle, hfw, hfrozen, hvotes, hkept, hdue, hafter, Dev.due, Dev.onDomain_now, List.find?_cons,
    decide_true, Bool.not_false, Bool.and_self, Dev.when_true]
  rw [onDomain_onDomain (warranted_ne_default _ _ _)]

/-! ### The commands of witnesses -/

/-- Settles O27: each message is in form or not, each timer is due, and what it does is then the branch named. -/
theorem witnessMessages : Obligations.WitnessMessages := by
  unfold Obligations.WitnessMessages
  refine ⟨fun s hon hfw hlive hchanged => ?_, fun s hon hlive => ?_, fun s msg m hon hfw hmsg hsound => ?_,
    fun s msg m hon hfw hmsg hbad => ?_, fun s node m hon hfw hnew hmember haway hlive => ?_,
    fun s msg m hon hfw hmsg hsound => ?_, fun s domain subject reporter hon => ?_,
    fun s domain subject hon hfw hwitness => ?_,
    fun s domain since after k c rest hon hkept hplace hfw hidle hdue hafter hfrozen hvotes => ?_,
    fun s msg m hon hfw hmsg hsound => ?_, fun s msg m hon hfw hmsg hcalm => ?_,
    fun s domain k p hon hproposal hplace hopen hdue => ?_, fun s domain g c hon hgrant hdue => ?_⟩
  · rw [exec_statusReportSend, execStatusReportSend]
    refine act_when hon ?_
    rcases hchanged with h | h <;> simp [hfw, hlive, h]
  · rw [exec_statusReportSend, execStatusReportSend]
    exact act_unless hon (by simp [hlive])
  · exact onVc0_of_sound hon hfw hmsg hsound
  · exact onVc0_of_bad hon hfw hmsg hbad
  · rw [exec_suspectSend, execSuspectSend, act_when hon hfw]
    have hnot : node ∉ partners s.dev := by simpa using haway
    simp [hnew, hmember, hnot, hlive, Dev.when]
  · exact onVc0_of_sound hon hfw hmsg hsound
  · rw [exec_suspectLapse, execSuspectLapse]
    exact act_of hon rfl
  · rw [exec_reportSilenceTimeout, execReportSilenceTimeout]
    exact act_when hon (by simp [hfw, hwitness])
  · exact execProposeDelayExpiry_of_due hon hkept hplace hfw hidle hdue hafter hfrozen hvotes
  · exact onVc0_of_sound hon hfw hmsg hsound
  · rw [exec_vote, execVote]
    refine actRead_of hon ?_
    simp only [State.chip_dev, hfw, Dev.when_true, onMsg, hmsg]
    exact probationMoves_of_not hcalm
  · rw [exec_proposalAbandon, execProposalAbandon]
    refine act_of hon ?_
    simp [hproposal, hplace, hopen, Dev.due, hdue, Dev.when]
  · rw [exec_grantLeaseExpiry, execGrantLeaseExpiry]
    refine act_of hon ?_
    simp [hgrant, Dev.due, hdue, Dev.when]

/-! ### Updates, joining and gossip -/

theorem countLost_now (d : Dev) (m : FMsg) : (countLost d m).now = d.now := by
  unfold countLost
  split
  · rfl
  · split <;> rfl

theorem msgCredit_now (d : Dev) (m : FMsg) : (msgCredit d m).now = d.now := by
  unfold msgCredit Dev.when
  split
  · rfl
  · split <;> rfl

theorem msgSweep_now (d : Dev) : (msgSweep d).now = d.now :=
  (foldl_keeps Dev.now msgCredit_now _ _).trans (foldl_keeps Dev.now countLost_now _ d)

theorem countUnroutable_now (d : Dev) (m : FMsg) : (countUnroutable d m).now = d.now := by
  unfold countUnroutable
  split <;> rfl

theorem routeMsg_now (d : Dev) (m : FMsg) (late : Bool) : (routeMsg d m late).now = d.now := by
  unfold routeMsg
  split
  · rfl
  · rfl
  · exact (msgSweep_now _).trans (countUnroutable_now _ _)
  · rfl

theorem sendVc0_now (d : Dev) (dest : Nat) (body : Bytes) : (sendVc0 d dest body).now = d.now := by
  unfold sendVc0
  dsimp only
  split
  · rfl
  · exact routeMsg_now _ _ _

/-- Sending takes no time. -/
@[simp] theorem sendAll_now (d : Dev) (to_ : List Nat) (body : Bytes) : (sendAll d to_ body).now = d.now :=
  foldl_keeps Dev.now (fun d n => sendVc0_now d n body) to_ d

/-- Settles O28: each message is in form, each timer is due, and what it does is then the branch named. -/
theorem membershipMessages : Obligations.MembershipMessages := by
  unfold Obligations.MembershipMessages
  refine ⟨fun s msg m hon hfw hmsg hsound hcalm => ?_, fun s msg m hon hfw hmsg hsound => ?_,
    fun s msg m hon hfw hmsg hsound => ?_, fun s hon hjoins hnew hepoch => ?_,
    fun s domain hon hfw hwitness hfrozen hnew => ?_,
    fun s domain subject hon hfw hwitness hsuspected hlast hnew => ?_, fun s comp hon hcomp => ?_,
    fun s comp own k hon hcomp hfw hdue hown => ?_, fun s msg c m hon hfw hmsg hsound hcomp => ?_⟩
  · rw [exec_memberUpdate, execMemberUpdate]
    refine actRead_of hon ?_
    rw [State.chip_dev, vc0Message_of_sound hfw hmsg hsound]
    exact probationMoves_of_not hcalm
  · rw [exec_memberPull, execMemberPull]
    exact act_of hon (vc0Message_of_sound hfw hmsg hsound)
  · exact onVc0_of_sound hon hfw hmsg hsound
  · rw [exec_joinSend, execJoinSend, act_when hon (by simp [hjoins, hnew])]
    simp only [if_neg hepoch]
  · rw [exec_frozenDomainEvent, execFrozenDomainEvent]
    exact act_when hon (by simp [hfw, hwitness, hfrozen, hnew])
  · rw [exec_lastReplicaSuspectEvent, execLastReplicaSuspectEvent]
    exact act_when hon (by simp [hfw, hwitness, hsuspected, hlast, hnew])
  · rw [exec_stragglerGossipSend, execStragglerGossipSend]
    refine act_of hon ?_
    simp only [hcomp]
  · rw [exec_stragglerGossipSend, execStragglerGossipSend]
    refine act_of hon ?_
    simp only [hcomp, hfw, hdue, hown, Bool.and_self, Dev.when_true, sendAll_now]
  · rw [exec_stragglerGossip, execStragglerGossip, onVc0_of_sound hon hfw hmsg hsound]
    simp only [hcomp]
    rfl

end Sys2Proof.Machine
end

section
/-! Home queries, record changes, handovers and shadow comparison (R366 to R377, R548). -/

namespace Sys2Proof.Machine

/-- A HOME_QUERY in order is answered by the home with the record (R548). -/
theorem homeQueryOp_of_home {d : Dev} {m : Inb} {h : HomeRec} (hfresh : m.stale = false)
    (htenant : fld (msgBody m.bytes) 2 2 = msgTenant m.bytes) (hhead : recHeadBad m.bytes = none)
    (hhome : d.home (rmObj (msgBody m.bytes)) = some h) (hishome : h.isHome = true) :
    homeQueryOp d m =
      reply d m 1 2 (recMsg 0x51 0 (rmObj (msgBody m.bytes)) (rmTag (msgBody m.bytes)) 0xFF 0 0 0 (recordBytes h)) := by
  simp [homeQueryOp, hfresh, htenant, hhead, hhome, hishome]

/-- A node that does not know the object answers so (R548). -/
theorem homeQueryOp_of_unknown {d : Dev} {m : Inb} (hfresh : m.stale = false)
    (htenant : fld (msgBody m.bytes) 2 2 = msgTenant m.bytes) (hhead : recHeadBad m.bytes = none)
    (hhome : d.home (rmObj (msgBody m.bytes)) = none) (hobj : d.objAt (rmObj (msgBody m.bytes)) = none) :
    homeQueryOp d m =
      reply d m 1 2 (recMsg 0x51 0x20 (rmObj (msgBody m.bytes)) (rmTag (msgBody m.bytes)) 0xFF 0 0 0 []) := by
  simp [homeQueryOp, hfresh, htenant, hhead, hhome, hobj, St.noSuchObject]

/-- Settles O29: each message passes its checks or fails the one named, each timer is due, and what it does is then the
branch named. -/
theorem homeRecordMessages : Obligations.HomeRecordMessages := by
  unfold Obligations.HomeRecordMessages
  refine ⟨fun s msg m h hon hmsg hfresh htenant hhead hhome hishome => ?_,
    fun s msg m hon hmsg hfresh htenant hhead hhome hobj => ?_, fun s msg m hon hmsg => ?_,
    fun s msg m hon hmsg hfresh hhead hrecord => ?_, fun s msg st m hon hmsg hfresh hhead hrecord => ?_,
    fun s msg st m hon hmsg hfresh hhead => ?_, fun s msg m hon hmsg => ?_, fun s object h hon hhome hishome => ?_,
    fun s object h hon hhome hishome hmirror hdead => ?_,
    fun s msg m h hon hmsg hfresh hhead hhome hishome hswap => ?_, fun s msg m hon hmsg => ?_,
    fun s msg m hon hmsg => ?_, fun s object shard h p hon hhome hishome hoffer hdue => ?_,
    fun s object shard request w c hon hshadow hcompared hwhole => ?_,
    fun s object shard request w c hon hshadow hcompared hwhole hdue => ?_, fun s msg m hon hmsg => ?_,
    fun s msg m h hon hmsg hfresh hhead hhome hishome hother => ?_, fun s msg m hon hmsg => ?_⟩
  · rw [exec_homeQuery, execHomeQuery, act_onMsg hon hmsg, homeQueryOp_of_home hfresh htenant hhead hhome hishome]
  · rw [exec_homeQuery, execHomeQuery, act_onMsg hon hmsg, homeQueryOp_of_unknown hfresh htenant hhead hhome hobj]
  · rw [exec_homeReply, execHomeReply]
    exact actRead_onMsgRead hon hmsg
  · rw [exec_shardUpdate, execShardUpdate, actRead_onMsgRead hon hmsg]
    simp only [shardUpdateOp, hfresh, hhead, Chip.onDev_dev, State.chip_dev, hrecord, Bool.false_eq_true, if_false]
  · rw [exec_shardUpdate, execShardUpdate, actRead_onMsgRead hon hmsg]
    simp only [shardUpdateOp, hfresh, hhead, Chip.onDev_dev, State.chip_dev, hrecord, Bool.false_eq_true, if_false]
  · rw [exec_shardUpdate, execShardUpdate, actRead_onMsgRead hon hmsg]
    simp only [shardUpdateOp, hfresh, hhead, Chip.onDev_dev, State.chip_dev, Bool.false_eq_true, if_false]
  · rw [exec_shardAck, execShardAck]
    exact act_onMsg hon hmsg
  · rw [exec_homeRecordChange, execHomeRecordChange]
    refine actRead_of hon ?_
    simp only [State.chip_dev, hhome, hishome, if_true]
  · rw [exec_homeRecordChange, execHomeRecordChange]
    refine actRead_of hon ?_
    simp [hhome, hishome, hmirror, hdead]
  · rw [exec_shardWithdraw, execShardWithdraw, act_onMsg hon hmsg]
    simp [withdrawOp, hhome, hfresh, hhead, hishome, hswap, St.ok]
  · rw [exec_tailOffer, execTailOffer]
    exact actRead_onMsgRead hon hmsg
  · rw [exec_tailAccept, execTailAccept]
    exact act_onMsg hon hmsg
  · rw [exec_handoverTimeout, execHandoverTimeout]
    refine act_of hon ?_
    simp [hhome, hishome, hoffer, Dev.due, hdue, Dev.when]
  · rw [exec_shadowCompare, execShadowCompare]
    refine actRead_of hon ?_
    simp [hshadow, hcompared, hwhole]
  · rw [exec_shadowComparisonDeadline, execShadowComparisonDeadline]
    refine actRead_of hon ?_
    simp [hshadow, hcompared, hwhole, hdue]
  · rw [exec_shadowDigest, execShadowDigest]
    exact actRead_onMsgRead hon hmsg
  · rw [exec_shadowReady, execShadowReady, act_onMsg hon hmsg]
    simp [shadowReadyOp, hhome, hfresh, hhead, hishome, hother, St.notOwner]
  · rw [exec_shadowReady, execShadowReady]
    exact act_onMsg hon hmsg

end Sys2Proof.Machine
end

section
/-! The host link, its decoder and the coherence of the HDM window (R388, R392 to R396, R415 to R417, R466). -/

namespace Sys2Proof.Machine

/-! ### The path to tier 2 under the writes that a link-down releases -/

theorem logFull_tier2Up (d : Dev) (code die tenant status eflags : Nat) (data : Bytes) :
    tier2Up (logFull d code die tenant status eflags data) = tier2Up d := by
  rw [logFull_onEvt]
  rfl

theorem logEv_tier2Up (d : Dev) (code die : Nat) (data : Bytes) : tier2Up (logEv d code die data) = tier2Up d :=
  logFull_tier2Up d code die 0 0 0 data

theorem msiSend_tier2Up (d : Dev) (vector : Nat) : tier2Up (msiSend d vector) = tier2Up d := by
  unfold msiSend
  split <;> rfl

theorem cxlFail_tier2Up (d : Dev) (r : CxlRecord) : tier2Up (cxlFail d r) = tier2Up d := by
  unfold cxlFail
  split
  · exact msiSend_tier2Up _ _
  · rfl

theorem cxlWarn_tier2Up (d : Dev) (r : CxlRecord) : tier2Up (cxlWarn d r) = tier2Up d := by
  unfold cxlWarn
  split
  · exact msiSend_tier2Up _ _
  · rfl

theorem fixedCount_tier2Up (d : Dev) (die n k : Nat) : tier2Up (fixedCount d die n k) = tier2Up d := by
  rw [fixedCount_onCnt]
  rfl

theorem count_tier2Up (d : Dev) (die event k : Nat) : tier2Up (count d die event k) = tier2Up d := by
  rw [count_onCnt]
  rfl

theorem retireFrame_tier2Up (d : Dev) (frame : Nat) : tier2Up (retireFrame d frame) = tier2Up d := by
  unfold retireFrame
  split
  · rfl
  · exact (logEv_tier2Up _ _ _ _).trans ((cxlWarn_tier2Up _ _).trans (fixedCount_tier2Up _ _ _ _))

theorem uncorrectableFound_tier2Up (d : Dev) (burst transaction tenant status : Nat) (misdirected : Bool) :
    tier2Up (uncorrectableFound d burst transaction tenant status misdirected) = tier2Up d := by
  refine (retireFrame_tier2Up _ _).trans ((fixedCount_tier2Up _ _ _ _).trans ?_)
  exact (logFull_tier2Up _ _ _ _ _ _ _).trans (cxlFail_tier2Up d _)

theorem badFound_tier2Up (d : Dev) (bursts : List Nat) (transaction tenant status : Nat) :
    tier2Up (badFound d bursts transaction tenant status) = tier2Up d :=
  foldl_keeps tier2Up (fun d _ => uncorrectableFound_tier2Up d _ _ _ _ _) bursts d

theorem cmdFailState_tier2Up (d : Dev) (ring index status : Nat) :
    tier2Up (cmdFailState d ring index status) = tier2Up d := rfl

theorem flushFail_tier2Up (d : Dev) (key status : Nat) : tier2Up (flushFail d key status) = tier2Up d := by
  unfold flushFail
  split
  · rfl
  · refine foldl_keeps tier2Up (fun d ring => ?_) _ d
    exact foldl_keeps tier2Up (fun d (c : Cmd) => cmdFailState_tier2Up d ring c.index status) _ d

theorem suspectPage_tier2Up (d : Dev) (key : Nat) (copyBack : Bool) :
    tier2Up (suspectPage d key copyBack) = tier2Up d := by
  unfold suspectPage
  extract_lets e st d₁ d₂
  split_ifs
  · rfl
  · exact (logFull_tier2Up d₂ _ _ _ _ _ _).trans (flushFail_tier2Up d key _)

theorem writeLost_tier2Up (d : Dev) (bursts : List Nat) (a : Nat) : tier2Up (writeLost d bursts a) = tier2Up d :=
  (foldl_keeps tier2Up (fun d _ => suspectPage_tier2Up d _ false) _ _).trans (badFound_tier2Up d bursts 2 0 _)

theorem hostDiscard_tier2Up (d : Dev) (a : Nat) : tier2Up (hostDiscard d a) = tier2Up d := logEv_tier2Up _ _ _ _

theorem hubXfer_tier2Up (d : Dev) (dest addr n : Nat) : tier2Up (hubXfer d dest addr n) = tier2Up d := by
  unfold hubXfer
  split
  · exact (count_tier2Up _ _ _ _).trans (count_tier2Up _ _ _ _)
  · rfl

theorem hubMove_tier2Up (d : Dev) (dest addr n : Nat) : tier2Up (hubMove d dest addr n) = tier2Up d :=
  foldl_keeps tier2Up (fun d _ => hubXfer_tier2Up d _ _ _) _ d

theorem writeErrors_tier2Up (a n : Nat) (d : Dev) (p : Nat × Bytes) : tier2Up (writeErrors a n d p) = tier2Up d := by
  unfold writeErrors
  split <;> rfl

theorem storeNow_tier2Up (k : Chip) (a : Nat) (b : Bytes) : tier2Up (storeNow k a b).dev = tier2Up k.dev :=
  foldl_keeps tier2Up (writeErrors_tier2Up a b.length) _ k.dev

theorem hostWriteNow_tier2Up (k : Chip) (a : Nat) (b : Bytes) : tier2Up (hostWriteNow k a b).dev = tier2Up k.dev := by
  unfold hostWriteNow
  split
  · exact hostDiscard_tier2Up _ _
  · split
    · exact (storeNow_tier2Up _ _ _).trans (hubMove_tier2Up _ _ _ _)
    · exact (hostDiscard_tier2Up _ _).trans (badFound_tier2Up _ _ _ _ _)

theorem writeNow_tier2Up (k : Chip) (w : WaitWrite) : tier2Up (writeNow k w).dev = tier2Up k.dev := by
  unfold writeNow
  split
  · exact hostWriteNow_tier2Up _ _ _
  · split
    · exact storeNow_tier2Up _ _ _
    · exact writeLost_tier2Up _ _ _

theorem releaseFrom_tier2Up (ws : List WaitWrite) (k : Chip) : tier2Up (releaseFrom k ws).dev = tier2Up k.dev := by
  induction ws generalizing k with
  | nil => rfl
  | cons w ws ih =>
    rw [releaseFrom]
    split
    · exact (ih _).trans (writeNow_tier2Up k w)
    · exact ih _

theorem releaseWrites_tier2Up (k : Chip) : tier2Up (releaseWrites k).dev = tier2Up k.dev := releaseFrom_tier2Up _ _

/-! ### The link goes down -/

/-- What a link-down makes of the device, once the writes that waited are made (R415). -/
def hostDownDev (d : Dev) : Dev :=
  (hostReset (spillGone (d.hif.reads.foldl readCut d))).onHif fun h =>
    { h with link := .down, gts := 0, width := 0,
             downAt := if h.link = .full then (spillGone (d.hif.reads.foldl readCut d)).now else h.downAt }

theorem hostDownDev_tier2Up (d : Dev) : tier2Up (hostDownDev d) = false := tier2Up_of_not_cxlUp rfl

/-- Where tier 2 was not in use, a link-down has no further effect on it (R173, R415). -/
theorem hostDownOp_of_no_tier2 {k : Chip} (h : tier2Up k.dev = false) :
    hostDownOp k =
      (releaseWrites (k.onDev fun d => d.onHif fun h => { h with waiting := h.waiting.map fun w => { w with lines := [] } })).onDev
        hostDownDev :=
  withPath_of_down ((releaseWrites_tier2Up _).trans h) (hostDownDev_tier2Up _)

/-! ### The HDM window -/

/-- HOST_HDM_WRITE of a line that exists, while host coherence holds, is the host's write; a copy that is not kept leaves
its filter (R201, R394). -/
theorem execHostHdmWrite_of_line {s : State} {addr : Nat} (hon : s.dev.on = true) (hhdm : s.dev.hdm = true)
    (haddr : addr < 3298534883328) (hcoherent : s.dev.hif.cohFailed = false) (data : Bytes) (keep : Bool) :
    execHostHdmWrite addr data keep s = .next (s.withChip
      (if keep then hostWrite s.chip (addr / 64 * 64) (padTo 64 data)
       else (hostWrite s.chip (addr / 64 * 64) (padTo 64 data)).onDev fun d => d.onHif fun h =>
        { h with filter := tmod [] h.filter (addrDie (addr / 64 * 64)) fun l => l.erase (addr / 64 * 64 / 64) })) := by
  have hexists : ¬ tier1Bytes ≤ addr := by rw [tier1Bytes_eq]; omega
  rw [execHostHdmWrite, if_neg (by simp [hexists])]
  refine actMem_of hon ?_
  simp [hhdm, hcoherent]

/-- A host write outside the runs open for loading is discarded and counted, and stores nothing (R201). -/
theorem hostWrite_of_no_load {k : Chip} {a : Nat} {b : Bytes} (hload : inLoadRun k.dev a b.length = false)
    (hfree : writeWaits k.dev a b.length = false) : hostWrite k a b = k.onDev fun d => hostDiscard d a := by
  simp [hostWrite, hostWriteNow, hload, hfree]

theorem hostDiscard_lp (d : Dev) (a : Nat) :
    (hostDiscard d a).lp = { d.lp with hostDiscarded := inc48 d.lp.hostDiscarded } := by
  rw [hostDiscard, logEv_lp, Dev.onLp_lp]

/-- Settles O7: each command's guard holds, and what it does is then the branch named; a link-down without tier 2 is
followed by nothing. -/
theorem hostLinkCommands : Obligations.HostLinkCommands := by
  unfold Obligations.HostLinkCommands
  refine ⟨fun s hon => actMem_of hon rfl, fun s hon htier => ?_, fun s hon hup => ?_,
    fun s gts width hon hready hdown hgts hwidth hpath => ?_, fun s hon hfw habsent hidle => ?_,
    fun s hon hfw haway => ?_, fun s base size ways hon hbar hfull hbase hsize hways => ?_,
    fun s base size ways hon hbar hfull hbad => ?_, fun s cache mem hon hbar hfull => ?_,
    fun s addr hon hhdm haddr hcoherent hready => execHostHdmRead_of_ready hon hhdm hcoherent haddr hready,
    fun s addr hon hhdm haddr hfailed => ?_, fun s addr hon hhdm haddr => ?_,
    fun s addr data keep hon hhdm haddr hcoherent hkeep => ?_,
    fun s addr data keep hon hhdm haddr hcoherent hload hfree => ?_,
    fun s addr data keep hon hhdm haddr hcoherent hkeep hwaits => ?_, fun s addr data keep hon hhdm haddr => ?_,
    fun s line hon hcxl hline => ?_, fun s line hon hdue => ?_⟩
  · rw [exec_perstAssert, execPerstAssert, actMem_of hon (hostDownOp_of_no_tier2 htier)]
    exact .of_next ⟨rfl, rfl, rfl, rfl, rfl, rfl, rfl⟩
  · rw [exec_hostLinkDown, execHostLinkDown]
    refine actMem_of hon (if_pos ?_)
    simpa using hup
  · have hbefore : tier2Up s.dev = false := by simp [tier2Up, hpath]
    rw [exec_hostLinkUp, execHostLinkUp, actMem_when hon (by simp [Config.clover, hready, hdown])]
    simp only [hgts, hwidth, and_self, if_true]
    rw [withPath_of_down hbefore (by simp [tier2Up, hpath])]
    rfl
  · rw [exec_hostLinkAbsentTimeout, execHostLinkAbsentTimeout]
    refine actRead_of hon ?_
    simp [hfw, habsent, drainOwn, hidle]
  · rw [exec_nodeDrain, execNodeDrain]
    refine actMem_when hon ?_
    rcases haway with h | h <;> simp [hfw, h, Config.clover]
  · rw [exec_hdmDecoderCommit, execHdmDecoderCommit, act_when hon (by simp [hbar, hfull]),
      if_pos ⟨hbase, hsize, hways⟩]
    rfl
  · have hrefused : ¬ (base % 268435456 = 0 ∧ size = tier1Bytes ∧ ways = 1) := by
      rw [tier1Bytes_eq]
      omega
    rw [exec_hdmDecoderCommit, execHdmDecoderCommit, act_when hon (by simp [hbar, hfull]), if_neg hrefused]
    rfl
  · rw [exec_dvsecEnable, execDvsecEnable, act_when hon (by simp [hbar, hfull])]
    rfl
  · have hexists : ¬ tier1Bytes ≤ addr := by rw [tier1Bytes_eq]; omega
    rw [exec_hostHdmRead, execHostHdmRead, if_neg (by simp [hexists])]
    refine actMem_of (k := s.chip.onDev fun d => d.onHif fun h => { h with pin := some (.memData (addr / 64 * 64) [] true) }) hon ?_
    simp [hhdm, hfailed]
  · rw [exec_hostHdmRead, execHostHdmRead]
    exact if_pos (by simp [hon, hhdm, tier1Bytes_eq, haddr])
  · rw [exec_hostHdmWrite, execHostHdmWrite_of_line hon hhdm haddr hcoherent, if_pos hkeep]
  · rw [exec_hostHdmWrite, execHostHdmWrite_of_line hon hhdm haddr hcoherent, hostWrite_of_no_load hload hfree]
    cases keep with
    | true => exact .of_next ⟨rfl, congrArg Lpddr.hostDiscarded (hostDiscard_lp s.dev _), rfl, rfl⟩
    | false => exact .of_next ⟨rfl, congrArg Lpddr.hostDiscarded (hostDiscard_lp s.dev _), rfl, rfl⟩
  · rw [exec_hostHdmWrite, execHostHdmWrite_of_line hon hhdm haddr hcoherent, if_pos hkeep, hostWrite,
      if_pos (show writeWaits s.chip.dev _ _ = true from hwaits)]
    rfl
  · rw [exec_hostHdmWrite, execHostHdmWrite]
    exact if_pos (by simp [hon, hhdm, tier1Bytes_eq, haddr])
  · rw [exec_hostBirsp, execHostBirsp]
    exact actMem_when hon (by simp [hcxl, hline])
  · rw [exec_backInvalidateTimeout, execBackInvalidateTimeout]
    exact actMem_when hon hdue

end Sys2Proof.Machine
end

section
/-! The CXL mailbox, SPDM, MCTP and PLDM (R391, R498 to R503), and the firmware commands of the SEC_MBOX registers (R489,
R504 to R506). -/

namespace Sys2Proof.Machine

/-! ### The CXL mailbox -/

/-- An opcode that is none of the seven is answered Unsupported (R391). -/
theorem execMailboxCommand_of_other {s : State} {opcode : Nat} (hon : s.dev.on = true) (hbar : s.dev.bar = true)
    (hother : [0x4000, 0x0400, 0x0401, 0x0100, 0x0101, 0x0102, 0x0103].contains opcode = false) (payload : Bytes) :
    execMailboxCommand opcode payload s = .next (s.withDev (mailboxAnswer s.dev 3 [])) := by
  rw [execMailboxCommand, act_when hon hbar]
  split
  case h_8 => rfl
  all_goals cases hother

/-! ### SPDM -/

/-- A request that looks the certificates up, on a transport whose responder answers. -/
theorem actNv_spdm {s : State} {mctp : Bool} {f : Root → Dev → Dev} (hon : s.dev.on = true)
    (hup : s.dev.spdmUp mctp = true) :
    (s.actNv fun r => r.onDev fun d => d.when (d.spdmUp mctp) (f r)) =
      .next (s.withDev (f ⟨s.nv, s.dev⟩ s.dev)) :=
  actNv_of (r := ⟨s.nv, f ⟨s.nv, s.dev⟩ s.dev⟩) hon (congrArg (Root.mk s.nv) (if_pos hup))

theorem spdm_onSpdm (d : Dev) (mctp : Bool) (f : Spdm → Spdm) : (d.onSpdm mctp f).spdm mctp = f (d.spdm mctp) := by
  cases mctp <;> rfl

theorem spdmAnswer_response (d : Dev) (mctp : Bool) (request : Nat) (req : Bytes) (code : Nat) (content : Bytes) :
    ((spdmAnswer d mctp request req code content).spdm mctp).response = (code, content) := by
  rw [spdmAnswer, spdm_onSpdm]

/-- CHALLENGE of slot 0 is answered with the digest of the chain, a nonce of the responder's own and a signature (Table
19-7). -/
theorem execSpdmChallenge_of_slot {s : State} {slot : Nat} {mctp : Bool} (hon : s.dev.on = true)
    (hup : s.dev.spdmUp mctp = true) (halgorithms : (s.dev.spdm mctp).algorithms = true) (hslot : slot = 0)
    (nonce : Bytes) :
    Answers (execSpdmChallenge mctp slot nonce s) fun t =>
      (t.dev.spdm mctp).response.1 = 0x03 ∧
      (∃ sig, (t.dev.spdm mctp).response.2 =
        sha256 (certChain s.nv s.dev) ++ padTo 32 (Config.spdmNonce s.dev.draws) ++ sig) ∧
      SameRest s t := by
  have hnegotiated : ¬ (s.dev.spdm mctp).algorithms = false := by simp [halgorithms]
  have hzero : ¬ slot ≠ 0 := not_not.mpr hslot
  rw [execSpdmChallenge, actNv_spdm hon hup]
  refine .of_next ?_
  simp only [State.withDev, if_neg hnegotiated, if_neg hzero, spdmAnswer_response]
  exact ⟨trivial, ⟨_, rfl⟩, rfl, rfl, rfl⟩

/-! ### PLDM -/

/-- Outside recovery the end of a download resets nothing (R494, R503). -/
theorem execPldmVerifyComplete_of_running {s : State} (hon : s.dev.on = true) (hdownload : s.dev.sec.update = .download)
    (hmode : s.dev.boot.mode ≠ .recovery) :
    execPldmVerifyComplete s = .next (s.withRoot
      ⟨imagePut s.nv (idleSlot s.dev) s.dev.sec.pldmBuf, s.dev.onSec fun x =>
        let ok := (imageFault (imagePut s.nv (idleSlot s.dev) s.dev.sec.pldmBuf) s.dev.sec.pldmBuf).isNone
        { x with update := if ok then .verified else .idle, staged := ok, pldmBuf := [],
                 pldmResponse := if ok then 0 else 1 }⟩) := by
  rw [execPldmVerifyComplete, if_pos ⟨hon, hdownload⟩]
  refine congrArg _ ((recovered_of_not_recovery ?_).trans ?_)
  · exact hmode
  · simp only [hmode, and_false, if_false]
    rfl

/-- Settles O9: each request finds the responder in the state named, and its answer is then read off. -/
theorem sidebandCommands : Obligations.SidebandCommands := by
  unfold Obligations.SidebandCommands
  refine ⟨fun s opcode payload hon hbar hopcode => ?_, fun s opcode payload hon hbar hother => ?_,
    fun s mctp hon hup => ?_, fun s mctp hon hup hversion => ?_,
    fun s asym hash meas mctp hon hup hcapabilities hasym hhash hmeas => ?_, fun s mctp hon hup halgorithms => ?_,
    fun s slot offset length mctp hon hup halgorithms hslot hoffset => ?_,
    fun s slot mctp nonce hon hup halgorithms hslot => ?_,
    fun s index mctp signed nonce hon hup halgorithms hlow hhigh hsigned => ?_,
    fun s code mctp hon hup hother => ?_, fun s addr hon hside haddr => ?_, fun s eid hon hside hi3c => ?_,
    fun s eid hon hfw heid => ?_, fun s sensor value hon hfw hlow hhigh => ?_,
    fun s hon hside heid hbusy hidle => ?_, fun s offset data hon hdownload hfits => ?_,
    fun s hon hdownload hmode => ?_, fun s hon hfw hverified => ?_⟩
  · subst hopcode
    rw [exec_mailboxCommand, execMailboxCommand, act_when hon hbar]
    rfl
  · exact execMailboxCommand_of_other hon hbar hother payload
  · rw [exec_spdmGetVersion, execSpdmGetVersion, act_when hon hup]
  · rw [exec_spdmGetCapabilities, execSpdmGetCapabilities, act_when hon hup, if_pos hversion]
  · rw [exec_spdmNegotiateAlgorithms, execSpdmNegotiateAlgorithms, act_when hon hup, if_neg (by simp [hcapabilities]),
      if_pos (by simp [hasym, hhash, hmeas])]
  · rw [exec_spdmGetDigests, execSpdmGetDigests, actNv_spdm hon hup, if_pos halgorithms]
  · have hnegotiated : ¬ (s.dev.spdm mctp).algorithms = false := by simp [halgorithms]
    have hsound : ¬ (slot ≠ 0 ∨ (certChain s.nv s.dev).length < offset) := by omega
    rw [exec_spdmGetCertificate, execSpdmGetCertificate, actNv_spdm hon hup, if_neg hnegotiated, if_neg hsound]
  · exact execSpdmChallenge_of_slot hon hup halgorithms hslot nonce
  · have hknown : ¬ 4 < index := Nat.not_lt.mpr hhigh
    have hone : index ≠ 0 ∧ index ≠ 0xFF := by omega
    rw [exec_spdmGetMeasurements, execSpdmGetMeasurements, act_when hon hup]
    simp [halgorithms, hknown, hone, hsigned, b2n]
  · rw [exec_spdmUnsupported, execSpdmUnsupported, act_when hon (by rw [hup, hother]; rfl)]
    rfl
  · rw [exec_i3cEntdaa, execI3cEntdaa, act_when hon (by simp [hside, haddr])]
    rfl
  · rw [exec_mctpSetEndpointId, execMctpSetEndpointId, act_when hon (by simp [hside, hi3c])]
    rfl
  · rw [exec_pldmSetEventReceiver, execPldmSetEventReceiver, act_when hon (by simp [hfw, heid])]
    rfl
  · rw [exec_pldmSensorUpdate, execPldmSensorUpdate, act_when hon (by simp [hfw, hlow, hhigh])]
    exact .of_next ⟨rfl, rfl, rfl, rfl, rfl, rfl⟩
  · rw [exec_pldmRequestUpdate, execPldmRequestUpdate]
    have hfree : ¬ (s.dev.sec.busy || s.dev.sec.update != .idle) = true := by simp [hbusy, hidle]
    exact actNv_of hon ((if_pos (by simp [hside, heid])).trans (if_neg hfree))
  · rw [exec_pldmFirmwareData, execPldmFirmwareData]
    exact actNv_of hon (if_pos ⟨hdownload, hfits⟩)
  · exact execPldmVerifyComplete_of_running hon hdownload hmode
  · rw [exec_pldmActivateFirmware, execPldmActivateFirmware]
    exact actNv_of hon (if_pos (by simp [hfw, hverified]))

/-! ### The SEC_MBOX registers -/

/-- Settles O10: each command may start, and what it does is then the branch named. -/
theorem mailboxCommands : Obligations.MailboxCommands := by
  unfold Obligations.MailboxCommands
  refine ⟨fun s length hon hmbox hfw hidle => ?_, fun s length hon hmbox hmode hidle => ?_,
    fun s length hon hmbox hfw hupdate => ?_, fun s hon hmbox hfw hidle => ?_, fun s hon hmbox hfw hupdate => ?_,
    fun s hon hmbox hfw hmode => ?_, fun s hon hmbox hfw hmode => ?_, fun s hon hmbox hfw hdrained => ?_,
    fun s hon hmbox hfw hdrained => ?_⟩
  · rw [exec_fwStage, execFwStage]
    refine actNv_of hon ?_
    simp [hmbox, hfw, hidle, fwStageOp]
  · rw [exec_fwStage, execFwStage]
    refine actNv_of hon ?_
    simp [hmbox, hmode, hidle, fwStageOp, idleSlot]
  · rw [exec_fwStage, execFwStage]
    refine actNv_of (r := ⟨s.nv, mboxEnd s.dev 0x40 0⟩) hon ?_
    simp [hmbox, hfw, hupdate, fwStageOp, St.busy]
  · rw [exec_fwActivate, execFwActivate]
    refine actNv_of hon ?_
    cases hvalid : imageValid s.nv (idleSlot s.dev) <;>
      simp [hmbox, hfw, hidle, fwActivateOp, activateOp, hvalid, St.ok, St.fieldInvalid]
  · rw [exec_fwActivate, execFwActivate]
    refine actNv_of (r := ⟨s.nv, mboxEnd s.dev 0x40 0⟩) hon ?_
    simp [hmbox, hfw, hupdate, fwActivateOp, St.busy]
  · rw [exec_svnCommit, execSvnCommit]
    refine actNv_of hon ?_
    simp [hmbox, hfw, hmode, svnCommitOp, St.ok]
  · rw [exec_svnCommit, execSvnCommit]
    refine actNv_of (r := ⟨s.nv, mboxEnd s.dev 0x11 0⟩) hon ?_
    simp [hmbox, hfw, hmode, svnCommitOp, St.fieldInvalid]
  · rw [exec_restart, execRestart, if_pos (by simp [hon, hmbox, hfw]), if_pos (by simp [Dev.drained, hdrained])]
  · rw [exec_restart, execRestart, if_pos (by simp [hon, hmbox, hfw]), if_neg (by simp [Dev.drained, hdrained])]
    rfl

end Sys2Proof.Machine
end

section
/-! Counters: their commands and snapshots, the compatibility set, the derived units and the queue samples (R335, R336, R508
to R525). -/

namespace Sys2Proof.Machine

/-! ### The counter commands -/

/-- What CNT_SNAPSHOT checks: its flags, and that no capture runs (R515, R516). -/
def snapshotChecks (d : Dev) (c : Cmd) : List (Bool × (Nat × Nat)) :=
  let v := fld c.desc 0x14 4
  [(v != 3, (St.fieldInvalid, 0x14)), (!(v == 1 && d.cnt.frozen), (St.fieldInvalid, 0x14)),
    (!(v == 2 && !d.cnt.frozen), (St.fieldInvalid, 0x14)), (d.cnt.snap.isNone, (St.busy, 0))]

/-- The device once a snapshot of a mode has started (R515). -/
def snapshotStarted (d : Dev) (ring index mode : Nat) : Dev :=
  (d.onCmd ring index fun c => { c with phase := .running }).onCnt fun x =>
    { x with snap := some { ring := ring, index := index, mode := mode, target := d.now + 100,
                            mask := ofBits ((List.range 32).filter (outOfReset d)) } }

/-- A snapshot whose flags name its mode, with no other capture running, starts (R515). -/
theorem snapshotStart_of_free {s : State} {ring index mode : Nat} {mine : Nat → Bool} {c : Cmd} (hon : s.dev.on = true)
    (hready : s.dev.cmdReady ring index 0x0E = some c) (hmine : mine (fld c.desc 0x14 4 % 4) = true)
    (hpass : firstFail (snapshotChecks s.dev c) = none) :
    snapshotStart s ring index mode mine = .next (s.withDev (snapshotStarted s.dev ring index mode)) := by
  rw [snapshotStart]
  refine act_of hon ?_
  simp only [hready, hmine, Dev.when_true]
  exact cmdChecks_pass (checks := snapshotChecks s.dev) hready hpass

theorem snapshotStarted_answers {s : State} {ring index : Nat} {c : Cmd}
    (hready : s.dev.cmdReady ring index 0x0E = some c) (mode : Nat) :
    Answers (.next (s.withDev (snapshotStarted s.dev ring index mode))) fun t =>
      RunsOn t ring index c ∧
      t.dev.cnt.snap = some { ring := ring, index := index, mode := mode, target := s.dev.now + 100,
                              mask := ofBits ((List.range 32).filter (outOfReset s.dev)) } ∧
      t.dev.cnt.c = s.dev.cnt.c ∧ SameRest s t := by
  have hruns : (s.dev.onCmd ring index fun c => { c with phase := .running }).cmd ring index =
      some { c with phase := .running } := cmd_onCmd (cmd_of_ready hready) fun _ => rfl
  exact .of_next ⟨hruns, rfl, rfl, rfl, rfl, rfl⟩

/-- A die's answer to a running snapshot, with another die still to answer (R516, R518). -/
theorem snapshotDone_of_waiting {d : Dev} {p : Snapshot}
    (h : ((bitIdx 32 p.mask).all fun n => (tfind p.got n).isSome) = false) : snapshotDone d p = d :=
  if_neg (ne_true_of_eq_false h)

/-- Settles O14: each command passes its checks, and what it does is then read off. -/
theorem counterCommands : Obligations.CounterCommands := by
  unfold Obligations.CounterCommands
  refine ⟨fun s ring index c hon hready hpass hprog => ?_, fun s ring index c hon hready hflags hsnap => ?_,
    fun s ring index c hon hready hflags hsnap hfrozen => ?_, fun s ring index c hon hready hflags hsnap hfrozen => ?_,
    fun s die p hon hsnap htarget hmask hdie hgot hleft => ?_⟩
  · have hunit : ¬ forUnit c = true := by simp only [forUnit, decide_eq_true_eq]; omega
    rw [exec_cntConfig, execCntConfig, act_cmdChecks hon hready hpass]
    refine .of_next ⟨cmd_cmdDone (cmd_of_ready hready) _ _, ?_, rfl, rfl, rfl⟩
    exact (if_neg hunit).trans (if_neg (Nat.not_le.mpr hprog))
  · rw [exec_cntSnapshot, execCntSnapshot, snapshotStart_of_free hon hready (by simp [hflags])
      (by simp [snapshotChecks, firstFail, hflags, hsnap])]
    exact snapshotStarted_answers hready 0
  · rw [exec_cntFreeze, execCntFreeze, snapshotStart_of_free hon hready (by simp [hflags])
      (by simp [snapshotChecks, firstFail, hflags, hsnap, hfrozen])]
    exact snapshotStarted_answers hready 1
  · rw [exec_cntUnfreeze, execCntUnfreeze, snapshotStart_of_free hon hready (by simp [hflags])
      (by simp [snapshotChecks, firstFail, hflags, hsnap, hfrozen])]
    exact snapshotStarted_answers hready 2
  · have hlast : die ≠ 31 := by omega
    rw [exec_snapshotCapture, execSnapshotCapture]
    refine act_of hon ?_
    simp only [hsnap]
    rw [Dev.when, if_pos (by simp [htarget, hmask, hgot]; omega), if_neg hlast, snapshotDone_of_waiting hleft]
    rfl

/-! ### The compatibility set, derived units and queue samples -/

theorem ctrEach_fab (d : Dev) (die event : Nat) (f : Counter → Counter) : (ctrEach d die event f).fab = d.fab := by
  unfold ctrEach
  split <;> rfl

/-- What a sample feeds is counters. -/
theorem sampleEvents_fab (queue die : Nat) (x : Sample) (d : Dev) : (sampleEvents queue die x d).fab = d.fab := by
  unfold sampleEvents countSample
  split_ifs <;> simp only [ctrEach_fab]

/-- The sample of a queue at this tick: of an engine's queue the ages are free values (notes/assumptions/68.md). -/
def sampleNow (d : Dev) (queue : Nat) (q : Depth) : Sample :=
  { enq := 0, at_ := d.now, maxAge := 0, entries := q.entries, size := q.size
    headAge := if q.entries = 0 then 0
      else if decide (512 ≤ queue ∧ queue < 640) then Config.queueAge d.now queue
      else match q.oldest with | some at_ => d.now - at_ | none => 0
    largest := if decide (512 ≤ queue ∧ queue < 640) then Config.queueAge (d.now + 1) queue
      else (tget ({} : Sample) d.fab.samples queue).maxAge }

/-- QUEUE_SAMPLE of a queue that is due records its sample (R335, R336). -/
theorem queueSample_answers {s : State} {queue die : Nat} {q : Depth} (hon : s.dev.on = true)
    (hqueue : queueDepth s.dev queue = some (die, q)) (hready : s.dev.ready die = true)
    (hdue : 1024 ≤ (tget ({} : Sample) s.dev.fab.samples queue).enq ∨
      s.dev.due (tget ({} : Sample) s.dev.fab.samples queue).at_ 1000 = true) :
    Answers (execQueueSample queue s) fun t =>
      t.dev.fab.samples = tput {} s.dev.fab.samples queue (sampleNow s.dev queue q) ∧ SameRest s t := by
  have hguard : (s.dev.ready die && (decide (1024 ≤ (tget ({} : Sample) s.dev.fab.samples queue).enq) ||
      s.dev.due (tget ({} : Sample) s.dev.fab.samples queue).at_ 1000)) = true := by simpa [hready] using hdue
  rw [execQueueSample, State.act_on hon]
  simp only [hqueue, hguard, Dev.when_true]
  exact .of_next ⟨congrArg Fabric.samples (sampleEvents_fab _ _ _ _), rfl, rfl, rfl⟩

/-- A read-write register that is served, written with no case of R528, acts. -/
theorem rwWrite_of_accepted {d : Dev} {offset : Nat} {bad : Bool} (hserved : regServed d offset = true)
    (hgood : bad = false) (f : Dev → Dev) : rwWrite d offset bad f = f d := by
  simp [rwWrite, hserved, hgood]

/-- CNT_COMPAT_SELk takes code 0, or a code that the die counts (R524). -/
theorem compatSel_of_code {d : Dev} {slot v : Nat}
    (h : bitsOf v 0 16 = 0 ∨ (eventOk (bitsOf v 16 5) (bitsOf v 0 16) = true ∧ policerEvent (bitsOf v 0 16) = false)) :
    compatSel d slot v = d.onCnt fun x =>
      { x with
        sel := tput 0 x.sel slot (bitsOf v 40 24 * 2 ^ 40 + bitsOf v 32 1 * 2 ^ 32 + bitsOf v 16 5 * 2 ^ 16 + bitsOf v 0 16)
        slots := tput {} x.slots slot { event := bitsOf v 0 16, thr := bitOf v 32, threshold := bitsOf v 40 24 } } := by
  refine if_neg ?_
  rcases h with h | ⟨hevent, hplain⟩
  · simp [h]
  · simp [hevent, hplain]

/-- What setting a compatibility slot changes. Stated for any `v` and `x`, so that no proof evaluates the register's value. -/
theorem compatSet_answers (s : State) (slot v : Nat) (x : Counter) :
    Answers (.next (s.withDev (s.dev.onCnt fun n =>
      { n with sel := tput 0 n.sel slot v, slots := tput {} n.slots slot x }))) fun t =>
      t.dev.cnt.sel = tput 0 s.dev.cnt.sel slot v ∧ t.dev.cnt.slots = tput {} s.dev.cnt.slots slot x ∧
      t.dev.cnt.c = s.dev.cnt.c ∧ t.mem = s.mem ∧ t.nv = s.nv ∧ t.pending = s.pending :=
  .of_next ⟨rfl, rfl, rfl, rfl, rfl, rfl⟩

/-- Settles O6: each write is accepted and each sample is due, and what it does is then the branch named. -/
theorem counterRegisters : Obligations.CounterRegisters := by
  unfold Obligations.CounterRegisters
  refine ⟨fun s slot value hon hbar hslot hserved hcode => ?_, fun s value hon hbar hserved => ?_,
    fun s hon hfw hhold hclear hdue => ?_, fun s unit u hon hunit hfrozen hdue => ?_,
    fun s queue die q hon hqueue hready hdue hplain => ?_, fun s queue die q hon hqueue hready hdue hlow hhigh => ?_⟩
  · rw [exec_cntCompatSelWrite, execCntCompatSelWrite, act_when hon (by simp [hbar, hslot]),
      rwWrite_of_accepted hserved rfl, compatSel_of_code hcode]
    exact compatSet_answers s slot _ _
  · rw [exec_cntCompatClear, execCntCompatClear, act_when hon hbar, rwWrite_of_accepted hserved rfl]
    rfl
  · rw [exec_cntCompatUpdate, execCntCompatUpdate, act_when hon (by simp [hfw, hhold, hdue])]
    simp [compatUpdate, hclear, Dev.onCnt]
  · rw [exec_derivedWindowEnd, execDerivedWindowEnd]
    refine act_of hon ?_
    simp [hunit, Config.selfHeal, hfrozen, hdue, Dev.when, Dev.onCnt]
  · have hengine : ¬ (512 ≤ queue ∧ queue < 640) := by omega
    obtain ⟨t, ht, hsamples, hmem, hnv, hpending⟩ := queueSample_answers hon hqueue hready hdue
    refine ⟨t, ht, hsamples.trans ?_, hmem, hnv, hpending⟩
    simp only [sampleNow, decide_eq_true_eq, if_neg hengine] <;> rfl
  · have hengine : 512 ≤ queue ∧ queue < 640 := ⟨hlow, hhigh⟩
    obtain ⟨t, ht, hsamples, hmem, hnv, hpending⟩ := queueSample_answers hon hqueue hready (.inr hdue)
    refine ⟨t, ht, ⟨Config.queueAge s.dev.now queue, Config.queueAge (s.dev.now + 1) queue, hsamples.trans ?_⟩, hmem, hnv,
      hpending⟩
    simp only [sampleNow, decide_eq_true_eq, if_pos hengine]

end Sys2Proof.Machine
end

section
/-! The commands that declare domains, enter, expel and drain (R426, R427, R465, R466). -/

namespace Sys2Proof.Machine

/-! ### A domain's record -/

theorem domain_onDomain_same {d : Dev} {domain : Nat} {f : Domain → Domain} (h : f (d.domain domain) ≠ {}) :
    (d.onDomain domain f).domain domain = f (d.domain domain) := tget_tput_new h

/-- A domain whose record is listed leaves the other records as they were. -/
theorem domain_onDomain_other {d : Dev} {domain other : Nat} {f : Domain → Domain} (h : f (d.domain domain) ≠ {})
    (hother : other ≠ domain) : (d.onDomain domain f).domain other = d.domain other := by
  have htab : tfind (tput {} d.mbr.domains domain (f (d.domain domain))) other = tfind d.mbr.domains other := by
    rw [tput, if_neg h, tfind_tins_other _ _ hother]
  exact congrArg (·.getD {}) htab

/-- The rings, the own domain with its threshold and what is declared of each domain are as they were; which witnesses
disagree (R547) may have been noted. -/
structure SameSetup (a b : Dev) : Prop where
  rings : b.hif.rings = a.hif.rings
  own : b.mbr.domain = a.mbr.domain
  threshold : b.mbr.threshold = a.mbr.threshold
  record : ∀ f, ∃ nodes, b.domain f = { a.domain f with disagree := nodes }

theorem SameSetup.refl (d : Dev) : SameSetup d d := ⟨rfl, rfl, rfl, fun _ => ⟨_, rfl⟩⟩

theorem SameSetup.trans {a b c : Dev} (hab : SameSetup a b) (hbc : SameSetup b c) : SameSetup a c := by
  refine ⟨hbc.rings.trans hab.rings, hbc.own.trans hab.own, hbc.threshold.trans hab.threshold, fun f => ?_⟩
  obtain ⟨nodes, hab⟩ := hab.record f
  obtain ⟨nodes', hbc⟩ := hbc.record f
  exact ⟨nodes', by rw [hbc, hab]⟩

theorem SameSetup.foldl {α : Type} {f : Dev → α → Dev} (hf : ∀ d a, SameSetup d (f d a)) (l : List α) (d : Dev) :
    SameSetup d (l.foldl f d) := by
  induction l generalizing d with
  | nil => exact .refl d
  | cons a l ih => exact (hf d a).trans (ih (f d a))

theorem SameSetup.cmd {a b : Dev} (h : SameSetup a b) (ring index : Nat) : b.cmd ring index = a.cmd ring index := by
  simp only [Dev.cmd, Dev.ring, h.rings]

/-- Recording an event changes only what the event serial context holds. -/
theorem logEv_sameSetup (d : Dev) (code die : Nat) (data : Bytes) : SameSetup d (logEv d code die data) := by
  rw [logEv, logFull_onEvt]
  exact ⟨rfl, rfl, rfl, fun _ => ⟨_, rfl⟩⟩

theorem onDomain_disagree_sameSetup (d : Dev) (f node : Nat) :
    SameSetup d (d.onDomain f fun x => { x with disagree := x.disagree ++ [node] }) := by
  have hlisted : { d.domain f with disagree := (d.domain f).disagree ++ [node] } ≠ ({} : Domain) := fun h =>
    List.append_ne_nil_of_right_ne_nil _ (List.cons_ne_nil node []) (congrArg Domain.disagree h)
  refine ⟨rfl, rfl, rfl, fun g => ?_⟩
  by_cases hg : g = f
  · subst hg
    exact ⟨_, domain_onDomain_same hlisted⟩
  · exact ⟨_, domain_onDomain_other hlisted hg⟩

theorem checkDeclared_sameSetup (d : Dev) (node : Nat) : SameSetup d (checkDeclared d node) :=
  .foldl (fun _ _ => (logEv_sameSetup ..).trans (onDomain_disagree_sameSetup ..)) _ d

theorem hostPut_sameSetup (d : Dev) (service : Nat) (x : HostXfer) : SameSetup d (hostPut d service x) :=
  ⟨rfl, rfl, rfl, fun _ => ⟨_, rfl⟩⟩

theorem msiSend_sameSetup (d : Dev) (vector : Nat) : SameSetup d (msiSend d vector) := by
  unfold msiSend
  split
  · exact hostPut_sameSetup d 2 _
  · exact ⟨rfl, rfl, rfl, fun _ => ⟨_, rfl⟩⟩

theorem cxlWarn_sameSetup (d : Dev) (r : CxlRecord) : SameSetup d (cxlWarn d r) := by
  have hrecord : SameSetup d (cxlWarning d r) := ⟨rfl, rfl, rfl, fun _ => ⟨_, rfl⟩⟩
  unfold cxlWarn
  split
  · exact hrecord.trans (msiSend_sameSetup _ _)
  · exact hrecord

theorem setHealthLow_sameSetup (d : Dev) (low : Bool) : SameSetup d (setHealthLow d low) := by
  have hlow : SameSetup d (d.onMbr fun m => { m with healthLow := low }) := ⟨rfl, rfl, rfl, fun _ => ⟨_, rfl⟩⟩
  unfold setHealthLow
  split
  · exact .refl d
  · exact hlow.trans (cxlWarn_sameSetup _ _)

/-! ### FD_SETUP of a domain record -/

/-- What FD_SETUP mode 0 checks (R426, R344). -/
def fdSetupChecks (d : Dev) (b : Bytes) : List (Bool × (Nat × Nat)) :=
  [(fld b 0x12 2 != 0, (St.fieldInvalid, 0x12)), (decide (fld b 0x16 2 ≤ 1000), (St.fieldInvalid, 0x16)),
    (decide (fld b 0x18 1 ≤ 16), (St.fieldInvalid, 0x18)), (witnessesOk d b, (St.fieldInvalid, 0x1C)),
    (fld b 0x14 2 == 0 || d.regs.links == 0, (St.busy, 0x14)),
    ((d.domain (fld b 0x12 2)).witnesses.isEmpty, (St.busy, 0x12)),
    (decide (((d.mbr.domains.filter fun p => !p.2.witnesses.isEmpty).length) < 64), (St.busy, 0x12))]

/-- What FD_SETUP declares of a domain. -/
def declareIn (b : Bytes) (x : Domain) : Domain :=
  { x with witnesses := fdWitnesses b, budget := fld b 0x18 1, threshold := fld b 0x16 2 }

/-- The device once FD_SETUP has declared the record and the node's own domain, which it names. -/
def fdDeclared (d : Dev) (b : Bytes) : Dev :=
  let d := d.onDomain (fld b 0x12 2) (declareIn b)
  d.onMbr fun m => { m with domain := fld b 0x14 2, threshold := (d.domain (fld b 0x14 2)).threshold }

/-- The device once it has also taken the health threshold and compared the declared domains with its view. -/
def fdChecked (d : Dev) (b : Bytes) : Dev :=
  let e := fdDeclared d b
  (fdWitnesses b).foldl (fun d w => checkDeclared d w.1) (setHealthLow e (d.mbr.healthLow && e.mbr.threshold != 0))

theorem fdChecked_sameSetup (d : Dev) (b : Bytes) : SameSetup (fdDeclared d b) (fdChecked d b) := by
  unfold fdChecked
  exact (setHealthLow_sameSetup _ _).trans (.foldl (fun d (w : Nat × Nat) => checkDeclared_sameSetup d w.1) _ _)

theorem execFdSetupDomain_of_checks {s : State} {ring index : Nat} {c : Cmd} (hon : s.dev.on = true)
    (hready : s.dev.cmdReady ring index 0x05 = some c) (hmode : fld c.desc 0x10 1 = 0) (hown : fld c.desc 0x14 2 ≠ 0)
    (hpass : firstFail (fdSetupChecks s.dev c.desc) = none) :
    execFdSetupDomain ring index s = .next (s.withDev (cmdDone (fdChecked s.dev c.desc) ring index St.ok
      ((fdChecked s.dev c.desc).domain (fld c.desc 0x12 2)).epoch)) := by
  unfold fdSetupChecks at hpass
  refine act_of hon ?_
  simp only [hready, hmode, ne_eq, not_true_eq_false, if_false, hpass, if_neg hown]
  rfl

/-- A witness set that R344 allows has witnesses. -/
theorem fdWitnesses_ne_nil {d : Dev} {b : Bytes} (h : witnessesOk d b = true) : fdWitnesses b ≠ [] := by
  intro hnil
  have hcount : fld b 0x11 1 = 0 := by simpa [fdWitnesses] using congrArg List.length hnil
  simp [witnessesOk, hcount] at h

theorem declared_ne_default {d : Dev} {b : Bytes} (h : witnessesOk d b = true) (x : Domain) :
    declareIn b x ≠ {} := fun heq => fdWitnesses_ne_nil h (congrArg Domain.witnesses heq)

/-- The threshold that FD_SETUP takes: the declared one where the record is of the node's own domain. -/
theorem fdDeclared_threshold {d : Dev} {b : Bytes} (h : witnessesOk d b = true) :
    (fdDeclared d b).mbr.threshold =
      if fld b 0x14 2 = fld b 0x12 2 then fld b 0x16 2 else (d.domain (fld b 0x14 2)).threshold := by
  show ((d.onDomain (fld b 0x12 2) (declareIn b)).domain (fld b 0x14 2)).threshold = _
  split
  next hsame => rw [hsame, domain_onDomain_same (declared_ne_default h _)]; rfl
  next hother => rw [domain_onDomain_other (declared_ne_default h _) hother]

/-- The record that FD_SETUP declares, after the domains have been compared. -/
theorem fdChecked_domain {d : Dev} {b : Bytes} (h : witnessesOk d b = true) :
    ∃ nodes, (fdChecked d b).domain (fld b 0x12 2) =
      { declareIn b (d.domain (fld b 0x12 2)) with disagree := nodes } := by
  obtain ⟨nodes, hrecord⟩ := (fdChecked_sameSetup d b).record (fld b 0x12 2)
  have hdeclared : (fdDeclared d b).domain (fld b 0x12 2) = declareIn b (d.domain (fld b 0x12 2)) :=
    domain_onDomain_same (declared_ne_default h _)
  exact ⟨nodes, by rw [hrecord, hdeclared]⟩

/-! ### Entry and the drain -/

theorem cmd_cmdFailState {d : Dev} {ring index : Nat} {c : Cmd} (h : d.cmd ring index = some c) (status : Nat) :
    (cmdFailState d ring index status).cmd ring index =
      some { c with phase := .done, status := status, result := 0, failOffset := failField (fld c.desc 0 1) status } :=
  cmd_onCmd h fun _ => rfl

/-- Step 4 ends with LEAVE, not with its bound (R465). -/
theorem drainAdvance_of_left {k : Chip} (h : k.dev.mbr.drain.step = 4) : drainAdvance k = k := by
  simp [drainAdvance, Chip.when, h]

/-- Settles O13: each command passes its checks, and what it does is then read off; of FD_SETUP the comparison with the
view leaves the record as declared. -/
theorem membershipCommands : Obligations.MembershipCommands := by
  unfold Obligations.MembershipCommands
  refine ⟨fun s ring index c hon hready hmode hdomain hthreshold hbudget hwitnesses hown hlinks hnew hroom => ?_,
    fun s ring index c hon hready hmode hdomain hwitnesses hvoter hfrozen => ?_,
    fun s ring index c hon hready hmode hnode hlive hown => ?_,
    fun s ring index c m hon hready hmode hmember hlive hvoter => ?_,
    fun s ring index at_ rest c hon hentering hdue hcmd => ?_, fun s ring index c hon hready hmay => ?_,
    fun s hon hfw => ?_, fun s hon hfw hstep hlive hcommand => ?_⟩
  · obtain ⟨nodes, hrecord⟩ := fdChecked_domain (d := s.dev) hwitnesses
    have hsame := fdChecked_sameSetup s.dev c.desc
    have hcmd : (fdChecked s.dev c.desc).cmd ring index = some c := (hsame.cmd ring index).trans (cmd_of_ready hready)
    rw [exec_fdSetupDomain, execFdSetupDomain_of_checks hon hready hmode hown
      (by simp [fdSetupChecks, firstFail, hdomain, hthreshold, hbudget, hwitnesses, hlinks, hnew, hroom])]
    refine .of_next ⟨hsame.own, hsame.threshold.trans (fdDeclared_threshold hwitnesses),
      congrArg Domain.witnesses hrecord, congrArg Domain.budget hrecord, congrArg Domain.threshold hrecord, ?_,
      rfl, rfl, rfl⟩
    rw [hrecord]
    exact cmd_cmdDone hcmd _ _
  · rw [exec_fdSetupWitnessSet, execFdSetupWitnessSet]
    refine act_of hon ?_
    have hnonzero : (fld c.desc 0x12 2 != 0) = true := by simp [hdomain]
    simp only [hready, hmode, ne_eq, not_true_eq_false, if_false, firstFail, hnonzero, hwitnesses, hvoter, hfrozen,
      Bool.not_false, if_true]
  · rw [exec_membershipEnter, execMembershipEnter, State.act_on hon]
    simp only [hready, hmode, hnode, hlive, ne_eq, not_true_eq_false, if_false, Bool.false_or, beq_eq_false_iff_ne.mpr hown]
    have hruns : (s.dev.onCmd ring index fun c => { c with phase := .running }).cmd ring index =
      some { c with phase := .running } := cmd_onCmd (cmd_of_ready hready) fun _ => rfl
    exact .of_next ⟨hruns, rfl, rfl, rfl, rfl⟩
  · rw [exec_membershipExpel, execMembershipExpel]
    refine act_of hon ?_
    simp only [hready, hmode, ne_eq, not_true_eq_false, if_false, hmember, hlive, hvoter, Bool.and_self, if_true]
  · rw [exec_enterTimeout, execEnterTimeout, State.act_on hon]
    simp only [hentering, hdue, Dev.when_true]
    exact .of_next ⟨rfl, cmd_cmdFailState hcmd St.deadlineExpired, rfl, rfl, rfl⟩
  · rw [exec_managedRemoval, execManagedRemoval,
      actRead_cmdChecks hon hready (by simp [State.chip, firstFail, hmay])]
  · rw [exec_drainStepBound, execDrainStepBound, actMem_when hon hfw]
  · rw [exec_drainComplete, execDrainComplete, actMem_when hon hfw, drainAdvance_of_left hstep]
    refine .of_next ⟨?_, rfl, rfl, rfl⟩
    simp [State.withChip, State.chip, Chip.onDev, drainFinish, hstep, hlive, hcommand]

end Sys2Proof.Machine
end

section
/-! Rings, doorbells, fetches, completions and events (R399 to R414, R446). -/

namespace Sys2Proof.Machine

/-! ### A ring of the host interface -/

theorem ring_onRing_same {d : Dev} {ring : Nat} {f : Ring → Ring} (h : f (d.ring ring) ≠ {}) :
    (d.onRing ring f).ring ring = f (d.ring ring) := tget_tput_new h

/-- What a change does to a ring is decided at the ring as it stands. -/
theorem onRing_congr {d : Dev} {ring : Nat} {f g : Ring → Ring} (h : f (d.ring ring) = g (d.ring ring)) :
    d.onRing ring f = d.onRing ring g := by
  have htab : tmod {} d.hif.rings ring f = tmod {} d.hif.rings ring g := congrArg (tput ({} : Ring) d.hif.rings ring) h
  simp only [Dev.onRing, Dev.onHif, htab]

theorem enabled_ne_default {r : Ring} (h : r.state = .enabled) : r ≠ {} := by
  rintro rfl
  cases h

theorem reread_ne_default {r : Ring} (h : r.reread = true) : r ≠ {} := by
  rintro rfl
  cases h

theorem lineHeld_ne_default {r : Ring} (h : r.lineHeld = true) : r ≠ {} := by
  rintro rfl
  cases h

/-- A doorbell line that is read with RdShared is awaited, and nothing else of its ring changes (R407). -/
theorem doorbellReadIssue_ring (d : Dev) (ring : Nat) :
    (doorbellReadIssue d ring).ring ring = { d.ring ring with reread := true } := by
  have hrings : (count d Config.clover 0x2830 1).hif.rings = d.hif.rings := by rw [count_hif]
  have hkept : (hostPut (count d Config.clover 0x2830 1) 2 (.rdShared (d.ring ring).dbAddr)).ring ring = d.ring ring :=
    congrArg (tget ({} : Ring) · ring) hrings
  rw [doorbellReadIssue, ring_onRing_same (reread_ne_default rfl), hkept]

theorem doorbellReadIssue_pin (d : Dev) (ring : Nat) : (doorbellReadIssue d ring).hif.pin = d.hif.pin := by
  show (count d Config.clover 0x2830 1).hif.pin = d.hif.pin
  rw [count_hif]

/-! ### Ring registers and doorbells -/

/-- ENABLE set on a ring that is DISABLED acts on it (R405). -/
theorem execRingEnable_of_disabled {s : State} {ring : Nat} (hon : s.dev.on = true) (hbar : s.dev.bar = true)
    (hring : ring ≤ 64) (hmode : s.dev.boot.mode ≠ .recovery) (hstate : (s.dev.ring ring).state = .disabled) :
    execRingEnable ring s = .next (s.withDev (ringEnableOp s.dev ring)) := by
  rw [execRingEnable, act_when hon (by simp [hbar, evtRing, hring]), if_neg hmode]
  simp only [hstate]

theorem ringEnableOp_of_valid {d : Dev} {ring : Nat} (hvalid : ringValid d ring = true) :
    ringEnableOp d ring = doorbellReadIssue (d.onRing ring fun r =>
      { r with enable := true, state := .enabled, head := 0, tail := 0, prod := 0, cons := 0, stopped := false,
               unsignalled := 0, firstAt := 0, lineHeld := false }) ring := if_pos hvalid

/-- A STOPPING ring with nothing outstanding is disabled (Table 14-4). -/
theorem ringDrainedOp_of_stopping {r : Ring} (hstate : r.state = .stopping) (hidle : ringIdle r = true) :
    ringDrainedOp r = { r with state := .disabled } := by
  simp [ringDrainedOp, hstate, hidle]

/-- A COUNT of 1 to 256 is taken (R534). -/
theorem irqWriteOp_of_count {d : Dev} {ring v : Nat} (hlow : 1 ≤ bitsOf v 32 9) (hhigh : bitsOf v 32 9 ≤ 256) :
    irqWriteOp d ring v = ringSignal (d.onRing ring fun r =>
      { r with irqCount := bitsOf v 32 9, irqDelay := bitsOf v 48 16, irqVector := bitsOf v 0 8 }) ring false :=
  if_neg (by omega)

/-- The device once a held line of a ring has been given up. -/
def lineSnooped (d : Dev) (ring : Nat) : Dev :=
  (d.onHif fun h => { h with pin := some (.rspIHitSE (d.ring ring).dbAddr) }).onRing ring fun r => { r with lineHeld := false }

theorem lineSnooped_ring {d : Dev} {ring : Nat} (hstate : (d.ring ring).state = .enabled) :
    (lineSnooped d ring).ring ring = { d.ring ring with lineHeld := false } :=
  ring_onRing_same (enabled_ne_default hstate)

/-- A held line of an enabled ring is given up and read again (R407). -/
theorem execDoorbellSnoop_of_held {s : State} {ring : Nat} (hon : s.dev.on = true) (hup : s.dev.cxlUp = true)
    (hheld : (s.dev.ring ring).lineHeld = true) (hstate : (s.dev.ring ring).state = .enabled) :
    execDoorbellSnoop ring s = .next (s.withDev (doorbellReadIssue (lineSnooped s.dev ring) ring)) := by
  have hstill : ((lineSnooped s.dev ring).ring ring).state = .enabled :=
    (congrArg Ring.state (lineSnooped_ring hstate)).trans hstate
  rw [execDoorbellSnoop]
  refine act_of hon ?_
  simp only [hup, hheld, Bool.and_self, Dev.when_true]
  exact if_pos hstill

/-- What a sound record of a ring pair makes of the ring (R407, R408). -/
def recordTaken (rec_ : Bytes) (r : Ring) : Ring :=
  { r with tail := if dist32 (fld rec_ 0 4) r.head < dist32 r.tail r.head then r.tail else fld rec_ 0 4
           cons := fld rec_ 4 4, lineHeld := true }

/-- The device while a doorbell record that has been read is checked. -/
def recordRead (d : Dev) (ring : Nat) : Dev := d.onRing ring fun r => { r with reread := false }

theorem recordRead_ring {d : Dev} {ring : Nat} (hstate : (d.ring ring).state = .enabled) :
    (recordRead d ring).ring ring = { d.ring ring with reread := false } := ring_onRing_same (enabled_ne_default hstate)

theorem execDoorbellRead_of_sound {s : State} {ring : Nat} {record : Bytes} (hon : s.dev.on = true)
    (hup : s.dev.cxlUp = true) (hreread : (s.dev.ring ring).reread = true)
    (hstate : (s.dev.ring ring).state = .enabled) (hpair : ring < 64)
    (hsound : pairDoorbellError { s.dev.ring ring with reread := false } (padTo 64 record) = false) :
    execDoorbellRead ring record s =
      .next (s.withDev ((recordRead s.dev ring).onRing ring (recordTaken (padTo 64 record)))) := by
  have hring := recordRead_ring hstate
  have hstill : ((recordRead s.dev ring).ring ring).state = .enabled := (congrArg Ring.state hring).trans hstate
  have hgood : pairDoorbellError ((recordRead s.dev ring).ring ring) (padTo 64 record) = false := by rw [hring, hsound]
  rw [execDoorbellRead]
  refine act_of hon ?_
  simp only [hup, hreread, Bool.and_self, Dev.when_true]
  exact (if_neg (not_not.mpr hstill)).trans ((if_neg hpair.ne).trans (if_neg (ne_true_of_eq_false hgood)))

/-! ### Commands -/

/-- The next command of a ring starts (R411). -/
theorem execCommandStart_of_next {s : State} {ring : Nat} {c : Cmd} (hon : s.dev.on = true) (hring : ring < 64)
    (hup : s.dev.hostUp = true) (hnext : nextStart (s.dev.ring ring).fetched = some c) :
    execCommandStart ring s = .next (s.withDev (startOne s.dev ring c)) := by
  rw [execCommandStart, act_when hon (by simp [hring, hup])]
  simp only [hnext]

/-- A command that passes its checks and reads no buffer is ready to act. -/
theorem startOne_of_ready {d : Dev} {ring : Nat} {c : Cmd} (hpass : firstFail (startChecks d c.desc) = none)
    (hbuffer : readBuffer c.desc = none) :
    startOne d ring c = (d.onCmd ring c.index fun x => { x with startedAt := d.now }).onCmd ring c.index fun x =>
      { x with phase := .ready } := by
  simp only [startOne, hpass, hbuffer]

/-- The command that has started. -/
theorem cmd_started {d : Dev} {ring : Nat} {c : Cmd} (hcmd : d.cmd ring c.index = some c)
    (hpass : firstFail (startChecks d c.desc) = none) (hbuffer : readBuffer c.desc = none) :
    (startOne d ring c).cmd ring c.index = some { c with phase := .ready, startedAt := d.now } := by
  have hstamped : (d.onCmd ring c.index fun x => { x with startedAt := d.now }).cmd ring c.index =
    some { c with startedAt := d.now } := cmd_onCmd hcmd fun _ => rfl
  rw [startOne_of_ready hpass hbuffer]
  exact cmd_onCmd (f := fun x => { x with phase := .ready }) hstamped fun _ => rfl

theorem startOne_of_failed {d : Dev} {ring st off : Nat} {c : Cmd}
    (hfail : firstFail (startChecks d c.desc) = some (st, off)) :
    startOne d ring c = cmdFail d ring c.index st off := by
  simp only [startOne, hfail]

/-- A ring with an entry that its delay or its count makes due is signalled (R413). -/
theorem ringSignal_of_delay {d : Dev} {ring : Nat} (hentry : 0 < (d.ring ring).unsignalled)
    (hdue : d.due (d.ring ring).firstAt (d.ring ring).irqDelay = true) (now_ : Bool) :
    ringSignal d ring now_ = (msiSend d (d.ring ring).irqVector).onRing ring fun r => { r with unsignalled := 0 } :=
  if_pos ⟨hentry, .inr (.inr hdue)⟩

/-- Settles O11: each guard holds, and what the command does is then the branch named. -/
theorem ringCommands : Obligations.RingCommands := by
  unfold Obligations.RingCommands
  refine ⟨fun s ring hon hbar hring hmode hstate hvalid => ?_, fun s ring hon hbar hring hmode => ?_,
    fun s ring hon hring hstate hidle => ?_, fun s ring value hon hbar hring hmode hlow hhigh => ?_,
    fun s ring hon hup hheld hstate => ?_, fun s ring record hon hup hreread hstate hpair hsound => ?_,
    fun s n hon hup hturn => ?_, fun s ring c hon hring hup hnext hcmd hpass hbuffer => ?_,
    fun s ring st off c hon hring hup hnext hcmd hfail => ?_,
    fun s ring index c hon hcmd hphase hstate hera hup => ?_, fun s ring index c hon hcmd hphase hcut => ?_,
    fun s ring hon hentry hdue => ?_, fun s e q hon hroom hlost hqueue => ?_, fun s e q hon hroom hqueue => ?_,
    fun s hon hroom hlost => ?_, fun s code die at_ hon hlast hdue hheld => ?_⟩
  · rw [exec_ringEnable, execRingEnable_of_disabled hon hbar hring hmode hstate, ringEnableOp_of_valid hvalid]
  · rw [exec_ringDisable, execRingDisable, act_when hon (by simp [hbar, evtRing, hring]), if_neg hmode]
    rfl
  · rw [exec_ringDrained, execRingDrained, act_when hon (by simp [evtRing, hring]),
      onRing_congr (g := fun r => { r with state := .disabled }) (ringDrainedOp_of_stopping hstate hidle)]
  · rw [exec_hifIrqWrite, execHifIrqWrite, act_when hon (by simp [hbar, evtRing, hring]), if_neg hmode,
      irqWriteOp_of_count hlow hhigh]
  · rw [exec_doorbellSnoop, execDoorbellSnoop_of_held hon hup hheld hstate]
    have hring := (doorbellReadIssue_ring (lineSnooped s.dev ring) ring).trans
      (congrArg (fun r : Ring => { r with reread := true }) (lineSnooped_ring hstate))
    exact .of_next ⟨⟨rfl, rfl, rfl⟩, doorbellReadIssue_pin _ _, congrArg Ring.lineHeld hring, congrArg Ring.reread hring⟩
  · rw [exec_doorbellRead, execDoorbellRead_of_sound hon hup hreread hstate hpair hsound]
    have hring : ((recordRead s.dev ring).onRing ring (recordTaken (padTo 64 record))).ring ring =
        recordTaken (padTo 64 record) { s.dev.ring ring with reread := false } := by
      rw [ring_onRing_same (lineHeld_ne_default rfl), recordRead_ring hstate]
    exact .of_next ⟨congrArg Ring.tail hring, congrArg Ring.cons hring, congrArg Ring.lineHeld hring,
      congrArg Ring.reread hring, rfl, rfl, rfl⟩
  · rw [exec_descriptorFetch, execDescriptorFetch, act_when hon hup]
    simp only [hturn]
  · rw [exec_commandStart, execCommandStart_of_next hon hring hup hnext]
    exact .of_next ⟨cmd_started hcmd hpass hbuffer, rfl, rfl, rfl⟩
  · rw [exec_commandStart, execCommandStart_of_next hon hring hup hnext, startOne_of_failed hfail]
    exact .of_next ⟨cmd_cmdFail hcmd st off, rfl, rfl, rfl⟩
  · have hlive : ¬ ((s.dev.ring ring).state = .disabled ∨ index / 4294967296 ≠ (s.dev.ring ring).era) := by
      simp [hstate, hera]
    rw [exec_completionWrite, execCompletionWrite]
    refine act_of hon ?_
    simp only [hcmd, hphase, ne_eq, not_true_eq_false, if_false, if_neg hlive, if_pos hup]
    rfl
  · rw [exec_completionWrite, execCompletionWrite]
    refine act_of hon ?_
    simp only [hcmd, hphase, ne_eq, not_true_eq_false, if_false, if_pos hcut]
  · rw [exec_interruptDelayExpiry, execInterruptDelayExpiry]
    exact act_of hon (ringSignal_of_delay hentry hdue false)
  · rw [exec_eventRecordWrite, execEventRecordWrite]
    refine act_of hon ?_
    simp [hroom, hlost, hqueue]
  · rw [exec_eventRecordWrite, execEventRecordWrite]
    refine act_of hon ?_
    simp only [hroom, Bool.false_and, Bool.false_eq_true, if_false, hqueue]
    rfl
  · rw [exec_eventRecordWrite, execEventRecordWrite]
    refine act_of hon ?_
    simp only [hroom, hlost, decide_true, Bool.and_self, if_true]
    rfl
  · rw [exec_countedEventFlush, execCountedEventFlush]
    refine act_of hon ?_
    simp only [hlast, if_pos (And.intro hdue hheld)]
    rfl

end Sys2Proof.Machine
end
